-- ==== Sys2Proof/Word.lean ====
section
/-! DEFINITION. The word types of the signal line and of the node clock. -/

namespace Sys2Proof

/-- One byte of a frame or of a table record (spec 02, Bytes, frames and the receive state). -/
abbrev Byte := BitVec 8

/-- The 16-bit frame check sequence (R22). -/
abbrev Fcs := BitVec 16

/-- The 32-bit node clock and master time, in milliseconds modulo 2^32 (R75). -/
abbrev Clock := BitVec 32

end Sys2Proof
end

