-- ==== Sys2Proof/Syntax.lean ====
section
/-! DEFINITION. The commands of the node: one constructor per row of the opcode table, in the table's
order, with the operands the spec gives the event. -/

namespace Sys2Proof

/-- What the node reads from its pins and its die sensor as a node reset takes effect (R31, R144). -/
structure ResetInputs where
  /-- the address straps ADDR[7:0] -/
  straps : Byte
  /-- ADDR_MODE selects RING -/
  ring : Bool
  /-- the die temperature shown, in degrees Celsius -/
  die : Int
deriving DecidableEq, Repr

/-- An ORDER frame as received with its FCS good (R20), but for its order code, and the level of KEY at
its frame end (R40). The body length byte is the length of `body`. -/
structure Order where
  dest : Byte
  authority : Byte
  tag : Byte
  body : List Byte
  key : Bool
deriving DecidableEq, Repr

/-- A SWEEP frame as received with its FCS good; the slot count is the number of slots. -/
structure SweepFrame where
  number : Byte
  /-- bit 0 phase, bits 3..1 lighting level, bits 7..4 ignored -/
  control : Byte
  masterTime : Clock
  /-- one 12-byte slot for each address from 1 up -/
  slots : List (List Byte)
deriving DecidableEq, Repr

/-- A REPLY frame of some node, as received with its FCS good. -/
structure ReplyFrame where
  source : Byte
  status : Byte
  tag : Byte
  code : Byte
  body : List Byte
deriving DecidableEq, Repr

/-- The commands. -/
inductive Instr where
  | powerOn (p : ResetInputs)
  | resetN (p : ResetInputs)
  /-- a frame begins on IN, with its kind byte and the byte after it -/
  | frameStart (kind second : Byte)
  | framingError
  | unknownFrame
  | frameTruncation
  | surplusBytes
  | inIdleGap
  /-- the whole frame as received, its bad FCS included -/
  | badFcsFrameEnd (frame : List Byte)
  | sweep (f : SweepFrame)
  /-- the slot count N of the SWEEP that is leaving -/
  | ownSlotWrite (slotCount : Byte)
  | replyFrame (f : ReplyFrame)
  | enumerate (next flags : Byte)
  /-- the absorbed ORDER with its code and the FCS received -/
  | orderNotActedOn (code : Byte) (o : Order) (fcs : Fcs)
  | unknownOrder (code : Byte) (o : Order)
  | outGapElapsed
  | replyLeftOut
  | passThroughLeftOut
  | lineBreak
  | lineReset
  | readNode (o : Order)
  | readLamps (o : Order)
  | readEvents (o : Order)
  | peekEvents (o : Order)
  | tableWrite (o : Order)
  | tableRead (o : Order)
  | commitTables (o : Order)
  | discardShadow (o : Order)
  | commitCompletion
  | stage (o : Order)
  | take (o : Order)
  | takeAt (o : Order)
  | cancelTakes (o : Order)
  | scheduleFiring
  | enterService (o : Order)
  | leaveService (o : Order)
  | hold (o : Order)
  | stepHeads (o : Order)
  | release (o : Order)
  | lampTest (o : Order)
  | clearLampFault (o : Order)
  | relearn (o : Order)
  | restartKeepTables (o : Order)
  | restartFull (o : Order)
  | keepTablesRestartEffect (p : ResetInputs)
  | fullRestartEffect (p : ResetInputs)
  | watchdogExpiry
  | mergeDwellCompletion (head : Fin 8)
  | clearanceCompletion (lane : Fin 4)
  | stallTimeout (head : Fin 8)
  /-- the neighbour record of the pair (address, head) -/
  | staleExpiry (address : Byte) (head : Fin 8)
  | slewTick
  /-- the die temperature shown, in degrees Celsius -/
  | temperatureSample (reading : Int)
  /-- the 32 measured codes M -/
  | sampleEvent (m : List Nat)
  | supplyLoss
  | resetNAsserted
  | orderForwardedOnly (code : Byte) (o : Order)
deriving DecidableEq, Repr

end Sys2Proof
end

