-- ==== Sys2Proof/Config.lean ====
section
/-! DEFINITION. The free values: what the inputs read when no command brings a reading. -/

namespace Sys2Proof.Config

/-- What sense input `c` measures at the `k`-th reading the node takes of its own as time passes. An
input from outside, so nothing is known of it (log 4). -/
opaque senseInput (k c : Nat) : Nat

/-- What the die sensor shows at the `k`-th reading the node takes of its own (log 4). -/
opaque dieInput (k : Nat) : Int

end Sys2Proof.Config
end

