-- ==== Sys2Proof/Machine/State.lean ====
section
/-! DEFINITION. The state of the node: every item the manual gives each block, the queue of commands
that wait, and the state right after a power-on reset. -/

namespace Sys2Proof.Machine

/-! ## Names the manual fixes -/

/-- The node modes (R35). -/
inductive Mode where
  | unconfigured | outOfService | inService | fallback | lockout
deriving DecidableEq, Repr

/-- The restart causes (R36). -/
inductive Cause where
  | powerOn | resetPin | restartKeep | restartFull
deriving DecidableEq, Repr

/-- The variants of RESTART (R49). -/
inductive RestartKind where
  | keepTables | full
deriving DecidableEq, Repr

/-- The five aspects (R7). -/
inductive Aspect where
  | dark | open_ | mergeL | mergeR | closed
deriving DecidableEq, Repr

/-- The two directions of traffic, and so the two faces of a lane (R2). -/
inductive Face where
  | asc | desc
deriving DecidableEq, Repr

/-- The kinds of a lane (R3). -/
inductive LaneKind where
  | absent | ascOnly | descOnly | tidal
deriving DecidableEq, Repr

/-- Primary or alternate pattern (R5). -/
inductive PatternKind where
  | primary | alternate
deriving DecidableEq, Repr

/-- Where a head stands on its path (R86); stage none is the absence of one. -/
inductive Stage where
  | steady | merging | closeWait | openingWait | held
deriving DecidableEq, Repr

/-- The judgement of a head's displayed pattern (R153). -/
inductive Proving where
  | unproven | proven | degraded | failed
deriving DecidableEq, Repr

/-- The judgement of a channel (R147). -/
inductive ChannelState where
  | ok | drift | failed
deriving DecidableEq, Repr

/-- Why a FAILED channel failed (R147). -/
inductive FailureKind where
  | none | current | stuckOn
deriving DecidableEq, Repr

/-- The eight tables of a bank (R53). -/
inductive Table where
  | node | lanes | heads | plans | timing | intensity | calibration | alarmMask
deriving DecidableEq, Repr

/-- The values of the last commit result (R61). -/
inductive CommitResult where
  | none | ok | aborted
  | nodeUnset | timingUnset | intensityUnset
  | laneHeadMismatch | patternNotFitted | channelShared | channelClassOverlap | noEssential
  | neighbourSelf | noLanes
  | planFace | planNotFitted | planTidalConflict | planMergeTarget | fallbackPlan
  | commissioningInService
deriving DecidableEq, Repr

/-- The receive state of IN (R19). -/
inductive RxState where
  | settling | idle | frame | ended | discard | brk
deriving DecidableEq, Repr

/-- The transmit state of OUT (R26). -/
inductive TxState where
  | idle | passing | replying
deriving DecidableEq, Repr

/-- Where the bytes of the frame on IN go: cut-through, the elastic buffer or the absorb store
(R23, R25, R27). -/
inductive Route where
  | through | buffered | absorbed
deriving DecidableEq, Repr

/-- Event kinds with their objects (R163). -/
inductive EventKind where
  | lampFailed (channel : Fin 32)
  | lampStuckOn (channel : Fin 32)
  | lampDrift (channel : Fin 32)
  | alternateInUse (head : Fin 8) (aspect : Aspect)
  | headFailed (head : Fin 8)
  | sequenceStalled (head : Fin 8)
  | fallbackEntered
  | fallbackLeft
  | repeatedHeartbeat
  | duplicateAddress
  | planUnknown (plan : Nat)
  | taken (plan : Nat)
  | scheduledTakeFailed (plan : Nat)
  | takeWithoutStage
  | scheduleFull
  | commitDone
  | commitFailed (result : CommitResult)
  | overTemperature
  | temperatureNormal
  | conflictLockout (lane : Fin 4)
  | restarted (cause : Cause)
deriving DecidableEq, Repr

/-! ## Records -/

/-- One bank: the records of each table as the bytes last written, and the written markers
(R53, R54). -/
structure Bank where
  node : List (List Byte)
  lanes : List (List Byte)
  heads : List (List Byte)
  plans : List (List Byte)
  timing : List (List Byte)
  intensity : List (List Byte)
  calibration : List (List Byte)
  alarmMask : List (List Byte)
  nodeWritten : Bool
  timingWritten : Bool
  intensityWritten : Bool
deriving DecidableEq, Repr

/-- The frame in progress on IN. -/
structure RxFrame where
  kind : Byte
  second : Byte
  route : Route
  /-- a framing error has been found in it, and counted (R28) -/
  damaged : Bool
  /-- its slots are captured for the record set as it stands: cleared by a rebuild (R115) -/
  capturing : Bool
  /-- the node mode as its first bytes arrived, for an ENUMERATE its flags byte, lets a set reassign flag
  make the node eligible (R23, R32, log 6) -/
  reassignable : Bool
deriving DecidableEq, Repr

/-- A frame that the pass-through owns, leaving OUT or waiting to. -/
structure OutFrame where
  kind : Byte
  second : Byte
  /-- as received, with the rewritten next address of an ENUMERATE; empty before its frame end -/
  bytes : List Byte
  /-- its frame end on IN has come -/
  ended : Bool
  /-- it leaves with a complemented FCS (R23) -/
  bad : Bool
  /-- the own slot written in passing: byte offset and the 12 bytes (R118) -/
  slot : Option (Nat × List Byte)
deriving DecidableEq, Repr

/-- The Line Port (spec 02). -/
structure LinePort where
  /-- 0 is unassigned, else 1..200 (R31) -/
  address : Nat
  /-- address mode RING; clear is STRAP -/
  ring : Bool
  lineErrors : Nat
  rx : RxState
  rxFrame : Option RxFrame
  absorb : List Byte
  /-- the frame being passed cut-through -/
  thru : Option OutFrame
  elastic : Option OutFrame
  replySlot : Option (List Byte)
  tx : TxState
  /-- OUT has stood at mark for 20 bit times since the last frame it sent (R26) -/
  outGap : Bool
  /-- the last frame that left OUT whole (the model's record of OUT, log 7) -/
  lastSent : List Byte
deriving DecidableEq, Repr

/-- Node Control, the pending restart, and the pins the node reads (R36, R49, R51). -/
structure NodeControl where
  mode : Mode
  hold : Bool
  tablesValid : Bool
  restartCause : Cause
  tablesRetained : Bool
  restartPending : Option RestartKind
  /-- the reply of the pending restart has left OUT or has been dropped (log 10) -/
  restartDue : Bool
  supplyOk : Bool
  resetNHigh : Bool
  key : Bool
  straps : Byte
  addrModeRing : Bool
deriving DecidableEq, Repr

/-- The Table Store (spec 04). -/
structure TableStore where
  active : Bank
  shadow : Bank
  /-- the commit-in-flight state is VALIDATING -/
  validating : Bool
  /-- ms of local time since the commit started -/
  commitAge : Nat
  lastResult : CommitResult
  lastTable : Nat
  lastIndex : Nat
deriving DecidableEq, Repr

/-- An entry of the schedule (R77). -/
structure ScheduleEntry where
  due : Clock
  plan : Nat
deriving DecidableEq, Repr

/-- The Take Unit (R66). -/
structure TakeUnit where
  clock : Clock
  pendingPlan : Option Nat
  schedule : List ScheduleEntry
  /-- 0 is none -/
  currentPlan : Nat
  scheduleFull : Bool
deriving DecidableEq, Repr

/-- A neighbour record (R110). -/
structure Neighbour where
  address : Byte
  head : Fin 8
  aspect : Aspect
  proving : Proving
  lastRefresh : Option Nat
  fresh : Bool
deriving DecidableEq, Repr

/-- A captured slot entry: the stamp and the head byte (R115). -/
structure Captured where
  stamp : Byte
  headByte : Byte
deriving DecidableEq, Repr

/-- The Sweep Unit (R110). -/
structure SweepUnit where
  lastPhase : Option Bool
  records : List Neighbour
  /-- one entry, or none, for each record in order; empty outside a SWEEP's frame end (log 6) -/
  capture : List (Option Captured)
deriving DecidableEq, Repr

/-- The Control Watchdog (R124). -/
structure Watchdog where
  armed : Bool
  start : Option Nat
  stream : Bool
deriving DecidableEq, Repr

/-- The Lamp Drive's node-wide items (R135); the codes stand with the channels. -/
structure LampDrive where
  level : Nat
  derate : Bool
  temperature : Int
  power : Bool
  /-- ms of local time since the last temperature reading (R144) -/
  sinceReading : Nat
  /-- ms of local time since the last lamp sample (R148) -/
  sinceSample : Nat
deriving DecidableEq, Repr

/-- A lamp test (R158). -/
structure LampTest where
  aspect : Aspect
  pattern : PatternKind
deriving DecidableEq, Repr

/-- A head: the sequencer's head record (R84) and the Lamp Proving Unit's items (R147). -/
structure Head where
  displayed : Aspect
  target : Option Aspect
  stage : Option Stage
  mergeSince : Option Nat
  mergeServed : Nat
  waitStart : Option Nat
  waitTime : Nat
  stalled : Bool
  altOpen : Bool
  altMergeL : Bool
  altMergeR : Bool
  altClosed : Bool
  proving : Proving
  test : Option LampTest
deriving DecidableEq, Repr

/-- A lane: the sequencer's lane record (R85) and the conflict count (R147). -/
structure Lane where
  clearSince : Option Nat
  clearCount : Nat
  clear : Bool
  conflictCount : Nat
deriving DecidableEq, Repr

/-- A channel: its drive codes (R135) and its proving items (R147). -/
structure Channel where
  target : Nat
  output : Nat
  lastM : Nat
  ref : Nat
  state : ChannelState
  kind : FailureKind
  settle : Nat
  fault : Nat
  stuck : Nat
deriving DecidableEq, Repr

/-- What hangs on the gantry: heads, lanes, channels and the slew timer (idle is none, R141). -/
structure Gantry where
  heads : Vector Head 8
  lanes : Vector Lane 4
  channels : Vector Channel 32
  slew : Option Nat
deriving DecidableEq, Repr

/-- An entry of the event queue (R163). -/
structure Event where
  kind : EventKind
  detailTable : Nat
  detailIndex : Nat
  stamp : Clock
deriving DecidableEq, Repr

/-- The Event Unit (R162). -/
structure EventUnit where
  queue : List Event
  overflow : Bool
deriving DecidableEq, Repr

/-- The node. -/
structure State where
  line : LinePort
  node : NodeControl
  store : TableStore
  take : TakeUnit
  gantry : Gantry
  sweep : SweepUnit
  watchdog : Watchdog
  lamp : LampDrive
  events : EventUnit
  /-- local time in ms (spec 00, Time; log 12) -/
  now : Nat
  /-- how many input readings the node has taken of its own (the model's, log 4) -/
  inputReads : Nat
  /-- the commands that wait, first in first out -/
  pending : List Instr
deriving DecidableEq, Repr

/-! ## How a step can stop -/

/-- No command stops the node with a fault: the spec answers, drops or counts whatever it does not
carry out. -/
inductive Fault where
deriving DecidableEq, Repr

/-- Refusals. -/
inductive Refusal where
  /-- Raised by exec alone, for a command that has no meaning yet; safe. -/
  | notModelled (mnemonic : String)
deriving DecidableEq, Repr

/-! ## Reset -/

/-- The reset contents of both banks (R54). -/
def Bank.reset : Bank where
  node := [List.replicate 9 0#8]
  lanes := List.replicate 4 (List.replicate 11 0#8)
  heads := List.replicate 8 (List.replicate 36 0#8)
  plans := List.replicate 64 (List.replicate 9 0#8)
  timing := [List.replicate 18 0#8]
  intensity := [List.replicate 19 0#8]
  calibration := List.replicate 32 [0x80#8, 0#8, 0#8, 0#8]
  alarmMask := [[0#8]]
  nodeWritten := false
  timingWritten := false
  intensityWritten := false

/-- A head after a node reset (R84, R147). -/
def Head.reset : Head where
  displayed := .dark
  target := none
  stage := none
  mergeSince := none
  mergeServed := 0
  waitStart := none
  waitTime := 0
  stalled := false
  altOpen := false
  altMergeL := false
  altMergeR := false
  altClosed := false
  proving := .unproven
  test := none

/-- A lane after a node reset (R85, R147). -/
def Lane.reset : Lane where
  clearSince := none
  clearCount := 0
  clear := false
  conflictCount := 0

/-- A channel after a power-on reset (R135, R147). -/
def Channel.reset : Channel where
  target := 0
  output := 0
  lastM := 0
  ref := 1024
  state := .ok
  kind := .none
  settle := 0
  fault := 0
  stuck := 0

/-- The node right after a power-on reset (R51), with the straps at 0, ADDR_MODE at STRAP, KEY not
asserted and the die at 0 °C (DESIGN CHOICE, log 5). -/
def State.reset : State where
  line := {
    address := 0, ring := false, lineErrors := 0, rx := .settling, rxFrame := none, absorb := [],
    thru := none, elastic := none, replySlot := none, tx := .idle, outGap := false, lastSent := [] }
  node := {
    mode := .unconfigured, hold := false, tablesValid := false, restartCause := .powerOn,
    tablesRetained := false, restartPending := none, restartDue := false, supplyOk := true,
    resetNHigh := true, key := false, straps := 0#8, addrModeRing := false }
  store := {
    active := Bank.reset, shadow := Bank.reset, validating := false, commitAge := 0,
    lastResult := .none, lastTable := 0, lastIndex := 0 }
  take := {
    clock := 0#32, pendingPlan := none, schedule := [], currentPlan := 0, scheduleFull := false }
  gantry := {
    heads := Vector.replicate 8 Head.reset, lanes := Vector.replicate 4 Lane.reset,
    channels := Vector.replicate 32 Channel.reset, slew := none }
  sweep := { lastPhase := none, records := [], capture := [] }
  watchdog := { armed := false, start := none, stream := false }
  lamp := {
    level := 7, derate := false, temperature := 0, power := true, sinceReading := 0,
    sinceSample := 0 }
  events := {
    queue := [{ kind := .restarted .powerOn, detailTable := 0, detailIndex := 0, stamp := 0#32 }],
    overflow := false }
  now := 0
  inputReads := 0
  pending := []

end Sys2Proof.Machine
end

