-- ==== Sys2Proof/Machine/Operands.lean ====
section
/-! DEFINITION. The forms data take: bytes and their order, the frame check sequence, the frame
layouts, and the fields of the table records with their ranges. -/

namespace Sys2Proof.Machine

/-! ## Bytes -/

/-- Byte `i` of a byte string; a byte beyond its end reads 0 (no record or body is read so, log 20). -/
def byteAt (r : List Byte) (i : Nat) : Byte := r.getD i 0#8

/-- Byte `i` as a number. -/
def natAt (r : List Byte) (i : Nat) : Nat := (byteAt r i).toNat

/-- The two bytes at `i`, most significant first (spec 00, Bits and bytes). -/
def wordAt (r : List Byte) (i : Nat) : Nat := natAt r i * 256 + natAt r (i + 1)

/-- The low 8 bits of a number. -/
def byteOf (n : Nat) : Byte := BitVec.ofNat 8 n

/-- One bit as a number. -/
def bit (b : Bool) : Nat := if b then 1 else 0

/-- Two bytes, most significant first. -/
def be16 (n : Nat) : List Byte := [byteOf (n / 256), byteOf n]

/-- Four bytes, most significant first. -/
def be32 (w : Clock) : List Byte :=
  [w.extractLsb' 24 8, w.extractLsb' 16 8, w.extractLsb' 8 8, w.extractLsb' 0 8]

/-- The 32-bit field at `i`, most significant byte first. -/
def clockAt (r : List Byte) (i : Nat) : Clock :=
  (byteAt r i ++ byteAt r (i + 1)) ++ (byteAt r (i + 2) ++ byteAt r (i + 3))

/-! ## The frame check sequence (R22) -/

/-- One bit of the division by x^16 + x^12 + x^5 + 1. -/
def crcBit (c : Fcs) : Fcs := if c.msb then (c <<< 1) ^^^ 0x1021#16 else c <<< 1

/-- One byte, most significant bit first. -/
def crcByte (c : Fcs) (b : Byte) : Fcs :=
  crcBit (crcBit (crcBit (crcBit (crcBit (crcBit (crcBit (crcBit
    (c ^^^ (b.setWidth 16 <<< 8)))))))))

/-- The frame check sequence over byte values, from all ones, not inverted. -/
def crc (bytes : List Byte) : Fcs := bytes.foldl crcByte 0xFFFF#16

/-- The two FCS bytes, high byte first. -/
def fcsBytes (c : Fcs) : List Byte := [c.extractLsb' 8 8, c.extractLsb' 0 8]

/-- A byte string closed with its FCS. -/
def withFcs (bytes : List Byte) : List Byte := bytes ++ fcsBytes (crc bytes)

/-- A frame without its two FCS bytes. -/
def frameBody (frame : List Byte) : List Byte := frame.take (frame.length - 2)

/-- The received FCS equals the computed one. -/
def fcsGood (frame : List Byte) : Bool := frame == withFcs (frameBody frame)

/-! ## Frames (spec 02, Frame layouts) -/

def sweepKind : Byte := 0x31#8
def orderKind : Byte := 0x42#8
def replyKind : Byte := 0x43#8
def enumerateKind : Byte := 0x44#8

/-- `lo ≤ x ≤ hi`. -/
def inRange (lo hi x : Nat) : Bool := lo ≤ x && x ≤ hi

/-- What the bytes of a frame received so far say of its length (R20). -/
inductive Header where
  /-- the kind byte is none of the four, or the count or length byte is out of its range -/
  | unknown
  /-- the kind byte, or the byte that gives the length, has not come -/
  | unfinished
  /-- the frame end comes with the last byte of this length -/
  | expects (length : Nat)
deriving DecidableEq, Repr

/-- The length that byte `i` of a frame, in `lo..hi`, gives it: `unit` bytes for each count, and what
stands before and after them. -/
def headerAt (frame : List Byte) (i lo hi unit : Nat) : Header :=
  if frame.length ≤ i then .unfinished
  else if inRange lo hi (natAt frame i) then .expects (i + 1 + unit * natAt frame i + 2)
  else .unknown

/-- The header of a frame (R20). -/
def headerOf (frame : List Byte) : Header :=
  if frame = [] then .unfinished
  else if byteAt frame 0 = sweepKind then headerAt frame 7 1 200 12
  else if byteAt frame 0 = orderKind then headerAt frame 5 0 240 1
  else if byteAt frame 0 = replyKind then headerAt frame 5 4 244 1
  else if byteAt frame 0 = enumerateKind then .expects 5
  else .unknown

/-- The four kinds of frame. -/
def knownKind (kind : Byte) : Bool := [sweepKind, orderKind, replyKind, enumerateKind].contains kind

/-- A REPLY without its FCS. -/
def replyBody (source status tag code : Byte) (body : List Byte) : List Byte :=
  [replyKind, source, status, tag, code, byteOf body.length] ++ body

/-- An ENUMERATE with its FCS. -/
def enumerateBytes (next flags : Byte) : List Byte := withFcs [enumerateKind, next, flags]

end Sys2Proof.Machine

namespace Sys2Proof

open Machine

/-- A SWEEP as received. -/
def SweepFrame.bytes (f : SweepFrame) : List Byte :=
  withFcs ([sweepKind, f.number, f.control] ++ be32 f.masterTime ++ [byteOf f.slots.length]
    ++ f.slots.flatten)

/-- The phase, bit 0 of the control byte (R112). -/
def SweepFrame.phase (f : SweepFrame) : Bool := f.control.getLsbD 0

/-- The lighting level, bits 3..1 of the control byte (R114). -/
def SweepFrame.level (f : SweepFrame) : Nat := (f.control.extractLsb' 1 3).toNat

/-- Byte `i` of the slot of an address, as received (spec 02, SWEEP). -/
def SweepFrame.slotByte (f : SweepFrame) (address i : Nat) : Byte :=
  byteAt f.bytes (8 + 12 * (address - 1) + i)

/-- An ORDER without its FCS. -/
def Order.frame (code : Byte) (o : Order) : List Byte :=
  [orderKind, o.dest, o.authority, o.tag, code, byteOf o.body.length] ++ o.body

/-- A REPLY as received. -/
def ReplyFrame.bytes (f : ReplyFrame) : List Byte :=
  withFcs (replyBody f.source f.status f.tag f.code f.body)

end Sys2Proof

namespace Sys2Proof.Machine

/-! ## Tables and banks (R53) -/

/-- The table of an id. -/
def Table.ofId : Nat → Option Table
  | 1 => some .node
  | 2 => some .lanes
  | 3 => some .heads
  | 4 => some .plans
  | 5 => some .timing
  | 6 => some .intensity
  | 7 => some .calibration
  | 8 => some .alarmMask
  | _ => none

/-- The id of a table. -/
def Table.id : Table → Nat
  | .node => 1
  | .lanes => 2
  | .heads => 3
  | .plans => 4
  | .timing => 5
  | .intensity => 6
  | .calibration => 7
  | .alarmMask => 8

/-- How many records a table holds. -/
def Table.records : Table → Nat
  | .node => 1
  | .lanes => 4
  | .heads => 8
  | .plans => 64
  | .timing => 1
  | .intensity => 1
  | .calibration => 32
  | .alarmMask => 1

/-- The size of a table's record in bytes. -/
def Table.size : Table → Nat
  | .node => 9
  | .lanes => 11
  | .heads => 36
  | .plans => 9
  | .timing => 18
  | .intensity => 19
  | .calibration => 4
  | .alarmMask => 1

/-- A commissioning table. -/
def Table.commissioning : Table → Bool
  | .node | .lanes | .heads => true
  | .plans | .timing | .intensity | .calibration | .alarmMask => false

/-- The records of a table in a bank. -/
def Bank.rows (b : Bank) : Table → List (List Byte)
  | .node => b.node
  | .lanes => b.lanes
  | .heads => b.heads
  | .plans => b.plans
  | .timing => b.timing
  | .intensity => b.intensity
  | .calibration => b.calibration
  | .alarmMask => b.alarmMask

/-- One record of a table. -/
def Bank.row (b : Bank) (t : Table) (i : Nat) : List Byte := (b.rows t).getD i []

/-- A record written whole; NODE, TIMING and INTENSITY take their written marker (R54, R58). -/
def Bank.write (b : Bank) (t : Table) (i : Nat) (r : List Byte) : Bank :=
  match t with
  | .node => { b with node := b.node.set i r, nodeWritten := true }
  | .lanes => { b with lanes := b.lanes.set i r }
  | .heads => { b with heads := b.heads.set i r }
  | .plans => { b with plans := b.plans.set i r }
  | .timing => { b with timing := b.timing.set i r, timingWritten := true }
  | .intensity => { b with intensity := b.intensity.set i r, intensityWritten := true }
  | .calibration => { b with calibration := b.calibration.set i r }
  | .alarmMask => { b with alarmMask := b.alarmMask.set i r }

/-! ## Aspects, faces and lanes (chapter 1) -/

/-- The slot and table aspect code (R7). -/
def Aspect.code : Aspect → Nat
  | .dark => 0
  | .open_ => 1
  | .mergeL => 2
  | .mergeR => 3
  | .closed => 4

/-- The aspect of a table code 1..4. -/
def Aspect.ofCode : Nat → Option Aspect
  | 1 => some .open_
  | 2 => some .mergeL
  | 3 => some .mergeR
  | 4 => some .closed
  | _ => none

/-- OPEN, MERGE_L and MERGE_R are permissive. -/
def Aspect.permissive : Aspect → Bool
  | .open_ | .mergeL | .mergeR => true
  | .dark | .closed => false

/-- MERGE_L and MERGE_R. -/
def Aspect.merge : Aspect → Bool
  | .mergeL | .mergeR => true
  | .dark | .open_ | .closed => false

/-- The aspects a head can be fitted with, in the order of R16. -/
def litAspects : List Aspect := [.open_, .mergeL, .mergeR, .closed]

/-- The other direction. -/
def Face.other : Face → Face
  | .asc => .desc
  | .desc => .asc

/-- The face as a number, as HEADS codes it (R56). -/
def Face.code : Face → Nat
  | .asc => 0
  | .desc => 1

def allLanes : List (Fin 4) := [0, 1, 2, 3]

def allHeads : List (Fin 8) := [0, 1, 2, 3, 4, 5, 6, 7]

/-- The channels 0..31. -/
def allChannels : List (Fin 32) :=
  [0, 1, 2, 3, 4, 5, 6, 7, 8, 9, 10, 11, 12, 13, 14, 15] ++
  [16, 17, 18, 19, 20, 21, 22, 23, 24, 25, 26, 27, 28, 29, 30, 31]

/-- The eight faces in record order: lane 0 ASC, lane 0 DESC, … lane 3 DESC (R14). -/
def allFaces : List (Fin 4 × Face) :=
  [(0, .asc), (0, .desc), (1, .asc), (1, .desc), (2, .asc), (2, .desc), (3, .asc), (3, .desc)]

/-- The kind a byte codes; a byte above 3 stands in no checked table (log 20). -/
def LaneKind.ofCode : Nat → LaneKind
  | 1 => .ascOnly
  | 2 => .descOnly
  | 3 => .tidal
  | _ => .absent

/-- The faces a kind gives (R3). -/
def LaneKind.gives : LaneKind → Face → Bool
  | .absent, _ => false
  | .ascOnly, .asc => true
  | .ascOnly, .desc => false
  | .descOnly, .asc => false
  | .descOnly, .desc => true
  | .tidal, _ => true

/-- A head index in a byte. -/
def headOf (b : Byte) : Fin 8 := Fin.ofNat 8 b.toNat

/-- A neighbour reference (R12). -/
structure Reference where
  address : Byte
  head : Fin 8
deriving DecidableEq, Repr

/-- The lane's kind. -/
def Bank.laneKind (b : Bank) (k : Fin 4) : LaneKind := .ofCode (natAt (b.row .lanes k) 0)

/-- A TIDAL lane. -/
def Bank.tidal (b : Bank) (k : Fin 4) : Bool := b.laneKind k == .tidal

/-- The lane's kind gives the face. -/
def Bank.facePresent (b : Bank) (k : Fin 4) (f : Face) : Bool := (b.laneKind k).gives f

/-- Where a face entry begins in a LANES record (R55). -/
def Face.offset : Face → Nat
  | .asc => 1
  | .desc => 6

/-- The head a face entry names. -/
def Bank.faceHead (b : Bank) (k : Fin 4) (f : Face) : Fin 8 :=
  headOf (byteAt (b.row .lanes k) f.offset)

/-- The reference at an offset of a LANES record; address 0 is an absent one. -/
def referenceAt (r : List Byte) (i : Nat) : Option Reference :=
  if byteAt r i = 0#8 then none else some ⟨byteAt r i, headOf (byteAt r (i + 1))⟩

def Bank.upstream (b : Bank) (k : Fin 4) (f : Face) : Option Reference :=
  referenceAt (b.row .lanes k) (f.offset + 1)

def Bank.downstream (b : Bank) (k : Fin 4) (f : Face) : Option Reference :=
  referenceAt (b.row .lanes k) (f.offset + 3)

/-- The present faces in record order. -/
def Bank.faces (b : Bank) : List (Fin 4 × Face) :=
  allFaces.filter fun kf => b.facePresent kf.1 kf.2

/-- The lane face whose entry names the head (R87, log 16). -/
def Bank.servedFace (b : Bank) (h : Fin 8) : Option (Fin 4 × Face) :=
  b.faces.find? fun kf => b.faceHead kf.1 kf.2 == h

/-- The head of the opposite face, when the head serves a face of a TIDAL lane (R88). -/
def Bank.oppositeHead (b : Bank) (h : Fin 8) : Option (Fin 8) :=
  match b.servedFace h with
  | some (k, f) => if b.tidal k then some (b.faceHead k f.other) else none
  | none => none

/-! ## Heads and patterns (R5, R9, R56) -/

def Bank.headExists (b : Bank) (h : Fin 8) : Bool := natAt (b.row .heads h) 0 == 1

/-- The head's own lane field. -/
def Bank.headLane (b : Bank) (h : Fin 8) : Fin 4 := Fin.ofNat 4 (natAt (b.row .heads h) 1)

/-- The head's own face field. -/
def Bank.headFace (b : Bank) (h : Fin 8) : Face :=
  if natAt (b.row .heads h) 2 = 0 then .asc else .desc

def Bank.closingMerge (b : Bank) (h : Fin 8) : Aspect :=
  if natAt (b.row .heads h) 3 = 2 then .mergeL else .mergeR

/-- A channel entry of a pattern. -/
structure PatternEntry where
  channel : Fin 32
  essential : Bool
deriving DecidableEq, Repr

/-- The entry a byte codes, when its present bit is set. -/
def PatternEntry.ofByte (b : Byte) : Option PatternEntry :=
  if b.getLsbD 7 then some ⟨Fin.ofNat 32 (b.extractLsb' 0 5).toNat, b.getLsbD 6⟩ else none

/-- Where pattern `p` of an aspect begins in a HEADS record. -/
def patternOffset (a : Aspect) (p : PatternKind) : Nat :=
  4 + 8 * (a.code - 1) + (match p with | .primary => 0 | .alternate => 4)

/-- The present entries of a pattern, in entry order; DARK has none. -/
def Bank.pattern (b : Bank) (h : Fin 8) (a : Aspect) (p : PatternKind) : List PatternEntry :=
  if a = .dark then [] else
    (((b.row .heads h).drop (patternOffset a p)).take 4).filterMap PatternEntry.ofByte

/-- The aspect is fitted on the head (R8). -/
def Bank.fitted (b : Bank) (h : Fin 8) (a : Aspect) : Bool := !(b.pattern h a .primary).isEmpty

/-- The patterns that belong to a head: primary and alternate of its fitted aspects among `as`
(R9). -/
def Bank.patternsAmong (b : Bank) (h : Fin 8) (as : List Aspect) : List (List PatternEntry) :=
  (as.filter (b.fitted h)).flatMap fun a => [b.pattern h a .primary, b.pattern h a .alternate]

/-- The channels of some patterns. -/
def channelsOf (ps : List (List PatternEntry)) : List (Fin 32) :=
  ps.flatMap fun p => p.map PatternEntry.channel

/-- The channels that belong to a head (R10). -/
def Bank.headChannels (b : Bank) (h : Fin 8) : List (Fin 32) :=
  if b.headExists h then channelsOf (b.patternsAmong h litAspects) else []

/-- The head's permissive channel set (R10). -/
def Bank.permissiveChannels (b : Bank) (h : Fin 8) : List (Fin 32) :=
  if b.headExists h then channelsOf (b.patternsAmong h [.open_, .mergeL, .mergeR]) else []

/-- The head's restrictive channel set (R10). -/
def Bank.restrictiveChannels (b : Bank) (h : Fin 8) : List (Fin 32) :=
  if b.headExists h then channelsOf (b.patternsAmong h [.closed]) else []

/-- The existing heads in order. -/
def Bank.existing (b : Bank) : List (Fin 8) := allHeads.filter b.headExists

/-! ## Plans and operating tables (R14, R57) -/

/-- Plan `p` is defined. -/
def Bank.planDefined (b : Bank) (p : Nat) : Bool :=
  1 ≤ p && p ≤ 64 && natAt (b.row .plans (p - 1)) 0 == 1

/-- The table aspect code of a lane face in plan `p`. -/
def Bank.planCode (b : Bank) (p : Nat) (k : Fin 4) (f : Face) : Nat :=
  natAt (b.row .plans (p - 1)) (1 + 2 * k.val + f.code)

/-- The target plan `p` gives a head: the code of the head's lane face (R14, R73). -/
def Bank.planTarget (b : Bank) (p : Nat) (h : Fin 8) : Option Aspect :=
  Aspect.ofCode (b.planCode p (b.headLane h) (b.headFace h))

def Bank.dwellMs (b : Bank) : Nat := wordAt (b.row .timing 0) 0 * 1000

def Bank.clearanceMs (b : Bank) (k : Fin 4) : Nat := wordAt (b.row .timing 0) (2 + 2 * k.val) * 1000

def Bank.stallMs (b : Bank) : Nat := wordAt (b.row .timing 0) 10 * 1000

def Bank.watchdogMs (b : Bank) : Nat := natAt (b.row .timing 0) 12 * 100

/-- 0 is HOLD, else a plan number. -/
def Bank.fallbackPolicy (b : Bank) : Nat := natAt (b.row .timing 0) 13

def Bank.staleMs (b : Bank) : Nat := natAt (b.row .timing 0) 14 * 100

def Bank.slewStep (b : Bank) : Nat := wordAt (b.row .timing 0) 15

def Bank.slewTickMs (b : Bank) : Nat := natAt (b.row .timing 0) 17 * 10

/-- The destination is one of the node's group addresses; 0 names no group (R24). -/
def Bank.groupAddress (b : Bank) (dest : Byte) : Bool :=
  dest != 0#8 && ((b.row .node 0).take 4).contains dest

/-- The line delay compensation in ms. -/
def Bank.compensation (b : Bank) : Nat := natAt (b.row .node 0) 4

def Bank.trackBand (b : Bank) : Nat := natAt (b.row .node 0) 5

def Bank.faultBand (b : Bank) : Nat := wordAt (b.row .node 0) 6

def Bank.faultDelay (b : Bank) : Nat := natAt (b.row .node 0) 8

/-- The intensity of a level, per mille. -/
def Bank.intensityAt (b : Bank) (level : Nat) : Nat := wordAt (b.row .intensity 0) (2 * level)

/-- The temperature threshold in °C (R145). -/
def Bank.threshold (b : Bank) : Int := 85 + 10 * (natAt (b.row .intensity 0) 16 : Int)

/-- The derate cap, per mille. -/
def Bank.derateCap (b : Bank) : Nat := wordAt (b.row .intensity 0) 17

def Bank.gain (b : Bank) (c : Fin 32) : Nat := wordAt (b.row .calibration c) 0

/-- The calibration offset, two's complement. -/
def Bank.offset (b : Bank) (c : Fin 32) : Int :=
  (BitVec.ofNat 16 (wordAt (b.row .calibration c) 2)).toInt

/-- Condition Ak is masked. -/
def Bank.masked (b : Bank) (k : Nat) : Bool := (byteAt (b.row .alarmMask 0) 0).getLsbD k

/-! ## The range checks of TABLE_WRITE (R55 to R57) -/

def groupOk (x : Nat) : Bool := x == 0 || inRange 224 254 x

def nodeOk (r : List Byte) : Bool :=
  groupOk (natAt r 0) && groupOk (natAt r 1) && groupOk (natAt r 2) && groupOk (natAt r 3)
    && inRange 8 128 (natAt r 5) && inRange 64 512 (wordAt r 6) && natAt r 5 < wordAt r 6
    && inRange 2 64 (natAt r 8)

/-- A face entry at offset `i`: head, upstream reference, downstream reference. -/
def faceEntryOk (r : List Byte) (i : Nat) : Bool :=
  natAt r i ≤ 7 && natAt r (i + 1) ≤ 200 && natAt r (i + 2) ≤ 7 && natAt r (i + 3) ≤ 200
    && natAt r (i + 4) ≤ 7

def laneOk (r : List Byte) : Bool := natAt r 0 ≤ 3 && faceEntryOk r 1 && faceEntryOk r 6

/-- A pattern entry byte: bit 5 clear, and all clear when its present bit is. -/
def entryOk (b : Byte) : Bool := if b.getLsbD 7 then !b.getLsbD 5 else b == 0#8

/-- Four entry bytes: each in range, the present ones first. -/
def patternOk : List Byte → Bool
  | [] => true
  | b :: rest =>
    entryOk b && (b.getLsbD 7 || rest.all fun x => x == 0#8) && patternOk rest

/-- The eight patterns of a HEADS record. -/
def headOk (r : List Byte) : Bool :=
  if natAt r 0 = 0 then true else
    natAt r 0 == 1 && natAt r 1 ≤ 3 && natAt r 2 ≤ 1 && inRange 2 3 (natAt r 3)
      && [4, 8, 12, 16, 20, 24, 28, 32].all fun i => patternOk ((r.drop i).take 4)

def planOk (r : List Byte) : Bool := natAt r 0 ≤ 1 && (r.drop 1).all fun x => x.toNat ≤ 4

def timingOk (r : List Byte) : Bool :=
  inRange 1 600 (wordAt r 0)
    && inRange 10 1200 (wordAt r 2) && inRange 10 1200 (wordAt r 4)
    && inRange 10 1200 (wordAt r 6) && inRange 10 1200 (wordAt r 8)
    && inRange 5 600 (wordAt r 10) && 5 ≤ natAt r 12 && natAt r 13 ≤ 64
    && inRange 2 50 (natAt r 14) && inRange 1 4095 (wordAt r 15) && 1 ≤ natAt r 17

def intensityOk (r : List Byte) : Bool :=
  [0, 2, 4, 6, 8, 10, 12, 14, 17].all (fun i => inRange 50 1000 (wordAt r i)) && natAt r 16 ≤ 3

def calibrationOk (r : List Byte) : Bool :=
  16384 ≤ wordAt r 0 && (wordAt r 2 ≤ 0xFF || 0xFF00 ≤ wordAt r 2)

def alarmMaskOk (r : List Byte) : Bool := natAt r 0 < 128

/-- Every field of the record is in its range. -/
def Table.recordOk : Table → List Byte → Bool
  | .node => nodeOk
  | .lanes => laneOk
  | .heads => headOk
  | .plans => planOk
  | .timing => timingOk
  | .intensity => intensityOk
  | .calibration => calibrationOk
  | .alarmMask => alarmMaskOk

/-! ## Codes (R61, R163) -/

/-- The value of a commit result. -/
def CommitResult.code : CommitResult → Nat
  | .none => 0x00
  | .ok => 0x01
  | .aborted => 0x02
  | .nodeUnset => 0x10
  | .timingUnset => 0x11
  | .intensityUnset => 0x12
  | .laneHeadMismatch => 0x20
  | .patternNotFitted => 0x21
  | .channelShared => 0x22
  | .channelClassOverlap => 0x23
  | .noEssential => 0x24
  | .neighbourSelf => 0x25
  | .noLanes => 0x26
  | .planFace => 0x30
  | .planNotFitted => 0x31
  | .planTidalConflict => 0x32
  | .planMergeTarget => 0x33
  | .fallbackPlan => 0x34
  | .commissioningInService => 0x40

def Cause.code : Cause → Nat
  | .powerOn => 0
  | .resetPin => 1
  | .restartKeep => 2
  | .restartFull => 3

/-- The kind code of an event. -/
def EventKind.code : EventKind → Nat
  | .lampFailed _ => 0x01
  | .lampStuckOn _ => 0x02
  | .lampDrift _ => 0x03
  | .alternateInUse _ _ => 0x04
  | .headFailed _ => 0x05
  | .sequenceStalled _ => 0x06
  | .fallbackEntered => 0x10
  | .fallbackLeft => 0x11
  | .repeatedHeartbeat => 0x12
  | .duplicateAddress => 0x13
  | .planUnknown _ => 0x20
  | .taken _ => 0x21
  | .scheduledTakeFailed _ => 0x22
  | .takeWithoutStage => 0x23
  | .scheduleFull => 0x24
  | .commitDone => 0x30
  | .commitFailed _ => 0x31
  | .overTemperature => 0x40
  | .temperatureNormal => 0x41
  | .conflictLockout _ => 0x50
  | .restarted _ => 0x60

/-- The object byte of an event, 0xFF when absent. -/
def EventKind.object : EventKind → Nat
  | .lampFailed c => c.val
  | .lampStuckOn c => c.val
  | .lampDrift c => c.val
  | .alternateInUse h a => h.val + 16 * a.code
  | .headFailed h => h.val
  | .sequenceStalled h => h.val
  | .fallbackEntered => 0xFF
  | .fallbackLeft => 0xFF
  | .repeatedHeartbeat => 0xFF
  | .duplicateAddress => 0xFF
  | .planUnknown p => p
  | .taken p => p
  | .scheduledTakeFailed p => p
  | .takeWithoutStage => 0xFF
  | .scheduleFull => 0xFF
  | .commitDone => 0xFF
  | .commitFailed r => r.code
  | .overTemperature => 0xFF
  | .temperatureNormal => 0xFF
  | .conflictLockout k => k.val
  | .restarted c => c.code

/-- An entry of the queue as READ_EVENTS returns it, 8 bytes. -/
def Event.bytes (e : Event) : List Byte :=
  [byteOf e.kind.code, byteOf e.kind.object, byteOf e.detailTable, byteOf e.detailIndex]
    ++ be32 e.stamp

/-- The status of a reply (spec 02, Reply status codes). -/
inductive Status where
  | done | started | unknownOrder | badLength | notAuthorised | wrongMode | busy | outOfRange
  | unknownPlan | nothingStaged | scheduleFull | tooLate | noSuchEntry | notFitted | conflict
deriving DecidableEq, Repr

def Status.byte : Status → Byte
  | .done => 0x00#8
  | .started => 0x01#8
  | .unknownOrder => 0x10#8
  | .badLength => 0x11#8
  | .notAuthorised => 0x12#8
  | .wrongMode => 0x13#8
  | .busy => 0x14#8
  | .outOfRange => 0x20#8
  | .unknownPlan => 0x21#8
  | .nothingStaged => 0x22#8
  | .scheduleFull => 0x23#8
  | .tooLate => 0x24#8
  | .noSuchEntry => 0x25#8
  | .notFitted => 0x26#8
  | .conflict => 0x27#8

end Sys2Proof.Machine
end

