-- ==== Sys2Proof/Machine/Ops.lean ====
section
/-! DEFINITION. Operations shared by the blocks: posting events, the passing of local time, the lit
set and the drive arithmetic. -/

namespace Sys2Proof.Machine

/-! ## Held in reset (R51) -/

/-- The supply is below its threshold or RESET_N is low. -/
def State.held (s : State) : Bool := !(s.node.supplyOk && s.node.resetNHigh)

/-! ## The event queue (R162) -/

/-- One post: coalesced, added at the end, or discarded with the overflow flag set. -/
def EventUnit.post (u : EventUnit) (e : Event) : EventUnit :=
  if u.queue.any fun q => q.kind == e.kind then u
  else if u.queue.length < 16 then { u with queue := u.queue ++ [e] }
  else { u with overflow := true }

/-- A post with a detail, stamped with the node clock. -/
def State.postDetail (s : State) (k : EventKind) (table index : Nat) : State :=
  { s with events := s.events.post ⟨k, table, index, s.take.clock⟩ }

/-- A post without a detail. -/
def State.post (s : State) (k : EventKind) : State := s.postDetail k 0 0

/-- Several posts in order. -/
def State.postAll (s : State) (ks : List EventKind) : State := ks.foldl State.post s

/-! ## Line errors (R28) -/

/-- One line error more, at most 255. -/
def LinePort.countError (l : LinePort) : LinePort := { l with lineErrors := min 255 (l.lineErrors + 1) }

/-! ## Local time (spec 00, Time) -/

/-- Unheld time at a head: merge time served and wait time run (R94, R101). -/
def Head.elapse (n : Nat) (hd : Head) : Head :=
  { hd with
    mergeServed := if hd.mergeSince.isSome then hd.mergeServed + n else hd.mergeServed
    waitTime := if hd.waitStart.isSome then hd.waitTime + n else hd.waitTime }

/-- Unheld time at a lane: the clearance count runs (R89). -/
def Lane.elapse (n : Nat) (l : Lane) : Lane :=
  { l with clearCount := if l.clearSince.isSome then l.clearCount + n else l.clearCount }

/-- Local time on the gantry: the slew timer runs held or unheld, the sequencer's timers unheld. -/
def Gantry.elapse (g : Gantry) (hold : Bool) (n : Nat) : Gantry :=
  { g with
    heads := if hold then g.heads else Vector.ofFn fun h => g.heads[h].elapse n
    lanes := if hold then g.lanes else Vector.ofFn fun k => g.lanes[k].elapse n
    slew := g.slew.map (· + n) }

/-- `n` ms of local time pass. The node clock advances with them (R75); watchdog and stale limits
compare `now` with the moments they hold. -/
def State.elapse (s : State) (n : Nat) : State :=
  { s with
    now := s.now + n
    take := { s.take with clock := s.take.clock + BitVec.ofNat 32 n }
    gantry := s.gantry.elapse s.node.hold n
    store := { s.store with
      commitAge := if s.store.validating then s.store.commitAge + n else s.store.commitAge }
    lamp := { s.lamp with
      sinceReading := s.lamp.sinceReading + n
      sinceSample := s.lamp.sinceSample + n } }

/-! ## The drive arithmetic (R136, R137) -/

/-- `x` limited to `lo..hi`. -/
def clampInt (x lo hi : Int) : Int := max lo (min hi x)

/-- The effective intensity, per mille. -/
def Bank.effectiveIntensity (b : Bank) (level : Nat) (derate : Bool) : Nat :=
  if derate then min (b.intensityAt level) b.derateCap else b.intensityAt level

/-- The base code B. -/
def Bank.baseCode (b : Bank) (level : Nat) (derate : Bool) : Nat :=
  (b.effectiveIntensity level derate * 4095 + 500) / 1000

/-- The target code C of a channel from the base code, its gain and its offset. -/
def driveCode (base gain : Nat) (offset : Int) : Nat :=
  (clampInt ((base * gain / 32768 : Nat) + offset) 0 4095).toNat

/-- The target code of a channel; 0 while the tables-valid flag is clear. -/
def Bank.targetCode (b : Bank) (valid : Bool) (level : Nat) (derate : Bool) (c : Fin 32) : Nat :=
  if valid then driveCode (b.baseCode level derate) (b.gain c) (b.offset c) else 0

/-! ## Displayed patterns and the lit set (R11) -/

/-- The alternate flag of an aspect. -/
def Head.altFlag (hd : Head) : Aspect → Bool
  | .dark => false
  | .open_ => hd.altOpen
  | .mergeL => hd.altMergeL
  | .mergeR => hd.altMergeR
  | .closed => hd.altClosed

/-- The alternate flag of an aspect set. -/
def Head.setAlt (hd : Head) : Aspect → Head
  | .dark => hd
  | .open_ => { hd with altOpen := true }
  | .mergeL => { hd with altMergeL := true }
  | .mergeR => { hd with altMergeR := true }
  | .closed => { hd with altClosed := true }

/-- Every alternate flag cleared. -/
def Head.clearAlts (hd : Head) : Head :=
  { hd with altOpen := false, altMergeL := false, altMergeR := false, altClosed := false }

/-- The aspect and pattern a head shows: its lamp test's, or its displayed aspect on primary or
alternate; none when DARK. -/
def Head.shown (hd : Head) : Option (Aspect × PatternKind) :=
  match hd.test with
  | some t => some (t.aspect, t.pattern)
  | none =>
    if hd.displayed = .dark then none
    else some (hd.displayed, if hd.altFlag hd.displayed then .alternate else .primary)

/-- The displayed pattern of a head; empty for one that does not exist. -/
def Bank.shownPattern (b : Bank) (h : Fin 8) (hd : Head) : List PatternEntry :=
  if b.headExists h then
    match hd.shown with
    | none => []
    | some (a, p) => b.pattern h a p
  else []

/-- The lit set: the channels of every displayed pattern. -/
def Bank.litChannels (b : Bank) (heads : Vector Head 8) : List (Fin 32) :=
  allHeads.flatMap fun h => (b.shownPattern h heads[h]).map PatternEntry.channel

/-- The proving state over the channels of a pattern (R153). -/
def provingOf (p : List PatternEntry) (channels : Vector Channel 32) : Proving :=
  if p.isEmpty then .unproven
  else if p.any fun e => channels[e.channel].settle < 2 then .unproven
  else if p.any fun e => e.essential && channels[e.channel].state == .failed then .failed
  else if p.any fun e => channels[e.channel].state == .failed then .degraded
  else .proven

/-! ## Channels under changes of the lit set (R139, R149) and the slew timer (R141) -/

/-- A channel across an event: it joins the lit set, leaves it, stays lit (settling anew when its
head's pattern changed), or stays unlit. -/
def Channel.relight (ch : Channel) (was is restart : Bool) : Channel :=
  match was, is with
  | false, true => { ch with output := ch.target, settle := 0, fault := 0, stuck := 0 }
  | true, false => { ch with output := 0, settle := 0, fault := 0 }
  | true, true => if restart then { ch with settle := 0, fault := 0 } else ch
  | false, false => ch

/-- The slew timer when `lit` are the lit channels: running while one of them ramps, else idle. It runs on
with its count where one event ends the only ramp and begins another (log 40). -/
def slewAfter (lit : List (Fin 32)) (channels : Vector Channel 32) (slew : Option Nat) :
    Option Nat :=
  if lit.any fun c => channels[c].output != channels[c].target then some (slew.getD 0) else none

/-- The gantry takes new head records: the lit set, the channels and the proving states of the heads
whose displayed pattern changes follow at the same event. `forced` heads settle anew all the same.
The banks before and after differ at a commit alone. -/
def Gantry.relight (g : Gantry) (old new : Bank) (forced : Fin 8 → Bool) (heads : Vector Head 8) :
    Gantry :=
  let moved := fun h : Fin 8 => forced h || heads[h].shown != g.heads[h].shown
  let was := old.litChannels g.heads
  let is := new.litChannels heads
  let restart := (allHeads.filter moved).flatMap fun h =>
    (new.shownPattern h heads[h]).map PatternEntry.channel
  let channels := Vector.ofFn fun c : Fin 32 =>
    g.channels[c].relight (was.contains c) (is.contains c) (restart.contains c)
  { g with
    heads := Vector.ofFn fun h : Fin 8 =>
      if moved h then { heads[h] with proving := provingOf (new.shownPattern h heads[h]) channels }
      else heads[h]
    channels := channels
    slew := slewAfter is channels g.slew }

/-- New target codes for all channels together: lit channels whose code changed ramp (R138, R141). -/
def Gantry.retarget (g : Gantry) (b : Bank) (code : Fin 32 → Nat) : Gantry :=
  let channels := Vector.ofFn fun c : Fin 32 => { g.channels[c] with target := code c }
  { g with channels := channels, slew := slewAfter (b.litChannels g.heads) channels g.slew }

/-- The recomputation of every target code from the state as it stands (R138). -/
def State.retarget (s : State) : State :=
  { s with
    gantry := s.gantry.retarget s.store.active
      (s.store.active.targetCode s.node.tablesValid s.lamp.level s.lamp.derate) }

end Sys2Proof.Machine
end

