-- ==== Sys2Proof/Machine/Flags.lean ====
section
/-! DEFINITION. What the node reports of itself: alarm conditions and ALARM, the status byte, the node
summary, the own slot and the node status record. All are views of the state, computed when read. -/

namespace Sys2Proof.Machine

/-- The mode code (R35). -/
def Mode.code : Mode → Nat
  | .unconfigured => 0
  | .outOfService => 1
  | .inService => 2
  | .fallback => 3
  | .lockout => 4

/-- The proving state code of a head byte. -/
def Proving.code : Proving → Nat
  | .unproven => 0
  | .proven => 1
  | .degraded => 2
  | .failed => 3

/-- The existing heads, with their records. -/
def State.existing (s : State) : List Head :=
  s.store.active.existing.map fun h => s.gantry.heads[h]

/-- The head shows an alternate pattern. -/
def Head.onAlternate (hd : Head) : Bool :=
  match hd.shown with
  | some (_, .alternate) => true
  | _ => false

/-- Alarm condition Ak before masking (R165). -/
def State.alarm (s : State) (k : Fin 8) : Bool :=
  match k with
  | 0 => s.existing.any fun hd => hd.proving == .failed
  | 1 => s.existing.any fun hd => hd.proving == .degraded || hd.onAlternate
  | 2 => allHeads.any fun h => s.gantry.heads[h].stalled
  | 3 => s.node.mode == .fallback
  | 4 => s.lamp.derate
  | 5 => 0 < s.line.lineErrors
  | 6 => s.events.overflow
  | 7 => s.node.mode == .lockout

/-- The raw conditions, bit k for Ak. -/
def State.alarmByte (s : State) : Byte :=
  byteOf (bit (s.alarm 0) + 2 * bit (s.alarm 1) + 4 * bit (s.alarm 2) + 8 * bit (s.alarm 3)
    + 16 * bit (s.alarm 4) + 32 * bit (s.alarm 5) + 64 * bit (s.alarm 6) + 128 * bit (s.alarm 7))

/-- The alarm summary: an active condition that the mask leaves, or A7, which it cannot hide. -/
def State.alarmSummary (s : State) : Bool :=
  s.alarm 7 || ([0, 1, 2, 3, 4, 5, 6] : List (Fin 8)).any fun k =>
    s.alarm k && !s.store.active.masked k.val

/-- The ALARM output: asserted while held in reset, else the summary (R51, R165). -/
def State.alarmPin (s : State) : Bool := s.held || s.alarmSummary

/-- What OUT is driven to. -/
inductive OutLevel where
  /-- mark, the idle line -/
  | mark
  /-- space, held through a break -/
  | space
  /-- the bits of a frame -/
  | sending
deriving DecidableEq, Repr

/-- OUT stays at mark while held in reset (R51), is at space through a break (R29), and carries a
frame while one is sent: a reply, a frame passed cut-through, or a buffered one once the gap before it
has passed (R26, R27). -/
def State.outLevel (s : State) : OutLevel :=
  if s.held then .mark
  else if s.line.rx = .brk then .space
  else
    match s.line.tx with
    | .idle => .mark
    | .replying => .sending
    | .passing => if s.line.thru.isSome || s.line.outGap then .sending else .mark

/-- Slot byte 1 and byte 0 of the summary (spec 02, Slot). -/
def State.statusByte (s : State) : Byte :=
  byteOf (s.node.mode.code + 8 * bit s.node.hold + 16 * bit s.store.validating
    + 32 * bit s.alarmSummary + 64 * bit (!s.events.queue.isEmpty) + 128 * bit s.take.scheduleFull)

/-- The node summary of a reply, 4 bytes. -/
def State.summary (s : State) : List Byte :=
  [s.statusByte, byteOf s.take.currentPlan, s.alarmByte, byteOf s.events.queue.length]

/-- The head has a target and it differs from the displayed aspect. -/
def Head.inTransition (hd : Head) : Bool :=
  match hd.target with
  | none => false
  | some t => t != hd.displayed

/-- The head byte of a slot; 0 for a head that does not exist. -/
def State.headByte (s : State) (h : Fin 8) : Byte :=
  let hd := s.gantry.heads[h]
  if s.store.active.headExists h then
    byteOf (hd.displayed.code + 8 * bit hd.onAlternate + 16 * hd.proving.code
      + 64 * bit hd.inTransition + 128)
  else 0#8

/-- The own slot, taken at one moment (R21). -/
def State.ownSlot (s : State) (sweepNumber : Byte) : List Byte :=
  [sweepNumber, s.statusByte] ++ allHeads.map s.headByte
    ++ [byteOf s.line.lineErrors, byteOf s.take.currentPlan]

/-- The node status record of READ_NODE, 19 bytes (R166). -/
def State.nodeRecord (s : State) : List Byte :=
  [s.statusByte, byteOf s.store.lastResult.code, byteOf s.store.lastTable, byteOf s.store.lastIndex,
    byteOf s.node.restartCause.code,
    byteOf (bit s.node.tablesRetained + 2 * bit s.node.tablesValid + 4 * bit s.node.key
      + 8 * bit s.line.ring + 16 * bit s.watchdog.stream + 32 * bit s.lamp.derate),
    byteOf s.line.address] ++ be32 s.take.clock
    ++ [(BitVec.ofInt 8 s.lamp.temperature), byteOf s.lamp.level, byteOf s.take.currentPlan,
      byteOf (s.take.pendingPlan.getD 0), byteOf s.take.schedule.length, s.alarmByte,
      byteOf (bit s.alarmSummary), byteOf s.line.lineErrors]

end Sys2Proof.Machine
end

