-- ==== Sys2Proof/Machine/Sequencer.lean ====
section
/-! DEFINITION. The Lane Sequencer (chapter 6): conditions, paths, re-tests, and the completions of its
timers. It changes the gantry alone and reads the rest of the node through an Env. -/

namespace Sys2Proof.Machine

/-- What the sequencer reads of the rest of the node. -/
structure Env where
  bank : Bank
  mode : Mode
  hold : Bool
  now : Nat
  records : List Neighbour
deriving DecidableEq, Repr

def State.env (s : State) : Env :=
  ⟨s.store.active, s.node.mode, s.node.hold, s.now, s.sweep.records⟩

/-- The sequencer acts on the gantry. -/
def State.seq (s : State) (f : Env → Gantry → Gantry) : State :=
  { s with gantry := f s.env s.gantry }

/-! ## Conditions (R87, R88, R96, R97) -/

/-- The record a reference names. -/
def findRecord (records : List Neighbour) (r : Reference) : Option Neighbour :=
  records.find? fun n => n.address == r.address && n.head == r.head

/-- An absent reference holds; a present one needs a fresh record that shows an aspect of the asked
kind, PROVEN or DEGRADED. -/
def referenceHolds (records : List Neighbour) (asked : Aspect → Bool) : Option Reference → Bool
  | none => true
  | some r =>
    match findRecord records r with
    | none => false
    | some n => n.fresh && asked n.aspect && (n.proving == .proven || n.proving == .degraded)

/-- The aspects that show a closure upstream. -/
def Aspect.closing : Aspect → Bool
  | .mergeL | .mergeR | .closed => true
  | .dark | .open_ => false

def Env.upstreamHolds (e : Env) (h : Fin 8) : Bool :=
  match e.bank.servedFace h with
  | none => true
  | some (k, f) => referenceHolds e.records Aspect.closing (e.bank.upstream k f)

def Env.downstreamHolds (e : Env) (h : Fin 8) : Bool :=
  match e.bank.servedFace h with
  | none => true
  | some (k, f) => referenceHolds e.records Aspect.permissive (e.bank.downstream k f)

/-- The guard of the head's face: the opposite head shows CLOSED and is not FAILED, and the lane is
clear; a face of another lane has none. -/
def Env.guardHolds (e : Env) (h : Fin 8) (g : Gantry) : Bool :=
  match e.bank.servedFace h with
  | none => true
  | some (k, f) =>
    if e.bank.tidal k then
      let o := g.heads[e.bank.faceHead k f.other]
      o.displayed == .closed && o.proving != .failed && g.lanes[k].clear
    else true

/-- The conditions of an opening path from the displayed aspect to target `t` (R96). -/
def Env.openingHolds (e : Env) (h : Fin 8) (t : Aspect) (g : Gantry) : Bool :=
  (g.heads[h].displayed != .closed || e.guardHolds h g)
    && (t != .open_ || (e.downstreamHolds h && e.mode != .fallback))

/-! ## Changes of the displayed aspect -/

/-- The lane records when head `h` goes from its displayed aspect to `a`: a face that leaves CLOSED
ends the clearance, one that joins an opposite CLOSED starts it (R89). -/
def Env.lanesAfter (e : Env) (h : Fin 8) (a : Aspect) (g : Gantry) : Vector Lane 4 :=
  match e.bank.servedFace h with
  | none => g.lanes
  | some (k, f) =>
    if e.bank.tidal k then
      if g.heads[h].displayed = .closed ∧ a ≠ .closed then
        g.lanes.set k { g.lanes[k] with clearSince := none, clearCount := 0, clear := false }
      else if g.heads[h].displayed ≠ .closed ∧ a = .closed
          ∧ g.heads[e.bank.faceHead k f.other].displayed = .closed then
        g.lanes.set k { g.lanes[k] with clearSince := some e.now, clearCount := 0, clear := false }
      else g.lanes
    else g.lanes

/-- A head record that shows `a` in stage `st`: a new merge starts its time, a merge kept or turned to
the other keeps it, leaving the merges ends it; any wait ends (R91, R95, R96). -/
def Head.showing (hd : Head) (now : Nat) (a : Aspect) (st : Stage) : Head :=
  { hd with
    displayed := a
    stage := some st
    mergeSince :=
      if a.merge then (if hd.displayed.merge then hd.mergeSince else some now) else none
    mergeServed := if a.merge && hd.displayed.merge then hd.mergeServed else 0
    waitStart := none
    waitTime := 0
    stalled := false }

/-- Head `h` changes its displayed aspect to `a` and stands in `st`. -/
def Env.change (e : Env) (h : Fin 8) (a : Aspect) (st : Stage) (g : Gantry) : Gantry :=
  { g with lanes := e.lanesAfter h a g }.relight e.bank e.bank (fun _ => false)
    (g.heads.set h (g.heads[h].showing e.now a st))

/-- Head `h` stands in a stage without a change. -/
def Gantry.stand (g : Gantry) (h : Fin 8) (st : Stage) : Gantry :=
  { g with heads := g.heads.set h { g.heads[h] with stage := some st } }

/-- Head `h` begins to stand in a wait (R92). -/
def Env.wait (e : Env) (h : Fin 8) (st : Stage) (g : Gantry) : Gantry :=
  { g with
    heads := g.heads.set h
      { g.heads[h] with
        stage := some st, waitStart := some e.now, waitTime := 0, stalled := false } }

/-! ## Paths (R91, R92, R103) -/

/-- CLOSE_WAIT is reached: passed when the upstream condition holds unheld, else stood in. -/
def Env.reachCloseWait (e : Env) (h : Fin 8) (g : Gantry) : Gantry :=
  if !e.hold && e.upstreamHolds h then e.change h .closed .steady g else e.wait h .closeWait g

/-- OPENING_WAIT is reached: passed when its conditions hold unheld, else stood in. -/
def Env.reachOpeningWait (e : Env) (h : Fin 8) (t : Aspect) (g : Gantry) : Gantry :=
  if !e.hold && e.openingHolds h t g then e.change h t .steady g else e.wait h .openingWait g

/-- A change made at once, or HELD while the hold flag is set. -/
def Env.atOnce (e : Env) (h : Fin 8) (a : Aspect) (st : Stage) (g : Gantry) : Gantry :=
  if e.hold then g.stand h .held else e.change h a st g

/-- The path of head `h` from its displayed aspect toward its target, begun at this event. -/
def Env.beginPath (e : Env) (h : Fin 8) (g : Gantry) : Gantry :=
  match g.heads[h].target with
  | none => g
  | some t =>
    if g.heads[h].displayed = t then g.stand h .steady
    else
      match g.heads[h].displayed with
      | .dark => g
      | .open_ =>
        if t.merge then e.atOnce h t .steady g
        else e.atOnce h (e.bank.closingMerge h) .merging g
      | .closed => e.reachOpeningWait h t g
      | .mergeL | .mergeR =>
        if t.merge then e.atOnce h t .steady g
        else if t = .open_ then e.reachOpeningWait h t g
        else if g.heads[h].mergeServed < e.bank.dwellMs then g.stand h .merging
        else e.reachCloseWait h g

/-- A target set (R90): the one already held changes nothing; another abandons the old path. -/
def Env.setTarget (e : Env) (h : Fin 8) (t : Aspect) (g : Gantry) : Gantry :=
  if g.heads[h].target = some t then g
  else
    e.beginPath h
      { g with
        heads := g.heads.set h
          { g.heads[h] with
            target := some t, waitStart := none, waitTime := 0, stalled := false } }

/-! ## Re-tests and STEP (R99, R104) -/

/-- The held change of a head in HELD, made whatever the hold flag. -/
def Env.heldChange (e : Env) (h : Fin 8) (g : Gantry) : Gantry :=
  { e with hold := false }.beginPath h g

/-- Head `h` re-tests. -/
def Env.retest (e : Env) (h : Fin 8) (g : Gantry) : Gantry :=
  if e.hold then g
  else
    match g.heads[h].stage with
    | some .closeWait => if e.upstreamHolds h then e.change h .closed .steady g else g
    | some .openingWait =>
      match g.heads[h].target with
      | some t => if e.openingHolds h t g then e.change h t .steady g else g
      | none => g
    | some .held => e.heldChange h g
    | some .steady | some .merging | none => g

/-- Several heads re-test; the order makes no difference (R100). -/
def Env.retestAll (e : Env) (hs : List (Fin 8)) (g : Gantry) : Gantry :=
  hs.foldl (fun g h => e.retest h g) g

/-- Every existing head re-tests. -/
def Env.retestExisting (e : Env) (g : Gantry) : Gantry := e.retestAll e.bank.existing g

/-- The change STEP gives a head, if any. -/
def Env.stepHead (e : Env) (h : Fin 8) (g : Gantry) : Gantry :=
  match g.heads[h].stage with
  | some .held => e.heldChange h g
  | some .merging | some .closeWait =>
    if e.upstreamHolds h then e.change h .closed .steady g else g
  | some .openingWait =>
    match g.heads[h].target with
    | some t => if e.openingHolds h t g then e.change h t .steady g else g
    | none => g
  | some .steady | none => g

/-- STEP over every existing head. -/
def Env.stepExisting (e : Env) (g : Gantry) : Gantry :=
  e.bank.existing.foldl (fun g h => e.stepHead h g) g

/-- How many heads display another aspect in `g'` than in `g`. -/
def changedHeads (g g' : Gantry) : Nat :=
  (allHeads.filter fun h => g'.heads[h].displayed != g.heads[h].displayed).length

/-- The head's face has a reference to the record (R99). -/
def Bank.refersTo (b : Bank) (h : Fin 8) (n : Neighbour) : Bool :=
  match b.servedFace h with
  | none => false
  | some (k, f) =>
    b.upstream k f == some ⟨n.address, n.head⟩ || b.downstream k f == some ⟨n.address, n.head⟩

/-- The heads opposite to those whose proving state in `g` differs from that in `before` re-test
(R99, log 18). -/
def Env.retestOpposites (e : Env) (before g : Gantry) : Gantry :=
  e.retestAll
    ((e.bank.existing.filter fun h => g.heads[h].proving != before.heads[h].proving).filterMap
      e.bank.oppositeHead) g

/-! ## Targets from a plan (R73) -/

/-- Every existing head is given its face's code in plan `p`. -/
def Env.takeTargets (e : Env) (p : Nat) (g : Gantry) : Gantry :=
  e.bank.existing.foldl (fun g h =>
    match e.bank.planTarget p h with
    | some t => e.setTarget h t g
    | none => g) g

/-- The HOLD policy: every existing head is given its displayed aspect, but for those in MERGING or
CLOSE_WAIT (R129). -/
def Env.holdTargets (e : Env) (g : Gantry) : Gantry :=
  e.bank.existing.foldl (fun g h =>
    match g.heads[h].stage with
    | some .merging | some .closeWait => g
    | _ => e.setTarget h g.heads[h].displayed g) g

/-! ## Completions (R89, R94, R101) -/

/-- The merge dwell of head `h` completes. -/
def Env.dwellComplete (e : Env) (h : Fin 8) (g : Gantry) : Gantry :=
  if g.heads[h].stage = some .merging then e.reachCloseWait h g else g

/-- The clearance of lane `k` completes: the lane is clear and both faces re-test. -/
def Env.clearanceComplete (e : Env) (k : Fin 4) (g : Gantry) : Gantry :=
  e.retestAll [e.bank.faceHead k .asc, e.bank.faceHead k .desc]
    { g with lanes := g.lanes.set k { g.lanes[k] with clear := true } }

/-- The head stands in a wait of chapter 6. -/
def Head.waiting (hd : Head) : Bool :=
  hd.stage == some .closeWait || hd.stage == some .openingWait

/-- The head's stalled flag set. -/
def Gantry.stall (g : Gantry) (h : Fin 8) : Gantry :=
  { g with heads := g.heads.set h { g.heads[h] with stalled := true } }

/-- The head stands in MERGING with its dwell served. -/
def Env.dwellDue (e : Env) (h : Fin 8) (g : Gantry) : Bool :=
  e.bank.headExists h && g.heads[h].stage == some .merging
    && e.bank.dwellMs ≤ g.heads[h].mergeServed

/-- The clearance of a TIDAL lane runs, has not completed, and has reached its interval. -/
def Env.clearanceDue (e : Env) (k : Fin 4) (g : Gantry) : Bool :=
  e.bank.tidal k && g.lanes[k].clearSince.isSome && !g.lanes[k].clear
    && e.bank.clearanceMs k ≤ g.lanes[k].clearCount

/-- The head waits, has not stalled in this wait, and has reached the stall timeout. -/
def Env.stallDue (e : Env) (h : Fin 8) (g : Gantry) : Bool :=
  e.bank.headExists h && g.heads[h].waiting && !g.heads[h].stalled
    && e.bank.stallMs ≤ g.heads[h].waitTime

/-- The due dwell completions of all heads. -/
def Env.dueDwells (e : Env) (g : Gantry) : Gantry :=
  allHeads.foldl (fun g h => if e.dwellDue h g then e.dwellComplete h g else g) g

/-- The due clearance completions of some lanes. -/
def Env.dueClearances (e : Env) (ks : List (Fin 4)) (g : Gantry) : Gantry :=
  ks.foldl (fun g k => if e.clearanceDue k g then e.clearanceComplete k g else g) g

/-- The lane clear flag falls where a raised interval lies above the count (R89). -/
def Env.raisedClearances (e : Env) (g : Gantry) : Gantry :=
  { g with
    lanes := Vector.ofFn fun k : Fin 4 =>
      if e.bank.tidal k && g.lanes[k].clear && g.lanes[k].clearCount < e.bank.clearanceMs k then
        { g.lanes[k] with clear := false }
      else g.lanes[k] }

/-- The stall of one head: the flag, and its event. -/
def State.stallHead (s : State) (h : Fin 8) : State :=
  { s with gantry := s.gantry.stall h }.post (.sequenceStalled h)

/-- The due stalls of all heads. The rules give no order among heads that stall at one event: they post in
head order (log 42). -/
def State.dueStalls (s : State) : State :=
  allHeads.foldl (fun s h => if s.env.stallDue h s.gantry then s.stallHead h else s) s

/-- The sequencer's timers that have reached their intervals complete: dwell, clearance, stall (the
order of R64's table). -/
def State.dueSequencer (s : State) : State :=
  ((s.seq Env.dueDwells).seq fun e => e.dueClearances allLanes).dueStalls

/-- Of these timers, those complete whose interval was higher in the bank `old` (R64, R102). -/
def State.dueLowered (s : State) (old : Bank) : State :=
  let b := s.store.active
  let s1 := if b.dwellMs < old.dwellMs then s.seq Env.dueDwells else s
  let s2 := s1.seq fun e =>
    e.dueClearances (allLanes.filter fun k => b.clearanceMs k < old.clearanceMs k)
  if b.stallMs < old.stallMs then s2.dueStalls else s2

/-! ## Records as reset, at the end of service (R48, R52, R84, R85) -/

/-- The sequencer's fields at their reset values and no lamp test; alternate flags kept. -/
def Head.darken (hd : Head) : Head :=
  { hd with
    displayed := .dark, target := none, stage := none, mergeSince := none, mergeServed := 0,
    waitStart := none, waitTime := 0, stalled := false, test := none }

/-- The sequencer's lane record at its reset values; the conflict count kept. -/
def Lane.unclear (l : Lane) : Lane := { l with clearSince := none, clearCount := 0, clear := false }

/-- Every head DARK and every lane record reset, at one event. -/
def Gantry.darken (g : Gantry) (b : Bank) : Gantry :=
  { g with lanes := Vector.ofFn fun k : Fin 4 => g.lanes[k].unclear }.relight b b (fun _ => false)
    (Vector.ofFn fun h : Fin 8 => g.heads[h].darken)

end Sys2Proof.Machine
end

