-- ==== Sys2Proof/Machine/Modes.lean ====
section
/-! DEFINITION. The events that reach several blocks: takes and schedule firings, fallback entry,
lockout, entering and leaving service, the temperature judgement and the node resets. -/

namespace Sys2Proof.Machine

/-! ## The Take Unit (chapter 5) -/

/-- Pending plan, schedule and schedule-full flag cleared (R82). -/
def TakeUnit.cleared (t : TakeUnit) : TakeUnit :=
  { t with pendingPlan := none, schedule := [], scheduleFull := false }

/-- What a take of plan `p` does but for the targets: current plan, TAKEN, and from FALLBACK the
return to IN_SERVICE with the watchdog restarted and FALLBACK_LEFT (R73, R133). -/
def State.takeRecord (s : State) (p : Nat) : State :=
  let t := { s with take := { s.take with currentPlan := p } }.post (.taken p)
  if s.node.mode = .fallback then
    { t with
      node := { t.node with mode := .inService }
      watchdog := { t.watchdog with start := some t.now } }.post .fallbackLeft
  else t

/-- The targets of plan `p`; every existing head re-tests when the take returned the node from
FALLBACK (R73, R97). -/
def State.takeTargets (s : State) (p : Nat) (returned : Bool) : State :=
  let t := s.seq fun e => e.takeTargets p
  if returned then t.seq Env.retestExisting else t

/-- A take of plan `p` (R73): the heads' new paths begin with the node IN_SERVICE. -/
def State.takePlan (s : State) (p : Nat) : State :=
  (s.takeRecord p).takeTargets p (s.node.mode == .fallback)

/-- An entry is due (R79). With exactly 2^31 of time remaining, which a setting backward can leave, R79's
test says not due where R80 says due: R79's test is taken (log 31). -/
def ScheduleEntry.isDue (e : ScheduleEntry) (clock : Clock) : Bool := (clock - e.due).toNat < 2 ^ 31

/-- One firing: the state after its record, and the plan whose targets hold if it is a take (R79). -/
def fireEntry (acc : State × Option Nat) (e : ScheduleEntry) : State × Option Nat :=
  let s := acc.1
  if !s.store.active.planDefined e.plan then (s.post (.scheduledTakeFailed e.plan), acc.2)
  else
    match s.node.mode with
    | .inService => (s.takeRecord e.plan, some e.plan)
    | .fallback =>
      if s.watchdog.stream then (s.takeRecord e.plan, some e.plan)
      else (s.post (.scheduledTakeFailed e.plan), acc.2)
    | .unconfigured | .outOfService | .lockout => acc

/-- The due test: every due entry is removed and fired in list order; the last take made gives the
targets (R79, log 14). -/
def State.dueTest (s : State) : State :=
  let due := s.take.schedule.filter fun e => e.isDue s.take.clock
  let rest := s.take.schedule.filter fun e => !e.isDue s.take.clock
  let fired := due.foldl fireEntry ({ s with take := { s.take with schedule := rest } }, none)
  match fired.2 with
  | none => fired.1
  | some p => fired.1.takeTargets p (s.node.mode == .fallback)

/-- Clock synchronisation (R76): set to the candidate when they differ by more than 2 ms, and the due
test at once. -/
def State.syncClock (s : State) (master : Clock) : State :=
  let candidate := master + BitVec.ofNat 32 s.store.active.compensation
  let diff := (candidate - s.take.clock).toInt
  if -2 ≤ diff ∧ diff ≤ 2 then s
  else { s with take := { s.take with clock := candidate } }.dueTest

/-! ## The watchdog and fallback (chapter 8) -/

/-- The watchdog stopped (R125). -/
def Watchdog.stopped : Watchdog := { armed := false, start := none, stream := false }

/-- The fallback policy (R129, R130) with the current plan it gives. A head whose dwell completes at the
same moment takes the plan's target like any other (log 39). -/
def State.applyPolicy (s : State) : State :=
  let p := s.store.active.fallbackPolicy
  let t := s.seq fun e => if p = 0 then e.holdTargets else e.takeTargets p
  { t with take := { t.take with currentPlan := p } }

/-- Fallback entry (R128). -/
def State.fallbackEntry (s : State) : State :=
  let s1 := { s with node := { s.node with mode := .fallback } }.post .fallbackEntered
  let s2 := { s1 with take := s1.take.cleared, node := { s1.node with hold := false } }
  let s3 := s2.applyPolicy
  let s4 := { s3 with watchdog := { s3.watchdog with start := some s3.now, stream := false } }
  s4.seq Env.retestExisting

/-- The armed watchdog expires (R126, R132). -/
def State.watchdogExpire (s : State) : State :=
  match s.node.mode with
  | .inService => s.fallbackEntry
  | .fallback => { s with watchdog := { s.watchdog with start := some s.now, stream := false } }
  | .unconfigured | .outOfService | .lockout => s

/-- The armed watchdog's count has reached the interval. -/
def State.watchdogDue (s : State) : Bool :=
  s.watchdog.armed &&
    match s.watchdog.start with
    | none => false
    | some t => t + s.store.active.watchdogMs ≤ s.now

/-! ## Service and lockout (R47, R48, R52) -/

/-- A head as service begins: CLOSED on its primary, STEADY; DARK when it does not exist. -/
def Head.entering (hd : Head) (present : Bool) : Head :=
  if present then
    { hd.darken.clearAlts with displayed := .closed, target := some .closed, stage := some .steady }
  else hd.darken.clearAlts

/-- The gantry as service begins at local time `now`; every existing head settles (log 19). A channel of a
test pattern that the CLOSED primary holds too keeps its output and its ramp (log 44). -/
def Gantry.enter (g : Gantry) (b : Bank) (now : Nat) : Gantry :=
  { g with
    lanes := Vector.ofFn fun k : Fin 4 =>
      if b.tidal k then { g.lanes[k] with clearSince := some now, clearCount := 0, clear := false }
      else g.lanes[k] }.relight b b b.headExists
    (Vector.ofFn fun h : Fin 8 => g.heads[h].entering (b.headExists h))

/-- ENTER_SERVICE carried out (R47). -/
def State.enterService (s : State) : State :=
  { s with
    gantry := s.gantry.enter s.store.active s.now
    take := { s.take.cleared with currentPlan := 0 }
    watchdog := { armed := true, start := some s.now, stream := false }
    node := { s.node with hold := false, mode := .inService } }

/-- LEAVE_SERVICE carried out (R48). -/
def State.leaveService (s : State) : State :=
  { s with
    gantry := s.gantry.darken s.store.active
    take := { s.take.cleared with currentPlan := 0 }
    watchdog := Watchdog.stopped
    node := { s.node with hold := false, mode := .outOfService } }

/-- Every output code 0. -/
def Gantry.outputsOff (g : Gantry) : Gantry :=
  { g with channels := Vector.ofFn fun c : Fin 32 => { g.channels[c] with output := 0 } }

/-- Every conflict count 0. -/
def Gantry.conflictsOff (g : Gantry) : Gantry :=
  { g with lanes := Vector.ofFn fun k : Fin 4 => { g.lanes[k] with conflictCount := 0 } }

/-- The entry to LOCKOUT (R52). -/
def State.lockout (s : State) : State :=
  { s with
    gantry := ((s.gantry.darken s.store.active).outputsOff).conflictsOff
    take := { s.take.cleared with currentPlan := 0 }
    watchdog := Watchdog.stopped
    node := { s.node with hold := false, mode := .lockout }
    lamp := { s.lamp with power := false } }

/-! ## The temperature monitor (R144, R145) -/

/-- A reading taken and judged; not judged while the tables-valid flag is clear. -/
def State.readTemperature (s : State) (reading : Int) : State :=
  let t := clampInt reading (-40) 125
  let s1 := { s with lamp := { s.lamp with temperature := t } }
  let th := s.store.active.threshold
  if !s.node.tablesValid then s1
  else if !s.lamp.derate && th ≤ t then
    ({ s1 with lamp := { s1.lamp with derate := true } }.post .overTemperature).retarget
  else if s.lamp.derate && t ≤ th - 10 then
    ({ s1 with lamp := { s1.lamp with derate := false } }.post .temperatureNormal).retarget
  else s1

/-! ## The neighbour record set (R119) -/

/-- The present references of present faces, in order, each pair once. -/
def Bank.references (b : Bank) : List Reference :=
  (b.faces.flatMap fun kf => (b.upstream kf.1 kf.2).toList ++ (b.downstream kf.1 kf.2).toList).foldl
    (fun acc r => if acc.contains r then acc else acc ++ [r]) []

/-- A record as a rebuild creates it (R110). -/
def Neighbour.created (r : Reference) : Neighbour :=
  ⟨r.address, r.head, .dark, .unproven, none, false⟩

/-- The rebuild: every record stale, the capture store emptied; the SWEEP in progress on IN captures
nothing for the new set (R115, R119). -/
def State.rebuildNeighbours (s : State) : State :=
  { s with
    sweep := { s.sweep with
      records := s.store.active.references.map Neighbour.created
      capture := [] }
    line := { s.line with
      rxFrame := s.line.rxFrame.map fun f => { f with capturing := false } } }

/-! ## Node resets (R31, R50, R51) -/

/-- The address the straps give; 0 and values above 200 give none (R31). -/
def strapAddress (b : Byte) : Nat := if b.toNat ≤ 200 then b.toNat else 0

/-- The event queue as a node reset leaves it (R162). -/
def restartedQueue (cause : Cause) (stamp : Clock) : EventUnit :=
  { queue := [⟨.restarted cause, 0, 0, stamp⟩], overflow := false }

/-- Power-on, RESET_N or RESTART FULL takes effect (R51): the reset state with the cause, the straps
and the die reading; only the queue of commands and the counter of free readings go on. The last commit
result is none also where a RESTART FULL ends a commit, for which R65 has it kept (log 41). -/
def State.powerUp (s : State) (cause : Cause) (p : ResetInputs) : State :=
  { State.reset with
    line := { State.reset.line with
      address := if p.ring then 0 else strapAddress p.straps
      ring := p.ring }
    node := { State.reset.node with
      restartCause := cause, key := s.node.key, straps := p.straps, addrModeRing := p.ring }
    lamp := { State.reset.lamp with temperature := clampInt p.die (-40) 125 }
    events := restartedQueue cause 0#32
    inputReads := s.inputReads
    pending := s.pending }

/-- RESTART KEEP_TABLES takes effect (R50); the reading taken then is judged after it (log 13). -/
def State.keepRestart (s : State) (p : ResetInputs) : State :=
  let u := s.powerUp .restartKeep p
  let kept : State :=
    { u with
      line := { u.line with address := if p.ring then s.line.address else strapAddress p.straps }
      node := { u.node with
        mode := if s.node.tablesValid then .outOfService else .unconfigured
        tablesValid := s.node.tablesValid
        tablesRetained := true }
      store := { s.store with shadow := s.store.active, validating := false, commitAge := 0 }
      take := { u.take with clock := s.take.clock }
      gantry := { u.gantry with
        channels := Vector.ofFn fun c : Fin 32 =>
          { u.gantry.channels[c] with ref := s.gantry.channels[c].ref } }
      events := restartedQueue .restartKeep s.take.clock }
  (kept.rebuildNeighbours.retarget).readTemperature p.die

/-- The pending restart takes effect (R49). -/
def State.restartEffect (s : State) (k : RestartKind) (p : ResetInputs) : State :=
  match k with
  | .keepTables => s.keepRestart p
  | .full => s.powerUp .restartFull p

/-- A reading the node takes of its own: the next free value (log 4). -/
def State.nextRead (s : State) : State := { s with inputReads := s.inputReads + 1 }

/-- The pending restart is due: its reply has left OUT, or a line reset has dropped it (R49). -/
def State.restartIsDue (s : State) : Bool := s.node.restartDue && s.node.restartPending.isSome

/-- A restart that is due takes effect, with the straps as they stand and the die as it is (R49,
log 10). -/
def State.dueRestart (s : State) : State :=
  match s.node.restartPending, s.node.restartDue with
  | some k, true =>
    s.nextRead.restartEffect k ⟨s.node.straps, s.node.addrModeRing, Config.dieInput s.inputReads⟩
  | _, _ => s

/-- An event reaches the node only while it is not held in reset (R51, log 11), and finds it after a
restart that is due (R49, log 10). -/
def live (s : State) (f : State → State) : Host.Outcome State Fault Refusal :=
  .next (if s.held then s else f s.dueRestart)

/-- The node is held in reset (R51): the line is idle at mark, every output 0, lamp power off; a
pending restart is gone. -/
def State.holdInReset (s : State) : State :=
  { s with
    line := { s.line with
      rx := .settling, rxFrame := none, absorb := [], thru := none, elastic := none,
      replySlot := none, tx := .idle, outGap := false }
    node := { s.node with restartPending := none, restartDue := false }
    gantry := (s.gantry.darken s.store.active).outputsOff
    lamp := { s.lamp with power := false } }

end Sys2Proof.Machine
end

