-- ==== Sys2Proof/Machine/Line.lean ====
section
/-! DEFINITION. The Line Port and the Sweep Unit (chapters 2 and 7): receiving, forwarding, the OUT
arbiter, break, enumeration and sweeps, and the meanings of the line's commands. -/

namespace Sys2Proof.Machine

/-! ## Frames on IN (R19, R23, R25 to R27) -/

/-- In this mode a set reassign flag makes a node in RING mode eligible for an ENUMERATE (R32). -/
def Mode.reassignable : Mode → Bool
  | .inService | .fallback => false
  | .unconfigured | .outOfService | .lockout => true

/-- The frame a pass-through owns as it begins. -/
def OutFrame.begin_ (kind second : Byte) : OutFrame := ⟨kind, second, [], false, false, none⟩

/-- The frame is an ORDER to the node's own nonzero address (R25). -/
def LinePort.absorbs (l : LinePort) (kind second : Byte) : Bool :=
  kind == orderKind && l.address != 0 && second.toNat == l.address

/-- A frame begins while the receive state is IDLE, judged by its first two bytes: unknown by its kind
byte (R20), or absorbed, or discarded while the elastic buffer is occupied, or passed cut-through while
OUT is IDLE, or buffered (R26, R27, log 8). `reassignable` is what the node mode says of an ENUMERATE that
reassigns (R32). -/
def LinePort.beginFrame (l : LinePort) (reassignable : Bool) (kind second : Byte) : LinePort :=
  if !knownKind kind then { l.countError with rx := .discard }
  else if l.absorbs kind second then
    { l with
      rx := .frame, rxFrame := some ⟨kind, second, .absorbed, false, true, reassignable⟩
      absorb := [kind, second] }
  else if l.elastic.isSome then { l.countError with rx := .discard }
  else if l.tx = .idle then
    { l with
      rx := .frame, rxFrame := some ⟨kind, second, .through, false, true, reassignable⟩
      thru := some (OutFrame.begin_ kind second), tx := .passing }
  else
    { l with
      rx := .frame, rxFrame := some ⟨kind, second, .buffered, false, true, reassignable⟩
      elastic := some (OutFrame.begin_ kind second) }

/-- Bytes after a frame end without a gap: one framing error, and DISCARD (R20). They count also where the
frame that ended was counted already, of which R28 leaves two readings (log 43). -/
def LinePort.surplus (l : LinePort) : LinePort := { l.countError with rx := .discard }

/-- A start bit on IN, by the receive state (R19). -/
def LinePort.startBit (l : LinePort) (reassignable : Bool) (kind second : Byte) : LinePort :=
  match l.rx with
  | .idle => l.beginFrame reassignable kind second
  | .ended => l.surplus
  | .settling | .frame | .discard | .brk => l

/-- The frame in progress on IN, when it has this kind and second byte. -/
def LinePort.receiving (l : LinePort) (kind second : Byte) : Option RxFrame :=
  if l.rx = .frame then l.rxFrame.filter fun f => f.kind == kind && f.second == second else none

/-- The frame in progress counts one error, unless it was counted already (R28). -/
def LinePort.countFor (l : LinePort) (f : RxFrame) : LinePort :=
  if f.damaged then l else l.countError

/-- The frame in progress stops where a fault is found: nothing more of it leaves OUT or is kept
(R20, R23, R27). The absorb store, which R25 only says is filled no further, is emptied (log 36). -/
def LinePort.stopFrame (l : LinePort) (f : RxFrame) : LinePort :=
  match f.route with
  | .absorbed => { l with rxFrame := none, absorb := [] }
  | .through => { l with rxFrame := none, thru := none, tx := .idle, outGap := false }
  | .buffered =>
    if l.tx = .passing ∧ l.thru = none then
      { l with rxFrame := none, elastic := none, tx := .idle, outGap := false }
    else { l with rxFrame := none, elastic := none }

/-- A frame end: the receive state is ENDED, the absorb store empty, and a passed or buffered frame
has all its bytes; it is bad after a bad FCS or a framing error (R23, R25). -/
def LinePort.closeFrame (l : LinePort) (f : RxFrame) (bytes : List Byte) (good : Bool) : LinePort :=
  let finish := fun x : OutFrame => { x with bytes := bytes, ended := true, bad := !good || f.damaged }
  let l := { l with rx := .ended, rxFrame := none, absorb := [] }
  match f.route with
  | .absorbed => l
  | .through => { l with thru := l.thru.map finish }
  | .buffered => { l with elastic := l.elastic.map finish }

/-! ## OUT (R23, R26) -/

/-- A reply or re-emission enters the slot; it starts at once on an OUT that has had its gap. -/
def LinePort.placeReply (l : LinePort) (bytes : List Byte) : LinePort :=
  { l with
    replySlot := some bytes
    tx := if l.tx = .idle ∧ l.outGap then .replying else l.tx }

/-- The own slot put over the bytes received. -/
def patchSlot (body : List Byte) : Option (Nat × List Byte) → List Byte
  | none => body
  | some (i, slot) => body.take i ++ slot ++ body.drop (i + slot.length)

/-- A passed frame as it leaves OUT: with the own slot, and a fresh FCS, complemented when the frame is
bad (R23). -/
def OutFrame.sentBytes (f : OutFrame) : List Byte :=
  let body := patchSlot (frameBody f.bytes) f.slot
  body ++ fcsBytes (if f.bad then ~~~(crc body) else crc body)

/-- The slot count of a SWEEP that is passed on: what its header gave, and once its bytes stand in the
model their own. -/
def OutFrame.slotCount (f : OutFrame) (received : Byte) : Nat :=
  if f.ended then natAt f.bytes 7 else received.toNat

/-- The pass-through frame that leaves OUT now: one passed cut-through, or a buffered one once OUT has
had its gap (R27). -/
def LinePort.leaving (l : LinePort) : Option OutFrame :=
  if l.tx = .passing ∧ l.rx ≠ .brk then
    match l.thru with
    | some f => some f
    | none => if l.outGap then l.elastic else none
  else none

/-- OUT has stood at mark for 20 bit times since the last frame: a buffered frame whose turn it is
starts leaving; on an idle OUT a waiting reply starts, else a buffered frame (R26, R27, log 9). -/
def LinePort.gapElapsed (l : LinePort) : LinePort :=
  if l.rx = .brk then l
  else
    match l.tx with
    | .replying => l
    | .passing => if l.thru.isSome then l else { l with outGap := true }
    | .idle =>
      { l with
        outGap := true
        tx := if l.replySlot.isSome then .replying else if l.elastic.isSome then .passing else .idle }

/-- The reply has left: the slot is empty, and OUT is the buffered frame's after the gap (R26, R27). -/
def LinePort.replyLeft (l : LinePort) (reply : List Byte) : LinePort :=
  { l with
    replySlot := none, lastSent := reply, outGap := false
    tx := if l.elastic.isSome then .passing else .idle }

/-- The passed frame has left: a waiting reply follows after the gap, else a frame that was buffered
behind it, else IDLE (R26, log 9). -/
def LinePort.passedLeft (l : LinePort) (f : OutFrame) : LinePort :=
  let l := { l with
    lastSent := f.sentBytes, outGap := false
    thru := none
    elastic := if l.thru.isSome then l.elastic else none }
  { l with tx := if l.replySlot.isNone ∧ l.elastic.isSome then .passing else .idle }

/-! ## Frame ends at the node -/

/-- The line acts. -/
def State.onLine (s : State) (f : LinePort → LinePort) : State := { s with line := f s.line }

/-- The capture store emptied (R115). -/
def State.dropCapture (s : State) : State := { s with sweep := { s.sweep with capture := [] } }

/-- The frame in progress is found unknown or malformed: it stops there, one line error is counted, and
the receive state is DISCARD (R20). -/
def State.unknownFrame (s : State) (f : RxFrame) : State :=
  (s.onLine fun l => { (l.countFor f).stopFrame f with rx := .discard }).dropCapture

/-- The end of a frame received whole. It ends with the last byte of the length its header gives, and
`act` is what is done then; a malformed header makes it an unknown frame instead; bytes of another
length are no frame end (R20, log 3). -/
def State.frameEnd (s : State) (frame : List Byte) (act : RxFrame → State → State) : State :=
  match s.line.receiving (byteAt frame 0) (byteAt frame 1) with
  | none => s
  | some f =>
    match headerOf frame with
    | .unknown => s.unknownFrame f
    | .unfinished => s
    | .expects n => if frame.length = n then act f s else s

/-- An absorbed ORDER that is not acted on (R25): a good, undamaged one finds the slot occupied; one
that is bad or damaged is re-emitted when the slot is empty, bad in either case. -/
def LinePort.notActedOn (l : LinePort) (f : RxFrame) (frame : List Byte) : LinePort :=
  let good := fcsGood frame
  let closed := l.closeFrame f frame good
  if good && !f.damaged then closed.countError
  else
    let counted := closed.countFor f
    if counted.replySlot.isSome then counted
    else
      counted.placeReply
        (if good then frameBody frame ++ fcsBytes (~~~(crc (frameBody frame))) else frame)

/-! ## ENUMERATE (R32) -/

/-- The node is eligible for an ENUMERATE with these flags, in progress as `f`: judged by the node mode as
the flags byte arrived. Address mode and address stand while a frame is in progress. -/
def State.eligible (s : State) (f : RxFrame) (flags : Byte) : Bool :=
  s.line.ring && (s.line.address == 0 || (flags.getLsbD 0 && f.reassignable))

/-- The next address is one a node can take. -/
def takesAddress (next : Byte) : Bool := inRange 1 200 next.toNat

/-- The next address byte as it is sent on. -/
def State.enumerateOut (s : State) (f : RxFrame) (next flags : Byte) : Byte :=
  if s.eligible f flags && takesAddress next then next + 1#8 else next

/-- The bytes of a frame after the in-passing write that depends on arrival: an ENUMERATE's next
address. The FCS is made afresh as the frame leaves. -/
def State.rewritten (s : State) (f : RxFrame) (frame : List Byte) : List Byte :=
  if byteAt frame 0 = enumerateKind then
    frame.set 1 (s.enumerateOut f (byteAt frame 1) (byteAt frame 2))
  else frame

/-! ## The Sweep Unit (chapter 7) -/

/-- The captured entry of a record, from the slots as received; none beyond the slot count (R115). -/
def captureFor (f : SweepFrame) (n : Neighbour) : Option Captured :=
  if inRange 1 f.slots.length n.address.toNat then
    some ⟨f.slotByte n.address.toNat 0, f.slotByte n.address.toNat (2 + n.head.val)⟩
  else none

/-- A capture that refreshes at sweep number `k` (R116). -/
def Captured.current (c : Captured) (k : Byte) : Bool :=
  (c.stamp == k || c.stamp == k - 1#8) && c.headByte.getLsbD 7

/-- The aspect a slot code carries; codes 5..7 are taken as DARK (R116). -/
def Aspect.ofSlot (b : Byte) : Aspect := (Aspect.ofCode (b.extractLsb' 0 3).toNat).getD .dark

/-- The proving state a head byte carries. -/
def Proving.ofSlot (b : Byte) : Proving :=
  match (b.extractLsb' 4 2).toNat with
  | 1 => .proven
  | 2 => .degraded
  | 3 => .failed
  | _ => .unproven

/-- A record after step 3 of an accepted SWEEP. -/
def Neighbour.refresh (n : Neighbour) (now : Nat) (k : Byte) : Option Captured → Neighbour
  | none => n
  | some c =>
    if c.current k then
      { n with
        aspect := Aspect.ofSlot c.headByte, proving := Proving.ofSlot c.headByte
        lastRefresh := some now, fresh := true }
    else n

/-- The capture refreshes its record. -/
def refreshes (k : Byte) : Option Captured → Bool
  | none => false
  | some c => c.current k

/-- Step 3: the records refreshed from the capture store, and the heads that reference a refreshed
record re-test (R116). -/
def State.refreshNeighbours (s : State) (k : Byte) : State :=
  let pairs := s.sweep.records.zip s.sweep.capture
  let hit := (pairs.filter fun p => refreshes k p.2).map Prod.fst
  let t := { s with
    sweep := { s.sweep with records := pairs.map fun (p : Neighbour × Option Captured) => p.1.refresh s.now k p.2 } }
  t.seq fun e =>
    e.retestAll (e.bank.existing.filter fun h => hit.any fun n => e.bank.refersTo h n)

/-- The heartbeat at the watchdog (R113, R125). -/
def Watchdog.heartbeat (w : Watchdog) (now : Nat) : Watchdog :=
  if w.armed then { w with start := some now, stream := true } else w

/-- The lighting level handed on (R114, R138). -/
def State.takeLevel (s : State) (level : Nat) : State :=
  if s.lamp.level = level then s
  else { s with lamp := { s.lamp with level := level } }.retarget

/-- A SWEEP at the Sweep Unit (R111, R112): a repeated phase is posted and ends the event; an accepted
one takes the five steps. Its refresh and a schedule entry that its clock setting fires can each change a
head's displayed aspect (R92, log 34). -/
def State.sweepEvent (s : State) (f : SweepFrame) : State :=
  if s.sweep.lastPhase = some f.phase then (s.post .repeatedHeartbeat).dropCapture
  else
    let s1 := { s with
      sweep := { s.sweep with lastPhase := some f.phase }
      watchdog := s.watchdog.heartbeat s.now }
    (((s1.refreshNeighbours f.number).takeLevel f.level).dropCapture).syncClock f.masterTime

/-- The slots captured for the records, while the set stands as it did at the frame's start. -/
def State.captureSlots (s : State) (f : SweepFrame) (capturing : Bool) : State :=
  { s with
    sweep := { s.sweep with
      capture := s.sweep.records.map fun n => if capturing then captureFor f n else none } }

/-- The slot for the node's own address, as received, carries this SWEEP's number (R34). -/
def State.sweepShowsDuplicate (s : State) (f : SweepFrame) : Bool :=
  inRange 1 f.slots.length s.line.address && f.slotByte s.line.address 0 == f.number

/-! ## The own slot (R118) -/

/-- The own slot of this moment for a SWEEP of `n` slots; none with address 0 or one above `n`. -/
def State.slotFor (s : State) (f : OutFrame) (n : Nat) : Option (Nat × List Byte) :=
  if f.kind == sweepKind && inRange 1 n s.line.address then
    some (8 + 12 * (s.line.address - 1), s.ownSlot f.second)
  else none

/-- An ended frame as it leaves OUT whole: a SWEEP has the own slot as written in passing, where it lies
within the frame's slots, or, if none was, as of this moment (R118, log 37). -/
def State.withSlot (s : State) (f : OutFrame) : OutFrame :=
  { f with
    slot :=
      match f.slot with
      | some (i, slot) => if i + slot.length ≤ 8 + 12 * natAt f.bytes 7 then some (i, slot) else none
      | none => s.slotFor f (natAt f.bytes 7) }

/-! ## The meanings -/

/-- FRAME_START (R19, R26): the first two bytes have arrived, of an ENUMERATE its flags byte as well (R23,
log 6). -/
def execFrameStart (kind second : Byte) (s : State) : Host.Outcome State Fault Refusal :=
  live s fun s => s.onLine fun l => l.startBit s.node.mode.reassignable kind second

/-- FRAMING_ERROR (R28): the frame is damaged and counted once. -/
def execFramingError (s : State) : Host.Outcome State Fault Refusal :=
  live s fun s => s.onLine fun l =>
    match l.rx, l.rxFrame with
    | .frame, some f => { l.countFor f with rxFrame := some { f with damaged := true } }
    | _, _ => l

/-- UNKNOWN_FRAME (R20): of the frame in progress. -/
def execUnknownFrame (s : State) : Host.Outcome State Fault Refusal :=
  live s fun s =>
    match s.line.rx, s.line.rxFrame with
    | .frame, some f => s.unknownFrame f
    | _, _ => s

/-- The frame in progress ends in truncation (R28). -/
def State.truncate (s : State) (f : RxFrame) : State :=
  (s.onLine fun l => { (l.countFor f).stopFrame f with rx := .idle }).dropCapture

/-- FRAME_TRUNCATION (R28). -/
def execFrameTruncation (s : State) : Host.Outcome State Fault Refusal :=
  live s fun s =>
    match s.line.rx, s.line.rxFrame with
    | .frame, some f => s.truncate f
    | _, _ => s

/-- SURPLUS_BYTES (R20). -/
def execSurplusBytes (s : State) : Host.Outcome State Fault Refusal :=
  live s fun s => s.onLine fun l => if l.rx = .ended then l.surplus else l

/-- IN_IDLE_GAP (R19): between frames it leads to IDLE; within a frame it is the truncation. -/
def execInIdleGap (s : State) : Host.Outcome State Fault Refusal :=
  live s fun s =>
    match s.line.rx, s.line.rxFrame with
    | .settling, _ | .ended, _ | .discard, _ => s.onLine fun l => { l with rx := .idle }
    | .frame, some f => s.truncate f
    | .frame, none | .idle, _ | .brk, _ => s

/-- BAD_FCS_FRAME_END (R22): passed on bad, counted once, not acted on; an absorbed ORDER is
re-emitted or dropped (R25). -/
def execBadFcsFrameEnd (frame : List Byte) (s : State) : Host.Outcome State Fault Refusal :=
  live s fun s =>
    s.frameEnd frame fun f s =>
      if fcsGood frame then s
      else if f.route = .absorbed then s.onLine fun l => l.notActedOn f frame
      else (s.onLine fun l => (l.countFor f).closeFrame f (s.rewritten f frame) false).dropCapture

/-- SWEEP (R111): its good frame end. -/
def execSweep (f : SweepFrame) (s : State) : Host.Outcome State Fault Refusal :=
  live s fun s =>
    s.frameEnd f.bytes fun r s =>
      let s1 := s.onLine fun l => l.closeFrame r f.bytes true
      if r.damaged then s1.dropCapture
      else
        let s2 := if s1.sweepShowsDuplicate f then s1.post .duplicateAddress else s1
        (s2.captureSlots f r.capturing).sweepEvent f

/-- OWN_SLOT_WRITE (R118): the snapshot taken as the first byte of the own slot leaves OUT. That byte
leaves once, so of a second command for the same SWEEP the rule says nothing: the model lets the slot that
has been written stand (logs 3 and 37). -/
def execOwnSlotWrite (slotCount : Byte) (s : State) : Host.Outcome State Fault Refusal :=
  live s fun s =>
    match s.line.leaving with
    | none => s
    | some f =>
      match f.slot, s.slotFor f (f.slotCount slotCount) with
      | some _, _ | none, none => s
      | none, some written =>
        s.onLine fun l =>
          match l.thru with
          | some t => { l with thru := some { t with slot := some written } }
          | none => { l with elastic := l.elastic.map fun t => { t with slot := some written } }

/-- REPLY_FRAME (R34): forwarded; its source is compared with the node's nonzero address. -/
def execReplyFrame (f : ReplyFrame) (s : State) : Host.Outcome State Fault Refusal :=
  live s fun s =>
    s.frameEnd f.bytes fun r s =>
      let s1 := s.onLine fun l => l.closeFrame r f.bytes true
      if !r.damaged && s.line.address != 0 && f.source.toNat == s.line.address then
        s1.post .duplicateAddress
      else s1

/-- ENUMERATE (R32): rewritten in passing when the node is eligible, which then takes the next
address received at its good, undamaged frame end. -/
def execEnumerate (next flags : Byte) (s : State) : Host.Outcome State Fault Refusal :=
  live s fun s =>
    s.frameEnd (enumerateBytes next flags) fun r s =>
      let s1 := s.onLine fun l => l.closeFrame r (s.rewritten r (enumerateBytes next flags)) true
      if !r.damaged && s.eligible r flags && takesAddress next then
        s1.onLine fun l => { l with address := next.toNat }
      else s1

/-- OUT_GAP_ELAPSED (R26). -/
def execOutGapElapsed (s : State) : Host.Outcome State Fault Refusal :=
  live s fun s => s.onLine LinePort.gapElapsed

/-- REPLY_LEFT_OUT (R26); a pending restart is due from this event (R49). -/
def execReplyLeftOut (s : State) : Host.Outcome State Fault Refusal :=
  live s fun s =>
    match s.line.tx, s.line.replySlot with
    | .replying, some reply =>
      if s.line.rx = .brk then s
      else
        { s with
          line := s.line.replyLeft reply
          node := { s.node with restartDue := s.node.restartPending.isSome } }
    | _, _ => s

/-- PASS_THROUGH_LEFT_OUT (R26, R27): only a frame that has ended on IN has left OUT whole; every SWEEP
that has room for the own slot leaves with it (R118). -/
def execPassThroughLeftOut (s : State) : Host.Outcome State Fault Refusal :=
  live s fun s =>
    match s.line.leaving with
    | none => s
    | some f => if f.ended then s.onLine fun l => l.passedLeft (s.withSlot f) else s

/-- BREAK (R29): recognised in whatever receive state. -/
def execLineBreak (s : State) : Host.Outcome State Fault Refusal :=
  live s fun s => s.onLine fun l => { l with rx := .brk }

/-- The line reset at the Line Port (R30). -/
def LinePort.reset (l : LinePort) (mode : Mode) : LinePort :=
  { l with
    rx := .settling, rxFrame := none, absorb := [], thru := none, elastic := none
    replySlot := none, lineErrors := 0, tx := .idle, outGap := false
    address := if l.ring ∧ (mode = .unconfigured ∨ mode = .outOfService) then 0 else l.address }

/-- LINE_RESET (R30): the end of a break. A restart whose reply it drops is due (R49). -/
def execLineReset (s : State) : Host.Outcome State Fault Refusal :=
  live s fun s =>
    if s.line.rx = .brk then
      { s with
        line := s.line.reset s.node.mode
        node := { s.node with restartDue := s.node.restartPending.isSome } }.dropCapture
    else s

end Sys2Proof.Machine
end

