-- ==== Sys2Proof/Machine/OrderUnit.lean ====
section
/-! DEFINITION. The Order Unit (chapter 3): authority, the checks in their fixed sequence, dispatch, the
reply, and the commands that end an ORDER frame without an order of the catalogue. -/

namespace Sys2Proof.Machine

/-- What an addressed order comes to: its status, the order content after the summary, and the node
after it. -/
structure Answer where
  status : Status
  content : List Byte
  state : State
deriving DecidableEq, Repr

/-- A refusal: nothing in the node changes (R42). -/
def Answer.refuse (s : State) (st : Status) : Answer := ⟨st, [], s⟩

/-- An order of the catalogue (R41): its row, and what its owner does with it. -/
structure OrderSpec where
  code : Byte
  lengthOk : List Byte → Bool
  commission : List Byte → Bool
  modeOk : State → Bool
  /-- refused BUSY while a commit is in flight -/
  busyChecked : Bool
  /-- acted on from a group or broadcast destination -/
  group : Bool
  /-- the order-specific checks and the effect, addressed -/
  act : Order → State → Answer
  /-- the same from a group or broadcast destination -/
  actGroup : Order → State → State
  /-- what is done when a group or broadcast order fails its mode check (R43) -/
  wrongModeGroup : State → State

/-- The honoured authority is COMMISSION: authority byte 1 with KEY asserted (R40). -/
def commissionHonoured (o : Order) : Bool := o.authority == 1#8 && o.key

/-- Checks 2 to 5 in order; the first that fails gives the status (R42). -/
def OrderSpec.check (q : OrderSpec) (o : Order) (s : State) : Option Status :=
  if !q.lengthOk o.body then some .badLength
  else if q.commission o.body && !commissionHonoured o then some .notAuthorised
  else if !q.modeOk s then some .wrongMode
  else if q.busyChecked && s.store.validating then some .busy
  else none

/-- An addressed order checked and carried out or refused. -/
def OrderSpec.answer (q : OrderSpec) (o : Order) (s : State) : Answer :=
  match q.check o s with
  | some st => .refuse s st
  | none => q.act o s

/-- A group or broadcast order checked and carried out, dropped or ignored (R43). -/
def OrderSpec.answerGroup (q : OrderSpec) (o : Order) (s : State) : State :=
  if !q.group then s
  else
    match q.check o s with
    | some .wrongMode => q.wrongModeGroup s
    | some _ => s
    | none => q.actGroup o s

/-- The reply to an addressed order: built after the order has acted and placed in the reply slot
(R45). -/
def Answer.reply (a : Answer) (code : Byte) (o : Order) : State :=
  a.state.onLine fun l => l.placeReply
    (withFcs (replyBody (byteOf l.address) a.status.byte o.tag code (a.state.summary ++ a.content)))

/-- The destination is one of the node's groups or broadcast (R24). -/
def State.hearsGroup (s : State) (dest : Byte) : Bool :=
  dest == 255#8 || s.store.active.groupAddress dest

/-- KEY as it stands at a frame end. -/
def State.readKey (s : State) (key : Bool) : State := { s with node := { s.node with key := key } }

/-- The good frame end of an ORDER (R24, R25, R43): an absorbed one is answered, unless it is damaged
or finds the reply slot occupied; a group or broadcast one is forwarded and acted on without a reply;
any other is forwarded only. -/
def orderEnd (code : Byte) (o : Order) (answer : State → Answer) (group : State → State)
    (s : State) : State :=
  let frame := withFcs (o.frame code)
  s.frameEnd frame fun f s =>
    let s := s.readKey o.key
    if f.route = .absorbed then
      if f.damaged || s.line.replySlot.isSome then s.onLine fun l => l.notActedOn f frame
      else (answer (s.onLine fun l => l.closeFrame f frame true)).reply code o
    else
      let s := s.onLine fun l => l.closeFrame f frame true
      if !f.damaged && s.hearsGroup o.dest then group s else s

/-- The frame end of an order of the catalogue. -/
def OrderSpec.run (q : OrderSpec) (o : Order) (s : State) : Host.Outcome State Fault Refusal :=
  live s (orderEnd q.code o (q.answer o) (q.answerGroup o))

/-! ## Rows of the catalogue -/

def anyMode (_ : State) : Bool := true

def inService (s : State) : Bool := s.node.mode == .inService

def inServiceOrFallback (s : State) : Bool :=
  s.node.mode == .inService || s.node.mode == .fallback

/-- A body of exactly `n` bytes. -/
def lengthIs (n : Nat) (body : List Byte) : Bool := body.length == n

def operate (_ : List Byte) : Bool := false

def needsCommission (_ : List Byte) : Bool := true

/-- An order that is acted on only when addressed. -/
def addressedOrder (code : Byte) (lengthOk : List Byte → Bool) (commission : List Byte → Bool)
    (modeOk : State → Bool) (act : Order → State → Answer) : OrderSpec :=
  { code, lengthOk, commission, modeOk, busyChecked := false, group := false, act
    actGroup := fun _ s => s, wrongModeGroup := fun s => s }

/-- DONE with this content. -/
def Answer.done (s : State) (content : List Byte) : Answer := ⟨.done, content, s⟩

/-- The order codes of the catalogue (R41). -/
def catalogue : List Byte :=
  [0x01#8, 0x02#8, 0x03#8, 0x04#8, 0x10#8, 0x11#8, 0x12#8, 0x13#8, 0x20#8, 0x21#8, 0x22#8, 0x23#8,
    0x30#8, 0x31#8, 0x32#8, 0x33#8, 0x34#8, 0x40#8, 0x41#8, 0x42#8, 0x50#8]

/-! ## ORDER frames without an order of the catalogue -/

/-- UNKNOWN_ORDER (R42, R43): refused in the reply, or ignored from a group or broadcast
destination. -/
def execUnknownOrder (code : Byte) (o : Order) (s : State) : Host.Outcome State Fault Refusal :=
  live s fun s =>
    if catalogue.contains code then s
    else orderEnd code o (fun s => .refuse s .unknownOrder) (fun s => s) s

/-- ORDER_NOT_ACTED_ON (R25): an absorbed ORDER that is bad, damaged, or finds the reply slot
occupied. -/
def execOrderNotActedOn (code : Byte) (o : Order) (fcs : Fcs) (s : State) :
    Host.Outcome State Fault Refusal :=
  live s fun s =>
    let frame := o.frame code ++ fcsBytes fcs
    s.frameEnd frame fun f s =>
      if f.route = .absorbed
          ∧ (fcsGood frame = false ∨ f.damaged = true ∨ s.line.replySlot.isSome = true) then
        (s.readKey o.key).onLine fun l => l.notActedOn f frame
      else s

/-- ORDER_FORWARDED_ONLY (R24): the destination is neither the node's address, nor one of its groups,
nor 255. -/
def execOrderForwardedOnly (code : Byte) (o : Order) (s : State) :
    Host.Outcome State Fault Refusal :=
  live s fun s =>
    s.frameEnd (withFcs (o.frame code)) fun f s =>
      if f.route = .absorbed ∨ s.hearsGroup o.dest = true then s
      else (s.readKey o.key).onLine fun l => l.closeFrame f (withFcs (o.frame code)) true

end Sys2Proof.Machine
end

