-- ==== Sys2Proof/Machine/LampOrders.lean ====
section
/-! DEFINITION. The orders of the Lamp Proving Unit (chapter 10): LAMP_TEST, CLEAR_LAMP_FAULT,
RELEARN. -/

namespace Sys2Proof.Machine

/-- A head record put in place at its own event; `forced` settles its pattern anew. -/
def State.setHead (s : State) (h : Fin 8) (hd : Head) (forced : Bool) : State :=
  { s with
    gantry := s.gantry.relight s.store.active s.store.active (fun i => forced && i == h)
      (s.gantry.heads.set h hd) }

/-- A head under a lamp test shows the named aspect (R158, log 26). -/
def Head.testing (hd : Head) (a : Aspect) (p : PatternKind) : Head :=
  { hd with displayed := a, test := some ⟨a, p⟩ }

/-- The head of the opposite face of a TIDAL lane is under a lamp test of a permissive aspect. -/
def State.oppositeTestPermissive (s : State) (h : Fin 8) : Bool :=
  match s.store.active.oppositeHead h with
  | none => false
  | some o =>
    match s.gantry.heads[o].test with
    | none => false
    | some t => t.aspect.permissive

/-- LAMP_TEST carried out, its checks in order (R158). -/
def actLampTest (o : Order) (s : State) : Answer :=
  let b := s.store.active
  let h := headOf (byteAt o.body 0)
  let p := if natAt o.body 2 = 0 then PatternKind.primary else PatternKind.alternate
  if 7 < natAt o.body 0 ∨ b.headExists h = false ∨ 4 < natAt o.body 1 ∨ 1 < natAt o.body 2 then
    .refuse s .outOfRange
  else
    match Aspect.ofCode (natAt o.body 1) with
    | none => .done (s.setHead h s.gantry.heads[h].darken false) []
    | some a =>
      if (b.pattern h a .primary).isEmpty || (b.pattern h a p).isEmpty then .refuse s .notFitted
      else if a.permissive && s.oppositeTestPermissive h then .refuse s .conflict
      else .done (s.setHead h (s.gantry.heads[h].testing a p) true) []

def lampTestSpec : OrderSpec :=
  addressedOrder 0x40#8 (lengthIs 3) needsCommission (fun s => s.node.mode == .outOfService)
    actLampTest

/-- LAMP_TEST (R158). -/
def execLampTest (o : Order) (s : State) : Host.Outcome State Fault Refusal := lampTestSpec.run o s

/-- The modes of CLEAR_LAMP_FAULT and RELEARN. -/
def configured (s : State) : Bool := s.node.mode != .unconfigured

/-- A channel cleared: OK, no failure kind, its counters at 0 (R155). -/
def Channel.cleared (ch : Channel) : Channel :=
  { ch with state := .ok, kind := .none, fault := 0, stuck := 0 }

/-- The channels CLEAR_LAMP_FAULT clears. -/
def Bank.clearedChannels (b : Bank) (x : Nat) : List (Fin 32) :=
  if x = 255 then allChannels else b.headChannels (Fin.ofNat 8 x)

/-- The existing heads CLEAR_LAMP_FAULT concerns. -/
def Bank.concerned (b : Bank) (x : Nat) (h : Fin 8) : Bool :=
  b.headExists h && (x == 255 || h.val == x)

/-- The effect of CLEAR_LAMP_FAULT on the gantry: channels cleared, alternate flags cleared, the
displayed patterns of the heads concerned settling anew, their proving states afresh (R155). -/
def Gantry.clearFaults (g : Gantry) (b : Bank) (x : Nat) : Gantry :=
  { g with
    channels := Vector.ofFn fun c : Fin 32 =>
      if (b.clearedChannels x).contains c then g.channels[c].cleared else g.channels[c] }.relight
    b b (b.concerned x)
    (Vector.ofFn fun h : Fin 8 =>
      if b.concerned x h then g.heads[h].clearAlts else g.heads[h])

/-- CLEAR_LAMP_FAULT carried out (R155): the content is the number of channels that were DRIFT or
FAILED; heads opposite to a changed proving state re-test. -/
def actClearLampFault (o : Order) (s : State) : Answer :=
  let x := natAt o.body 0
  if 7 < x ∧ x ≠ 255 then .refuse s .outOfRange
  else
    let b := s.store.active
    let n := (allChannels.filter fun c =>
      (b.clearedChannels x).contains c && s.gantry.channels[c].state != .ok).length
    let t := { s with gantry := s.gantry.clearFaults b x }
    .done (t.seq fun e g => e.retestOpposites s.gantry g) [byteOf n]

def clearLampFaultSpec : OrderSpec :=
  addressedOrder 0x41#8 (lengthIs 1) operate configured actClearLampFault

/-- CLEAR_LAMP_FAULT (R155). -/
def execClearLampFault (o : Order) (s : State) : Host.Outcome State Fault Refusal :=
  clearLampFaultSpec.run o s

/-- The learned reference of one channel, or of every channel for 255, becomes 1024 (R156). -/
def Gantry.relearn (g : Gantry) (x : Nat) : Gantry :=
  { g with
    channels := Vector.ofFn fun c : Fin 32 =>
      if x = 255 ∨ c.val = x then { g.channels[c] with ref := 1024 } else g.channels[c] }

/-- RELEARN carried out (R156). -/
def actRelearn (o : Order) (s : State) : Answer :=
  let x := natAt o.body 0
  if 31 < x ∧ x ≠ 255 then .refuse s .outOfRange
  else .done { s with gantry := s.gantry.relearn x } []

def relearnSpec : OrderSpec := addressedOrder 0x42#8 (lengthIs 1) needsCommission configured actRelearn

/-- RELEARN (R156). -/
def execRelearn (o : Order) (s : State) : Host.Outcome State Fault Refusal := relearnSpec.run o s

end Sys2Proof.Machine
end

