-- ==== Sys2Proof/Machine/Reads.lean ====
section
/-! DEFINITION. The orders that read the node: READ_NODE, READ_LAMPS, READ_EVENTS, PEEK_EVENTS. -/

namespace Sys2Proof.Machine

/-- READ_NODE carried out (R166): the record, then the line error counter cleared when asked. -/
def actReadNode (o : Order) (s : State) : Answer :=
  if 1 < natAt o.body 0 then .refuse s .outOfRange
  else
    .done (if natAt o.body 0 = 1 then s.onLine fun l => { l with lineErrors := 0 } else s)
      s.nodeRecord

def readNodeSpec : OrderSpec :=
  addressedOrder 0x01#8 (lengthIs 1) operate anyMode actReadNode

/-- READ_NODE (R166). -/
def execReadNode (o : Order) (s : State) : Host.Outcome State Fault Refusal := readNodeSpec.run o s

/-- The state byte of a channel record (R157). -/
def Channel.stateCode (ch : Channel) : Nat :=
  match ch.state, ch.kind with
  | .ok, _ => 0
  | .drift, _ => 1
  | .failed, .stuckOn => 3
  | .failed, _ => 2

/-- The channel lies in a primary, or in an alternate, pattern that belongs to head `h`. -/
def Bank.inPatterns (b : Bank) (h : Fin 8) (p : PatternKind) (c : Fin 32) : Bool :=
  (litAspects.filter (b.fitted h)).any fun a =>
    (b.pattern h a p).any fun e => e.channel == c

/-- The ownership byte of a channel record. -/
def State.ownerByte (s : State) (c : Fin 32) : Nat :=
  let b := s.store.active
  let lit := 64 * bit ((b.litChannels s.gantry.heads).contains c)
  let settling := 128 * bit (s.gantry.channels[c].settle < 2)
  match b.existing.find? fun h => (b.headChannels h).contains c with
  | some h =>
    h.val + 8 + 16 * bit (b.inPatterns h .primary c) + 32 * bit (b.inPatterns h .alternate c)
      + lit + settling
  | none => lit + settling

/-- The 8-byte record of a channel (R157). -/
def State.channelRecord (s : State) (c : Fin 32) : List Byte :=
  let ch := s.gantry.channels[c]
  [byteOf ch.stateCode, byteOf (s.ownerByte c)] ++ be16 ch.output ++ be16 ch.lastM ++ be16 ch.ref

/-- READ_LAMPS carried out: from the first channel, to the count, channel 31 or 29 records. -/
def actReadLamps (o : Order) (s : State) : Answer :=
  let first := natAt o.body 0
  if 31 < first then .refuse s .outOfRange
  else
    let cs := (allChannels.drop first).take (min (natAt o.body 1) 29)
    .done s (byteOf cs.length :: cs.flatMap s.channelRecord)

def readLampsSpec : OrderSpec :=
  addressedOrder 0x02#8 (lengthIs 2) operate anyMode actReadLamps

/-- READ_LAMPS (R157). -/
def execReadLamps (o : Order) (s : State) : Host.Outcome State Fault Refusal :=
  readLampsSpec.run o s

/-- What READ_EVENTS and PEEK_EVENTS return: the count, the overflow flag, the oldest entries
(R164). -/
def EventUnit.report (u : EventUnit) : List Byte :=
  [byteOf (u.queue.take 4).length, byteOf (bit u.overflow)] ++ (u.queue.take 4).flatMap Event.bytes

/-- READ_EVENTS carried out: the entries returned are removed and the overflow flag cleared. -/
def actReadEvents (_ : Order) (s : State) : Answer :=
  .done { s with events := { queue := s.events.queue.drop 4, overflow := false } } s.events.report

def readEventsSpec : OrderSpec :=
  addressedOrder 0x03#8 (lengthIs 0) operate anyMode actReadEvents

/-- READ_EVENTS (R164). -/
def execReadEvents (o : Order) (s : State) : Host.Outcome State Fault Refusal :=
  readEventsSpec.run o s

/-- PEEK_EVENTS carried out: nothing changes. -/
def actPeekEvents (_ : Order) (s : State) : Answer := .done s s.events.report

def peekEventsSpec : OrderSpec :=
  addressedOrder 0x04#8 (lengthIs 0) operate anyMode actPeekEvents

/-- PEEK_EVENTS (R164). -/
def execPeekEvents (o : Order) (s : State) : Host.Outcome State Fault Refusal :=
  peekEventsSpec.run o s

end Sys2Proof.Machine
end

