-- ==== Sys2Proof/Machine/Resets.lean ====
section
/-! DEFINITION. The supply, the RESET_N pin and the pending restart (R49 to R51). -/

namespace Sys2Proof.Machine

/-- POWER_ON (R51): the supply is established; the node starts unless RESET_N is still low (log 11). -/
def execPowerOn (p : ResetInputs) (s : State) : Host.Outcome State Fault Refusal :=
  .next
    (if s.node.resetNHigh then s.powerUp .powerOn p
     else { s with node := { s.node with supplyOk := true } })

/-- RESET_N (R51): the pin returns high; the node starts unless the supply is down. -/
def execResetN (p : ResetInputs) (s : State) : Host.Outcome State Fault Refusal :=
  .next
    (if s.node.supplyOk then s.powerUp .resetPin p
     else { s with node := { s.node with resetNHigh := true } })

/-- SUPPLY_LOSS (R51): held in reset. -/
def execSupplyLoss (s : State) : Host.Outcome State Fault Refusal :=
  let t := s.holdInReset
  .next { t with node := { t.node with supplyOk := false } }

/-- RESET_N driven low (R51): held in reset. -/
def execResetNAsserted (s : State) : Host.Outcome State Fault Refusal :=
  let t := s.holdInReset
  .next { t with node := { t.node with resetNHigh := false } }

/-- A restart of kind `k` takes effect with the readings of the command, when it is the one that is
due. -/
def State.effectOf (s : State) (k : RestartKind) (p : ResetInputs) : State :=
  if s.held then s
  else if s.node.restartPending = some k ∧ s.node.restartDue then s.restartEffect k p
  else s.dueRestart

/-- KEEP_TABLES_RESTART_EFFECT (R50): the pending restart, once its reply has left or is dropped. -/
def execKeepTablesRestartEffect (p : ResetInputs) (s : State) : Host.Outcome State Fault Refusal :=
  .next (s.effectOf .keepTables p)

/-- FULL_RESTART_EFFECT (R49, R51). -/
def execFullRestartEffect (p : ResetInputs) (s : State) : Host.Outcome State Fault Refusal :=
  .next (s.effectOf .full p)

end Sys2Proof.Machine
end

