-- ==== Sys2Proof/Machine/Service.lean ====
section
/-! DEFINITION. The orders of Node Control and of commissioning in service: ENTER_SERVICE,
LEAVE_SERVICE, HOLD, STEP, RELEASE, RESTART. -/

namespace Sys2Proof.Machine

def enterServiceSpec : OrderSpec :=
  addressedOrder 0x30#8 (lengthIs 0) operate (fun s => s.node.mode == .outOfService)
    fun _ s => .done s.enterService []

/-- ENTER_SERVICE (R47). -/
def execEnterService (o : Order) (s : State) : Host.Outcome State Fault Refusal :=
  enterServiceSpec.run o s

def leaveServiceSpec : OrderSpec :=
  addressedOrder 0x31#8 (lengthIs 0) needsCommission inServiceOrFallback
    fun _ s => .done s.leaveService []

/-- LEAVE_SERVICE (R48). -/
def execLeaveService (o : Order) (s : State) : Host.Outcome State Fault Refusal :=
  leaveServiceSpec.run o s

/-- The hold flag set or cleared. -/
def State.setHold (s : State) (b : Bool) : State := { s with node := { s.node with hold := b } }

def holdSpec : OrderSpec :=
  addressedOrder 0x32#8 (lengthIs 0) needsCommission inService fun _ s => .done (s.setHold true) []

/-- HOLD (R102). -/
def execHold (o : Order) (s : State) : Host.Outcome State Fault Refusal := holdSpec.run o s

/-- STEP carried out (R104): refused WRONG_MODE without the hold flag; the content is the number of
heads that changed. -/
def actStep (_ : Order) (s : State) : Answer :=
  if s.node.hold then
    let t := s.seq Env.stepExisting
    .done t [byteOf (changedHeads s.gantry t.gantry)]
  else .refuse s .wrongMode

def stepSpec : OrderSpec := addressedOrder 0x33#8 (lengthIs 0) needsCommission inService actStep

/-- STEP (R104). -/
def execStepHeads (o : Order) (s : State) : Host.Outcome State Fault Refusal := stepSpec.run o s

/-- The hold flag cleared: intervals reached during the hold complete, and every existing head
re-tests (R105, log 17). A schedule entry that fires at the same moment has fired before it (R109,
log 33). -/
def State.releaseHold (s : State) : State :=
  if s.node.hold then ((s.setHold false).dueSequencer).seq Env.retestExisting else s

def releaseSpec : OrderSpec :=
  addressedOrder 0x34#8 (lengthIs 0) needsCommission inService fun _ s => .done s.releaseHold []

/-- RELEASE (R105). -/
def execRelease (o : Order) (s : State) : Host.Outcome State Fault Refusal := releaseSpec.run o s

/-- RESTART carried out (R49): the restart is pending from the frame end until its reply has left or
is dropped. -/
def actRestart (o : Order) (s : State) : Answer :=
  match natAt o.body 0 with
  | 0 => .done { s with
      node := { s.node with restartPending := some .keepTables, restartDue := false } } []
  | 1 => .done { s with
      node := { s.node with restartPending := some .full, restartDue := false } } []
  | _ => .refuse s .outOfRange

/-- The modes in which RESTART is accepted. -/
def restartMode (s : State) : Bool :=
  s.node.mode == .unconfigured || s.node.mode == .outOfService || s.node.mode == .lockout

def restartSpec : OrderSpec :=
  addressedOrder 0x50#8 (lengthIs 1) needsCommission restartMode actRestart

/-- RESTART with body 0 (R49, log 23). -/
def execRestartKeepTables (o : Order) (s : State) : Host.Outcome State Fault Refusal :=
  restartSpec.run o s

/-- RESTART with body 1 (R49, log 23). -/
def execRestartFull (o : Order) (s : State) : Host.Outcome State Fault Refusal := restartSpec.run o s

end Sys2Proof.Machine
end

