-- ==== Sys2Proof/Machine/Commit.lean ====
section
/-! DEFINITION. The commit (chapter 4): the ordered checks over SHADOW, and what a completion does. -/

namespace Sys2Proof.Machine

/-- A failing check: its result with the detail (table id, record index). -/
structure CommitFailure where
  result : CommitResult
  table : Nat
  index : Nat
deriving DecidableEq, Repr

/-- The first failure of a sequence of checks. -/
def firstFailure : List (Option CommitFailure) → Option CommitFailure
  | [] => none
  | some f :: _ => some f
  | none :: rest => firstFailure rest

/-- A failure that names the record found, if one is. -/
def failureAt (r : CommitResult) (table : Nat) {n : Nat} (found : Option (Fin n)) :
    Option CommitFailure :=
  found.map fun i => ⟨r, table, i.val⟩

/-! ## Steps 1 to 8: the constraint checks (R15 to R18, R61) -/

/-- The unset-table checks. -/
def Bank.checkUnset (b : Bank) : Option CommitFailure :=
  if !b.nodeWritten then some ⟨.nodeUnset, 1, 0⟩
  else if !b.timingWritten then some ⟨.timingUnset, 5, 0⟩
  else if !b.intensityWritten then some ⟨.intensityUnset, 6, 0⟩
  else none

/-- LANE_HEAD_MISMATCH: the first pass over present faces, then the second over existing heads, with
the heads named so far (R15). -/
def Bank.checkLaneHeads (b : Bank) :
    List (Fin 4 × Face) → List (Fin 8) → Option CommitFailure
  | [], named =>
    failureAt .laneHeadMismatch 3 (b.existing.find? fun h => !named.contains h)
  | (k, f) :: rest, named =>
    let h := b.faceHead k f
    if !b.headExists h then some ⟨.laneHeadMismatch, 2, k.val⟩
    else if named.contains h then some ⟨.laneHeadMismatch, 2, k.val⟩
    else if b.headLane h ≠ k ∨ b.headFace h ≠ f then some ⟨.laneHeadMismatch, 3, h.val⟩
    else b.checkLaneHeads rest (h :: named)

/-- PATTERN_NOT_FITTED (R16). -/
def Bank.checkFitted (b : Bank) : Option CommitFailure :=
  failureAt .patternNotFitted 3 (b.existing.find? fun h =>
    !(b.fitted h .open_ && b.fitted h .closed && b.fitted h (b.closingMerge h)))

/-- Some channel is listed twice. -/
def repeats : List (Fin 32) → Bool
  | [] => false
  | c :: rest => rest.contains c || repeats rest

/-- CHANNEL_SHARED over heads in order, with the channels of the heads visited so far (R16). -/
def Bank.checkShared (b : Bank) : List (Fin 8) → List (Fin 32) → Option CommitFailure
  | [], _ => none
  | h :: rest, earlier =>
    let own := b.headChannels h
    if (b.patternsAmong h litAspects).any fun p => repeats (p.map PatternEntry.channel) then
      some ⟨.channelShared, 3, h.val⟩
    else if own.any earlier.contains then some ⟨.channelShared, 3, h.val⟩
    else b.checkShared rest (earlier ++ own)

/-- CHANNEL_CLASS_OVERLAP (R17). -/
def Bank.checkOverlap (b : Bank) : Option CommitFailure :=
  failureAt .channelClassOverlap 3 (b.existing.find? fun h =>
    (b.permissiveChannels h).any (b.restrictiveChannels h).contains)

/-- NO_ESSENTIAL (R17). -/
def Bank.checkEssential (b : Bank) : Option CommitFailure :=
  failureAt .noEssential 3 (b.existing.find? fun h =>
    (b.patternsAmong h litAspects).any fun p => !p.isEmpty && !p.any PatternEntry.essential)

/-- NEIGHBOUR_SELF (R18); with node address 0 it passes. -/
def Bank.checkSelf (b : Bank) (address : Nat) : Option CommitFailure :=
  if address = 0 then none
  else
    (b.faces.find? fun kf =>
      ((b.upstream kf.1 kf.2).toList ++ (b.downstream kf.1 kf.2).toList).any
        fun r => r.address.toNat == address).map
      fun kf => ⟨.neighbourSelf, 2, kf.1.val⟩

/-- NO_LANES (R18). -/
def Bank.checkLanes (b : Bank) : Option CommitFailure :=
  if allLanes.all fun k => b.laneKind k == .absent then some ⟨.noLanes, 2, 0⟩ else none

/-! ## Steps 9 and 10: the plan checks (R67 to R71) -/

/-- A table code of a permissive aspect. -/
def permissiveCode (c : Nat) : Bool := inRange 1 3 c

/-- PLAN_FACE fails for plan `p` (R68). -/
def Bank.planFaceFails (b : Bank) (p : Nat) : Bool :=
  allFaces.any fun kf =>
    if b.facePresent kf.1 kf.2 then b.planCode p kf.1 kf.2 == 0 else b.planCode p kf.1 kf.2 != 0

/-- PLAN_NOT_FITTED fails (R68). -/
def Bank.planFittedFails (b : Bank) (p : Nat) : Bool :=
  b.faces.any fun kf =>
    match Aspect.ofCode (b.planCode p kf.1 kf.2) with
    | some a => !b.fitted (b.faceHead kf.1 kf.2) a
    | none => false

/-- PLAN_TIDAL_CONFLICT fails (R69). -/
def Bank.planTidalFails (b : Bank) (p : Nat) : Bool :=
  allLanes.any fun k =>
    b.tidal k && permissiveCode (b.planCode p k .asc) && permissiveCode (b.planCode p k .desc)

/-- The lane a merge code points to from lane `k` of a face; none outside 0..3 (R2, R70). -/
def mergeLane (k : Fin 4) (f : Face) (code : Nat) : Option (Fin 4) :=
  let up := if k.val < 3 then some (Fin.ofNat 4 (k.val + 1)) else none
  let down := if 0 < k.val then some (Fin.ofNat 4 (k.val - 1)) else none
  match f with
  | .asc => if code = 2 then down else up
  | .desc => if code = 2 then up else down

/-- PLAN_MERGE_TARGET fails (R70). -/
def Bank.planMergeFails (b : Bank) (p : Nat) : Bool :=
  b.faces.any fun kf =>
    let code := b.planCode p kf.1 kf.2
    if inRange 2 3 code then
      match mergeLane kf.1 kf.2 code with
      | none => true
      | some j => !(b.facePresent j kf.2 && permissiveCode (b.planCode p j kf.2))
    else false

/-- The four checks of one defined plan, in order (R67). -/
def Bank.checkPlan (b : Bank) (p : Nat) : Option CommitFailure :=
  if !b.planDefined p then none
  else if b.planFaceFails p then some ⟨.planFace, 4, p - 1⟩
  else if b.planFittedFails p then some ⟨.planNotFitted, 4, p - 1⟩
  else if b.planTidalFails p then some ⟨.planTidalConflict, 4, p - 1⟩
  else if b.planMergeFails p then some ⟨.planMergeTarget, 4, p - 1⟩
  else none

/-- Every plan in record index order. -/
def Bank.checkPlans (b : Bank) : Option CommitFailure :=
  firstFailure ((List.range 64).map fun i => b.checkPlan (i + 1))

/-- FALLBACK_PLAN (R71). -/
def Bank.checkFallback (b : Bank) : Option CommitFailure :=
  let p := b.fallbackPolicy
  if p = 0 then none
  else if !b.planDefined p || allFaces.any (fun kf => b.planCode p kf.1 kf.2 == 1) then
    some ⟨.fallbackPlan, 5, 0⟩
  else none

/-! ## Step 11: COMMISSIONING_IN_SERVICE (R62) -/

/-- The first of `n` records that differ, from index `i` on. -/
def firstDifference (x y : List (List Byte)) (i : Nat) : Nat → Option Nat
  | 0 => none
  | n + 1 =>
    if x.getD i [] = y.getD i [] then firstDifference x y (i + 1) n else some i

/-- The first record of a table that differs between two banks. -/
def tableDifference (a b : Bank) (t : Table) : Option (Table × Nat) :=
  (firstDifference (a.rows t) (b.rows t) 0 t.records).map fun i => (t, i)

/-- The first commissioning record that differs, in table order then index order. -/
def commissioningDifference (a b : Bank) : Option (Table × Nat) :=
  ((tableDifference a b .node).or (tableDifference a b .lanes)).or (tableDifference a b .heads)

/-- COMMISSIONING_IN_SERVICE: the mode counted is the mode at completion. -/
def checkInService (mode : Mode) (active shadow : Bank) : Option CommitFailure :=
  if mode = .inService ∨ mode = .fallback then
    (commissioningDifference active shadow).map
      fun ti => ⟨.commissioningInService, ti.1.id, ti.2⟩
  else none

/-- The eleven steps of R61 in order, over SHADOW, the address, the mode and ACTIVE as they stand. -/
def State.commitFailure (s : State) : Option CommitFailure :=
  let b := s.store.shadow
  firstFailure
    [b.checkUnset, b.checkLaneHeads b.faces [], b.checkFitted, b.checkShared b.existing [],
      b.checkOverlap, b.checkEssential, b.checkSelf s.line.address, b.checkLanes, b.checkPlans,
      b.checkFallback, checkInService s.node.mode s.store.active b]

/-! ## The completion (R63 to R65) -/

/-- The heads across a commit that changes the HEADS table: lamp tests dropped, alternate flags
cleared (R63, step 6). -/
def Head.afterHeadsChange (hd : Head) : Head :=
  (if hd.test.isSome then hd.darken else hd).clearAlts

/-- The gantry under the new bank (R63, step 6). Where R63 keeps the counters and R149 zeroes those of a
channel that becomes unlit, the channels of a dropped lamp test follow R149 (log 32). The conflict count
of a lane whose kind changes stands until the next sample (log 35). -/
def Gantry.commit (g : Gantry) (old new : Bank) : Gantry :=
  g.relight old new (fun _ => false)
    (if old.heads = new.heads then g.heads
     else Vector.ofFn fun h : Fin 8 => g.heads[h].afterHeadsChange)

/-- Every lit channel that ramps takes a step toward its target; the count restarts, or the timer goes
idle (R142). -/
def Channel.slewMove (ch : Channel) (step : Nat) : Channel :=
  { ch with
    output :=
      if ch.output + step < ch.target then ch.output + step
      else if ch.target + step < ch.output then ch.output - step
      else ch.target }

/-- A slew tick (R142). -/
def Gantry.slewTick (g : Gantry) (b : Bank) : Gantry :=
  let lit := b.litChannels g.heads
  let channels := Vector.ofFn fun c : Fin 32 =>
    if lit.contains c then g.channels[c].slewMove b.slewStep else g.channels[c]
  { g with channels := channels, slew := slewAfter lit channels none }

/-- The slew timer runs and has reached the slew tick. -/
def State.slewDue (s : State) : Bool :=
  match s.gantry.slew with
  | none => false
  | some n => s.store.active.slewTickMs ≤ n

/-- A slew tick of the node. -/
def State.slewTick (s : State) : State :=
  { s with gantry := s.gantry.slewTick s.store.active }

/-- The pending plan cleared when it is not defined in ACTIVE (R63, step 3). -/
def TakeUnit.dropUndefined (t : TakeUnit) (b : Bank) : TakeUnit :=
  match t.pendingPlan with
  | none => t
  | some p => if b.planDefined p then t else { t with pendingPlan := none }

/-- Steps 1 to 3 and 6 of a successful completion: banks, flags, mode, pending plan, lamp tests and
alternate flags. -/
def State.activate (s : State) : State :=
  { s with
    store := { s.store with
      active := s.store.shadow, validating := false, commitAge := 0, lastResult := .ok
      lastTable := 0, lastIndex := 0 }
    node := { s.node with
      tablesValid := true
      mode := if s.node.mode = .unconfigured then .outOfService else s.node.mode }
    take := s.take.dropUndefined s.store.shadow
    gantry := s.gantry.commit s.store.active s.store.shadow }

/-- The completions of timers that the new values bring, in the order of R64's table. In a hold a timer of
the sequencer completes only where the commit lowers its interval (R102): at the commit, as R64, R102 and
R107 say, where R105 says at the RELEASE (log 38). -/
def State.dueAtCommit (s : State) (old : Bank) : State :=
  let s1 := if s.node.hold then s.dueLowered old else s.dueSequencer
  let s2 := if s1.watchdogDue then s1.watchdogExpire else s1
  if s2.slewDue then s2.slewTick else s2

/-- A commit whose result is OK (R63). A watchdog that expires at it can change a head's displayed aspect
once more (log 34). -/
def State.commitOk (s : State) : State :=
  let s1 := (s.activate.seq Env.raisedClearances).rebuildNeighbours
  let s2 := (s1.seq Env.retestExisting).retarget
  (s2.post .commitDone).dueAtCommit s.store.active

/-- A commit whose result is not OK (R65). -/
def State.commitFailed (s : State) (f : CommitFailure) : State :=
  { s with
    store := { s.store with
      validating := false, commitAge := 0, lastResult := f.result, lastTable := f.table
      lastIndex := f.index } }.postDetail (.commitFailed f.result) f.table f.index

/-- The completion of the commit in flight (R61). -/
def State.commitComplete (s : State) : State :=
  match s.commitFailure with
  | none => s.commitOk
  | some f => s.commitFailed f

end Sys2Proof.Machine
end

