-- ==== Sys2Proof/Machine/TableOrders.lean ====
section
/-! DEFINITION. The orders of the Table Store (chapter 4) and the commit completion. -/

namespace Sys2Proof.Machine

/-- Body length 3 + count × record size; outside ids 1..8 at least 3 (R41). -/
def tableWriteLength (body : List Byte) : Bool :=
  3 ≤ body.length &&
    match Table.ofId (natAt body 0) with
    | some t => body.length == 3 + natAt body 2 * t.size
    | none => true

/-- TABLE_WRITE of a commissioning table needs COMMISSION authority. -/
def tableWriteCommission (body : List Byte) : Bool :=
  match Table.ofId (natAt body 0) with
  | some t => t.commissioning
  | none => false

/-- The write of some records: the bank after, how many were written, and the cause of the stop, if
any (R58). -/
structure WriteResult where
  bank : Bank
  written : Nat
  cause : Option Nat
deriving DecidableEq, Repr

/-- `count` records taken in body order from index `index` on; each is written whole or not at all
(R58). -/
def writeRecords (t : Table) : Nat → Nat → List Byte → Bank → Nat → WriteResult
  | 0, _, _, b, written => ⟨b, written, none⟩
  | count + 1, index, data, b, written =>
    if t.records ≤ index then ⟨b, written, some 2⟩
    else if t.recordOk (data.take t.size) then
      writeRecords t count (index + 1) (data.drop t.size) (b.write t index (data.take t.size))
        (written + 1)
    else ⟨b, written, some 3⟩

/-- SHADOW replaced. -/
def State.setShadow (s : State) (b : Bank) : State := { s with store := { s.store with shadow := b } }

/-- TABLE_WRITE carried out (R58). -/
def actTableWrite (o : Order) (s : State) : Answer :=
  match Table.ofId (natAt o.body 0) with
  | none => ⟨.outOfRange, [0#8, byteAt o.body 1, 1#8], s⟩
  | some t =>
    let r := writeRecords t (natAt o.body 2) (natAt o.body 1) (o.body.drop 3) s.store.shadow 0
    match r.cause with
    | none => .done (s.setShadow r.bank) [byteOf r.written]
    | some cause =>
      ⟨.outOfRange, [byteOf r.written, byteOf (natAt o.body 1 + r.written), byteOf cause],
        s.setShadow r.bank⟩

def tableWriteSpec : OrderSpec :=
  { addressedOrder 0x10#8 tableWriteLength tableWriteCommission anyMode actTableWrite with
    busyChecked := true }

/-- TABLE_WRITE (R58). -/
def execTableWrite (o : Order) (s : State) : Host.Outcome State Fault Refusal :=
  tableWriteSpec.run o s

/-- The bank a TABLE_READ names. -/
def State.bank (s : State) (n : Nat) : Bank := if n = 0 then s.store.active else s.store.shadow

/-- How many records a TABLE_READ returns (R59). -/
def readCount (t : Table) (first count : Nat) : Nat :=
  min (min count (t.records - first)) (239 / t.size)

/-- The records returned: as they stand, or zeros for a commissioning table without honoured
COMMISSION (R59). -/
def readRecords (b : Bank) (t : Table) (first n : Nat) (shown : Bool) : List Byte :=
  (List.range n).flatMap fun i =>
    if shown then b.row t (first + i) else List.replicate t.size 0#8

/-- TABLE_READ carried out (R59). -/
def actTableRead (o : Order) (s : State) : Answer :=
  let first := natAt o.body 2
  match Table.ofId (natAt o.body 0) with
  | none => .refuse s .outOfRange
  | some t =>
    if 1 < natAt o.body 1 ∨ t.records ≤ first then .refuse s .outOfRange
    else
      let n := readCount t first (natAt o.body 3)
      .done s (byteOf n ::
        readRecords (s.bank (natAt o.body 1)) t first n
          (!t.commissioning || commissionHonoured o))

def tableReadSpec : OrderSpec :=
  addressedOrder 0x11#8 (lengthIs 4) operate anyMode actTableRead

/-- TABLE_READ (R59). -/
def execTableRead (o : Order) (s : State) : Host.Outcome State Fault Refusal := tableReadSpec.run o s

/-- COMMIT_TABLES carried out (R60): VALIDATING from this moment. -/
def actCommitTables (_ : Order) (s : State) : Answer :=
  ⟨.started, [], { s with store := { s.store with validating := true, commitAge := 0 } }⟩

def commitTablesSpec : OrderSpec :=
  { addressedOrder 0x12#8 (lengthIs 0) operate anyMode actCommitTables with busyChecked := true }

/-- COMMIT_TABLES (R60). -/
def execCommitTables (o : Order) (s : State) : Host.Outcome State Fault Refusal :=
  commitTablesSpec.run o s

/-- DISCARD_SHADOW carried out (R65): SHADOW is ACTIVE again, and a commit in flight is aborted. -/
def actDiscardShadow (_ : Order) (s : State) : Answer :=
  if s.store.validating then
    .done { s with
      store := { s.store with
        shadow := s.store.active, validating := false, commitAge := 0, lastResult := .aborted
        lastTable := 0, lastIndex := 0 } } [1#8]
  else .done (s.setShadow s.store.active) [0#8]

def discardShadowSpec : OrderSpec :=
  addressedOrder 0x13#8 (lengthIs 0) operate anyMode actDiscardShadow

/-- DISCARD_SHADOW (R65). -/
def execDiscardShadow (o : Order) (s : State) : Host.Outcome State Fault Refusal :=
  discardShadowSpec.run o s

/-- COMMIT_COMPLETION (R61): it occurs while a commit is in flight. -/
def execCommitCompletion (s : State) : Host.Outcome State Fault Refusal :=
  live s fun s => if s.store.validating then s.commitComplete else s

end Sys2Proof.Machine
end

