-- ==== Sys2Proof/Machine/Takes.lean ====
section
/-! DEFINITION. The orders of the Take Unit (chapter 5): STAGE, TAKE, TAKE_AT, CANCEL_TAKES. -/

namespace Sys2Proof.Machine

/-- The pending plan set. -/
def State.setPending (s : State) (p : Option Nat) : State :=
  { s with take := { s.take with pendingPlan := p } }

/-- STAGE addressed (R72). -/
def actStage (o : Order) (s : State) : Answer :=
  let p := natAt o.body 0
  if !inRange 1 64 p then .refuse s .outOfRange
  else if s.store.active.planDefined p then .done (s.setPending (some p)) []
  else .refuse s .unknownPlan

/-- STAGE from a group or broadcast destination: an undefined plan clears the pending plan (R72). -/
def groupStage (o : Order) (s : State) : State :=
  let p := natAt o.body 0
  if !inRange 1 64 p then s
  else if s.store.active.planDefined p then s.setPending (some p)
  else (s.setPending none).post (.planUnknown p)

def stageSpec : OrderSpec where
  code := 0x20#8
  lengthOk := lengthIs 1
  commission := operate
  modeOk := inServiceOrFallback
  busyChecked := false
  group := true
  act := actStage
  actGroup := groupStage
  wrongModeGroup := fun s => s

/-- STAGE (R72). -/
def execStage (o : Order) (s : State) : Host.Outcome State Fault Refusal := stageSpec.run o s

/-- TAKE addressed (R74): the pending plan is taken and cleared; the content is the plan. -/
def actTake (_ : Order) (s : State) : Answer :=
  match s.take.pendingPlan with
  | none => .refuse s .nothingStaged
  | some p => .done ((s.takePlan p).setPending none) [byteOf p]

/-- TAKE from a group or broadcast destination (R74). -/
def groupTake (_ : Order) (s : State) : State :=
  match s.take.pendingPlan with
  | none => s.post .takeWithoutStage
  | some p => (s.takePlan p).setPending none

/-- TAKE is accepted in IN_SERVICE, and in FALLBACK while the stream is present (R41). -/
def takeMode (s : State) : Bool :=
  s.node.mode == .inService || (s.node.mode == .fallback && s.watchdog.stream)

def takeSpec : OrderSpec where
  code := 0x21#8
  lengthOk := lengthIs 0
  commission := operate
  modeOk := takeMode
  busyChecked := false
  group := true
  act := actTake
  actGroup := groupTake
  wrongModeGroup := fun s => if s.node.mode = .fallback then s.post .takeWithoutStage else s

/-- TAKE (R74). -/
def execTake (o : Order) (s : State) : Host.Outcome State Fault Refusal := takeSpec.run o s

/-- The time remaining of a due time (R77). -/
def remaining (due clock : Clock) : Nat := (due - clock).toNat

/-- An entry put at its place in ascending order of time remaining (R77). -/
def insertEntry (clock : Clock) (e : ScheduleEntry) : List ScheduleEntry → List ScheduleEntry
  | [] => [e]
  | x :: rest =>
    if remaining e.due clock < remaining x.due clock then e :: x :: rest
    else x :: insertEntry clock e rest

/-- The due time stands in the list. -/
def State.scheduled (s : State) (due : Clock) : Bool := s.take.schedule.any fun e => e.due == due

/-- The schedule with the pending plan `p` at due time `due`; pending plan and schedule-full flag
cleared (R78, steps 3 and 5). -/
def State.scheduleTake (s : State) (due : Clock) (p : Nat) : State :=
  { s with
    take := { s.take with
      pendingPlan := none
      scheduleFull := false
      schedule :=
        if s.scheduled due then
          s.take.schedule.map fun e => if e.due = due then ⟨due, p⟩ else e
        else insertEntry s.take.clock ⟨due, p⟩ s.take.schedule } }

/-- The checks of TAKE_AT in order, once a plan is pending: the status that stops it, if any
(R78). -/
def State.takeAtCheck (s : State) (due : Clock) : Option Status :=
  let d := remaining due s.take.clock
  if d = 0 ∨ 2 ^ 31 ≤ d then some .tooLate
  else if 86400000 < d then some .outOfRange
  else if !s.scheduled due && 4 ≤ s.take.schedule.length then some .scheduleFull
  else none

/-- TAKE_AT addressed (R78): the content is the number of entries and the time remaining. -/
def actTakeAt (o : Order) (s : State) : Answer :=
  let due := clockAt o.body 0
  match s.take.pendingPlan with
  | none => .refuse s .nothingStaged
  | some p =>
    match s.takeAtCheck due with
    | some st => .refuse s st
    | none =>
      let t := s.scheduleTake due p
      .done t (byteOf t.take.schedule.length :: be32 (due - s.take.clock))

/-- TAKE_AT from a group or broadcast destination (R78): a full schedule sets the schedule-full
flag. -/
def groupTakeAt (o : Order) (s : State) : State :=
  let due := clockAt o.body 0
  match s.take.pendingPlan with
  | none => s.post .takeWithoutStage
  | some p =>
    match s.takeAtCheck due with
    | some .scheduleFull =>
      { s with take := { s.take with scheduleFull := true } }.post .scheduleFull
    | some _ => s
    | none => s.scheduleTake due p

def takeAtSpec : OrderSpec where
  code := 0x22#8
  lengthOk := lengthIs 4
  commission := operate
  modeOk := inServiceOrFallback
  busyChecked := false
  group := true
  act := actTakeAt
  actGroup := groupTakeAt
  wrongModeGroup := fun s => s

/-- TAKE_AT (R78). -/
def execTakeAt (o : Order) (s : State) : Host.Outcome State Fault Refusal := takeAtSpec.run o s

/-- The schedule after CANCEL_TAKES, when it is carried out (R81): without every entry, or without the
entry of the due time. -/
def State.cancelled (s : State) (body : List Byte) : Option (List ScheduleEntry) :=
  if body.length = 0 then some []
  else if s.scheduled (clockAt body 0) then
    some (s.take.schedule.filter fun e => e.due != clockAt body 0)
  else none

/-- The schedule left by CANCEL_TAKES, with the schedule-full flag cleared. -/
def State.withSchedule (s : State) (l : List ScheduleEntry) : State :=
  { s with take := { s.take with schedule := l, scheduleFull := false } }

/-- CANCEL_TAKES addressed (R81): the content is the number of entries removed. -/
def actCancelTakes (o : Order) (s : State) : Answer :=
  match s.cancelled o.body with
  | none => .refuse s .noSuchEntry
  | some l => .done (s.withSchedule l) [byteOf (s.take.schedule.length - l.length)]

/-- CANCEL_TAKES from a group or broadcast destination (R81). -/
def groupCancelTakes (o : Order) (s : State) : State :=
  match s.cancelled o.body with
  | none => s
  | some l => s.withSchedule l

def cancelTakesSpec : OrderSpec where
  code := 0x23#8
  lengthOk := fun body => lengthIs 0 body || lengthIs 4 body
  commission := operate
  modeOk := inServiceOrFallback
  busyChecked := false
  group := true
  act := actCancelTakes
  actGroup := groupCancelTakes
  wrongModeGroup := fun s => s

/-- CANCEL_TAKES (R81). -/
def execCancelTakes (o : Order) (s : State) : Host.Outcome State Fault Refusal :=
  cancelTakesSpec.run o s

end Sys2Proof.Machine
end

