-- ==== Sys2Proof/Machine/LampProving.lean ====
section
/-! DEFINITION. The sample event (chapter 10): channels judged, heads judged and switched, the Conflict
Monitor. -/

namespace Sys2Proof.Machine

/-- The proving floor (R151). -/
def provingFloor : Nat := 64

/-- A channel judged, with the event it posts if any. -/
structure Judged where
  channel : Channel
  event : Option EventKind
deriving DecidableEq, Repr

/-- The reference one tracking step on: a sixteenth of the deviation, truncated (R150). -/
def trackReference (ref q : Nat) : Nat :=
  (clampInt ((ref : Int) + ((q : Int) - ref).tdiv 16) 512 1536).toNat

/-- The measured ratio (R150). -/
def ratio (m output : Nat) : Nat := min (m * 1024 / output) 2047

/-- The deviation of a ratio from a reference. -/
def deviation (q ref : Nat) : Nat := ((q : Int) - ref).natAbs

/-- A measured channel judged by its deviation (R150). -/
def Channel.measure (ch : Channel) (b : Bank) (c : Fin 32) : Judged :=
  let q := ratio ch.lastM ch.output
  let dev := deviation q ch.ref
  if dev ≤ b.trackBand then ⟨{ ch with ref := trackReference ch.ref q, fault := 0, state := .ok }, none⟩
  else if dev ≤ b.faultBand then
    ⟨{ ch with fault := 0, state := .drift },
      if ch.state = .ok then some (.lampDrift c) else none⟩
  else if b.faultDelay ≤ ch.fault + 1 then
    ⟨{ ch with state := .failed, kind := .current, fault := 0 }, some (.lampFailed c)⟩
  else ⟨{ ch with fault := ch.fault + 1 }, none⟩

/-- A lit channel at a sample (R149 to R151). -/
def Channel.judgeLit (ch : Channel) (b : Bank) (c : Fin 32) : Judged :=
  if ch.settle < 2 then ⟨{ ch with settle := ch.settle + 1 }, none⟩
  else if ch.state = .failed ∨ ch.output < provingFloor then ⟨ch, none⟩
  else ch.measure b c

/-- An unlit channel at a sample (R152). -/
def Channel.judgeUnlit (ch : Channel) (b : Bank) (c : Fin 32) : Judged :=
  if ch.state = .failed then ⟨ch, none⟩
  else if ch.lastM < provingFloor then ⟨{ ch with stuck := 0 }, none⟩
  else if b.faultDelay ≤ ch.stuck + 1 then
    ⟨{ ch with state := .failed, kind := .stuckOn, stuck := 0 }, some (.lampStuckOn c)⟩
  else ⟨{ ch with stuck := ch.stuck + 1 }, none⟩

/-- The code measured on a channel, 0..4095. -/
def sense (m : List Nat) (c : Fin 32) : Nat := min (m.getD c.val 0) 4095

/-- Steps 1 and 2 for one channel. -/
def Gantry.judge (g : Gantry) (b : Bank) (m : List Nat) (c : Fin 32) : Judged :=
  let ch := { g.channels[c] with lastM := sense m c }
  if (b.litChannels g.heads).contains c then ch.judgeLit b c else ch.judgeUnlit b c

/-- Steps 1 to 3: every channel judged, then every existing head. -/
def Gantry.judged (g : Gantry) (b : Bank) (m : List Nat) : Gantry :=
  let channels := Vector.ofFn fun c : Fin 32 => (g.judge b m c).channel
  { g with
    channels := channels
    heads := Vector.ofFn fun h : Fin 8 =>
      if b.headExists h then
        { g.heads[h] with proving := provingOf (b.shownPattern h g.heads[h]) channels }
      else g.heads[h] }

/-- The heads that have become FAILED at this event. -/
def newlyFailed (b : Bank) (before after : Gantry) : List (Fin 8) :=
  b.existing.filter fun h =>
    after.heads[h].proving == .failed && before.heads[h].proving != .failed

/-- The aspect on which a FAILED head is switched to its alternate: it shows the primary, has an
alternate, and is under no lamp test (R154). -/
def Bank.switchAspect (b : Bank) (h : Fin 8) (hd : Head) : Option Aspect :=
  match hd.test, hd.shown with
  | none, some (a, .primary) => if (b.pattern h a .alternate).isEmpty then none else some a
  | _, _ => none

/-- Step 4: the heads in `failed` that can be switched are (R154). -/
def Gantry.switchAlternates (g : Gantry) (b : Bank) (failed : List (Fin 8)) : Gantry :=
  g.relight b b (fun _ => false)
    (Vector.ofFn fun h : Fin 8 =>
      match b.switchAspect h g.heads[h] with
      | some a => if failed.contains h then g.heads[h].setAlt a else g.heads[h]
      | none => g.heads[h])

/-- The event of step 4 for a head that has become FAILED. -/
def Bank.failedEvent (b : Bank) (g : Gantry) (h : Fin 8) : EventKind :=
  match b.switchAspect h g.heads[h] with
  | some a => .alternateInUse h a
  | none => .headFailed h

/-- A face is lit-permissive: a channel of its head's permissive set has current (R160). -/
def Bank.litPermissive (b : Bank) (m : List Nat) (k : Fin 4) (f : Face) : Bool :=
  (b.permissiveChannels (b.faceHead k f)).any fun c => provingFloor ≤ sense m c

/-- The conflict count of a lane after step 5; lanes that are not TIDAL have none. -/
def Bank.conflictCount (b : Bank) (m : List Nat) (k : Fin 4) (count : Nat) : Nat :=
  if b.tidal k && b.litPermissive m k .asc && b.litPermissive m k .desc then min 2 (count + 1)
  else 0

/-- Step 5: every lane judged. -/
def Gantry.judgeConflicts (g : Gantry) (b : Bank) (m : List Nat) : Gantry :=
  { g with
    lanes := Vector.ofFn fun k : Fin 4 =>
      { g.lanes[k] with conflictCount := b.conflictCount m k g.lanes[k].conflictCount } }

/-- The lanes whose conflict count has reached 2. -/
def Gantry.tripped (g : Gantry) : List (Fin 4) :=
  allLanes.filter fun k => 2 ≤ g.lanes[k].conflictCount

/-- The events of a sample in the order of step 6 but for CONFLICT_LOCKOUT: channels, then heads. -/
def sampleEvents (b : Bank) (m : List Nat) (before after : Gantry) : List EventKind :=
  allChannels.filterMap (fun c => (before.judge b m c).event)
    ++ (newlyFailed b before after).map (b.failedEvent after)

/-- Lamp sampling runs (R35, R148). -/
def Mode.samples : Mode → Bool
  | .outOfService | .inService | .fallback => true
  | .unconfigured | .lockout => false

/-- The sample event (R148): a trip found leads to LOCKOUT at its end, else the heads opposite to a
changed proving state re-test. -/
def State.sample (s : State) (m : List Nat) : State :=
  if !s.node.mode.samples then s
  else
    let b := s.store.active
    let g1 := s.gantry.judged b m
    let g2 := (g1.switchAlternates b (newlyFailed b s.gantry g1)).judgeConflicts b m
    let s1 := ({ s with gantry := g2 }.postAll (sampleEvents b m s.gantry g1)).postAll
      (g2.tripped.map EventKind.conflictLockout)
    if g2.tripped.isEmpty then s1.seq fun e g => e.retestOpposites s.gantry g else s1.lockout

end Sys2Proof.Machine
end

