-- ==== Sys2Proof/Machine/Timers.lean ====
section
/-! DEFINITION. The passing of local time with the events that fall due on the way, the node's own timed
events, and one millisecond in which no command comes. -/

namespace Sys2Proof.Machine

/-! ## What is due -/

/-- A fresh record whose age has reached the stale limit (R120). -/
def State.expires (s : State) (n : Neighbour) : Bool :=
  n.fresh &&
    match n.lastRefresh with
    | none => false
    | some t => t + s.store.active.staleMs ≤ s.now

/-- The record of a pair goes stale, and the heads that reference it re-test (R120). -/
def State.goStale (s : State) (n : Neighbour) : State :=
  { s with
    sweep := { s.sweep with
      records := s.sweep.records.map fun (r : Neighbour) =>
        if r.address = n.address ∧ r.head = n.head then { r with fresh := false } else r } }.seq
    fun e => e.retestAll (e.bank.existing.filter fun h => e.bank.refersTo h n)

/-- The moment of a temperature reading: every 1000 ms (R144, log 21). -/
def State.atReading (s : State) : State := { s with lamp := { s.lamp with sinceReading := 0 } }

/-- The moment of a lamp sample: every 100 ms (R148, log 21). -/
def State.atSample (s : State) : State := { s with lamp := { s.lamp with sinceSample := 0 } }

/-- The commit completes at the end of its 20 ms (R60, log 25). -/
def State.dueCommit (s : State) : State :=
  if s.store.validating && 20 ≤ s.store.commitAge then s.commitComplete else s

/-- The watchdog expires when its interval is up. -/
def State.dueWatchdog (s : State) : State := if s.watchdogDue then s.watchdogExpire else s

/-- The sequencer's timers complete when they are due, in unheld time. -/
def State.dueUnheld (s : State) : State := if s.node.hold then s else s.dueSequencer

/-- The records whose stale limit is up go stale. -/
def State.dueStales (s : State) : State := (s.sweep.records.filter s.expires).foldl State.goStale s

/-- The slew tick when it is due. -/
def State.dueSlew (s : State) : State := if s.slewDue then s.slewTick else s

/-- The temperature reading when its second is up. -/
def State.dueReading (s : State) : State :=
  if 1000 ≤ s.lamp.sinceReading then
    s.nextRead.atReading.readTemperature (Config.dieInput s.inputReads)
  else s

/-- The lamp sample when its 100 ms are up. -/
def State.dueSample (s : State) : State :=
  if 100 ≤ s.lamp.sinceSample then
    s.nextRead.atSample.sample
      (allChannels.map fun c => Config.senseInput s.inputReads c.val)
  else s

/-- Every event that is due at this moment, in this order (log 1). -/
def State.due (s : State) : State :=
  (s.dueRestart.dueCommit.dueWatchdog.dueUnheld.dueStales.dueSlew).dueTest.dueReading.dueSample

/-! ## The passing of time (spec 00, Time; log 2) -/

/-- The time until an entry of the schedule is due. -/
def State.untilEntry (s : State) (e : ScheduleEntry) : Nat :=
  if e.isDue s.take.clock then 0 else (e.due - s.take.clock).toNat

/-- The times until the sequencer's timers that run complete, in unheld time. -/
def State.untilSequencer (s : State) : List Nat :=
  if s.node.hold then []
  else
    let b := s.store.active
    ((allHeads.filter fun h => b.headExists h && s.gantry.heads[h].stage == some .merging).map
        fun h => b.dwellMs - s.gantry.heads[h].mergeServed)
      ++ ((allLanes.filter fun k =>
          b.tidal k && s.gantry.lanes[k].clearSince.isSome && !s.gantry.lanes[k].clear).map
        fun k => b.clearanceMs k - s.gantry.lanes[k].clearCount)
      ++ ((allHeads.filter fun h =>
          b.headExists h && s.gantry.heads[h].waiting && !s.gantry.heads[h].stalled).map
        fun h => b.stallMs - s.gantry.heads[h].waitTime)

/-- The times until each timer that runs falls due. -/
def State.untilTimers (s : State) : List Nat :=
  (if s.restartIsDue then [0] else [])
    ++ (if s.store.validating then [20 - s.store.commitAge] else [])
    ++ (if s.watchdog.armed then
          s.watchdog.start.toList.map fun t => t + s.store.active.watchdogMs - s.now
        else [])
    ++ s.untilSequencer
    ++ ((s.sweep.records.filter Neighbour.fresh).flatMap fun n =>
        n.lastRefresh.toList.map fun t => t + s.store.active.staleMs - s.now)
    ++ (s.gantry.slew.toList.map fun n => s.store.active.slewTickMs - n)
    ++ (s.take.schedule.map s.untilEntry)
    ++ [1000 - s.lamp.sinceReading]

/-- The time until the next timed event of the node. -/
def State.untilNext (s : State) : Nat := s.untilTimers.foldr min (100 - s.lamp.sinceSample)

/-- The node before time goes on: what is due at this moment is carried out. -/
def State.settled (s : State) : State := if s.untilNext = 0 then s.due else s

/-- `n` ms of local time pass, in stretches in each of which no timer falls due before its end; what is
due at the end of a stretch is carried out before the next, and what is due at the end of the last is
left for its own command or for the time that follows; a timed command tests the schedule there. -/
def State.run : Nat → Nat → State → State
  | 0, _, s => s
  | fuel + 1, n, s =>
    let t := s.settled
    let m := max 1 t.untilNext
    if n ≤ m then t.elapse n else State.run fuel (n - m) (t.elapse m)

/-- The node `n` ms later. -/
def State.reach (s : State) (n : Nat) : State := if n = 0 then s else s.run n n

/-! ## The timed events -/

/-- A timed command: local time comes to its moment, its event is carried out, and the schedule is tested
at the clock then reached (R79). A firing at that moment comes after the event, and before whatever
command follows (log 33). -/
def State.timed (s : State) (n : Nat) (event : State → State) : State :=
  (event (s.reach n)).dueTest

/-- WATCHDOG_EXPIRY (R126): the armed watchdog's count reaches the interval. -/
def execWatchdogExpiry (s : State) : Host.Outcome State Fault Refusal :=
  live s fun s =>
    match s.watchdog.armed, s.watchdog.start with
    | true, some t => s.timed (t + s.store.active.watchdogMs - s.now) State.dueWatchdog
    | _, _ => s

/-- MERGE_DWELL_COMPLETION (R94): of a head in MERGING, in unheld time. -/
def execMergeDwellCompletion (h : Fin 8) (s : State) : Host.Outcome State Fault Refusal :=
  live s fun s =>
    if s.store.active.headExists h && s.gantry.heads[h].stage == some .merging && !s.node.hold then
      s.timed (s.store.active.dwellMs - s.gantry.heads[h].mergeServed) fun u =>
        if !u.node.hold && u.env.dwellDue h u.gantry then u.seq fun e => e.dwellComplete h else u
    else s

/-- CLEARANCE_COMPLETION (R89): of a TIDAL lane whose clearance runs, in unheld time. -/
def execClearanceCompletion (k : Fin 4) (s : State) : Host.Outcome State Fault Refusal :=
  live s fun s =>
    if s.store.active.tidal k && s.gantry.lanes[k].clearSince.isSome && !s.gantry.lanes[k].clear
        && !s.node.hold then
      s.timed (s.store.active.clearanceMs k - s.gantry.lanes[k].clearCount) fun u =>
        if !u.node.hold && u.env.clearanceDue k u.gantry then u.seq fun e => e.clearanceComplete k
        else u
    else s

/-- STALL_TIMEOUT (R101): of a waiting head, once for each wait, in unheld time. -/
def execStallTimeout (h : Fin 8) (s : State) : Host.Outcome State Fault Refusal :=
  live s fun s =>
    if s.store.active.headExists h && s.gantry.heads[h].waiting && !s.gantry.heads[h].stalled
        && !s.node.hold then
      s.timed (s.store.active.stallMs - s.gantry.heads[h].waitTime) fun u =>
        if !u.node.hold && u.env.stallDue h u.gantry then u.stallHead h else u
    else s

/-- STALE_EXPIRY (R120): of a fresh record. -/
def execStaleExpiry (address : Byte) (head : Fin 8) (s : State) :
    Host.Outcome State Fault Refusal :=
  live s fun s =>
    match findRecord s.sweep.records ⟨address, head⟩ with
    | none => s
    | some n =>
      match n.fresh, n.lastRefresh with
      | true, some t =>
        s.timed (t + s.store.active.staleMs - s.now) fun u =>
          match findRecord u.sweep.records ⟨address, head⟩ with
          | none => u
          | some n => if u.expires n then u.goStale n else u
      | _, _ => s

/-- SLEW_TICK (R142): the running slew timer reaches the slew tick. -/
def execSlewTick (s : State) : Host.Outcome State Fault Refusal :=
  live s fun s =>
    match s.gantry.slew with
    | none => s
    | some n => s.timed (s.store.active.slewTickMs - n) State.dueSlew

/-- SCHEDULE_FIRING (R79, R80): the clock reaches the first entry's due time, and the due test. -/
def execScheduleFiring (s : State) : Host.Outcome State Fault Refusal :=
  live s fun s =>
    match s.take.schedule with
    | [] => s
    | e :: _ => s.timed (s.untilEntry e) id

/-- TEMPERATURE_SAMPLE (R144, R145): when the second is up. -/
def execTemperatureSample (reading : Int) (s : State) : Host.Outcome State Fault Refusal :=
  live s fun s =>
    s.timed (1000 - s.lamp.sinceReading) fun u =>
      if 1000 ≤ u.lamp.sinceReading then u.atReading.readTemperature reading else u

/-- SAMPLE_EVENT (R148): when the 100 ms are up. -/
def execSampleEvent (m : List Nat) (s : State) : Host.Outcome State Fault Refusal :=
  live s fun s =>
    s.timed (100 - s.lamp.sinceSample) fun u =>
      if 100 ≤ u.lamp.sinceSample then u.atSample.sample m else u

/-! ## A millisecond of local time (log 1) -/

/-- One millisecond in which no command comes, with what is due before it and at its end. -/
def State.tick (s : State) : State := if s.held then s else (s.reach 1).due

end Sys2Proof.Machine
end

