-- ==== Sys2Proof/Machine/Dispatch.lean ====
section
/-! DEFINITION. What each command does: one arm for each, in the table's order. -/

namespace Sys2Proof.Machine

/-- The effect of a command on everything but the queue. -/
def exec (i : Instr) (s : State) : Host.Outcome State Fault Refusal :=
  match i with
  | .powerOn p => Sys2Proof.Machine.execPowerOn p s
  | .resetN p => Sys2Proof.Machine.execResetN p s
  | .frameStart kind second => Sys2Proof.Machine.execFrameStart kind second s
  | .framingError => Sys2Proof.Machine.execFramingError s
  | .unknownFrame => Sys2Proof.Machine.execUnknownFrame s
  | .frameTruncation => Sys2Proof.Machine.execFrameTruncation s
  | .surplusBytes => Sys2Proof.Machine.execSurplusBytes s
  | .inIdleGap => Sys2Proof.Machine.execInIdleGap s
  | .badFcsFrameEnd frame => Sys2Proof.Machine.execBadFcsFrameEnd frame s
  | .sweep f => Sys2Proof.Machine.execSweep f s
  | .ownSlotWrite slotCount => Sys2Proof.Machine.execOwnSlotWrite slotCount s
  | .replyFrame f => Sys2Proof.Machine.execReplyFrame f s
  | .enumerate next flags => Sys2Proof.Machine.execEnumerate next flags s
  | .orderNotActedOn code o fcs => Sys2Proof.Machine.execOrderNotActedOn code o fcs s
  | .unknownOrder code o => Sys2Proof.Machine.execUnknownOrder code o s
  | .outGapElapsed => Sys2Proof.Machine.execOutGapElapsed s
  | .replyLeftOut => Sys2Proof.Machine.execReplyLeftOut s
  | .passThroughLeftOut => Sys2Proof.Machine.execPassThroughLeftOut s
  | .lineBreak => Sys2Proof.Machine.execLineBreak s
  | .lineReset => Sys2Proof.Machine.execLineReset s
  | .readNode o => Sys2Proof.Machine.execReadNode o s
  | .readLamps o => Sys2Proof.Machine.execReadLamps o s
  | .readEvents o => Sys2Proof.Machine.execReadEvents o s
  | .peekEvents o => Sys2Proof.Machine.execPeekEvents o s
  | .tableWrite o => Sys2Proof.Machine.execTableWrite o s
  | .tableRead o => Sys2Proof.Machine.execTableRead o s
  | .commitTables o => Sys2Proof.Machine.execCommitTables o s
  | .discardShadow o => Sys2Proof.Machine.execDiscardShadow o s
  | .commitCompletion => Sys2Proof.Machine.execCommitCompletion s
  | .stage o => Sys2Proof.Machine.execStage o s
  | .take o => Sys2Proof.Machine.execTake o s
  | .takeAt o => Sys2Proof.Machine.execTakeAt o s
  | .cancelTakes o => Sys2Proof.Machine.execCancelTakes o s
  | .scheduleFiring => Sys2Proof.Machine.execScheduleFiring s
  | .enterService o => Sys2Proof.Machine.execEnterService o s
  | .leaveService o => Sys2Proof.Machine.execLeaveService o s
  | .hold o => Sys2Proof.Machine.execHold o s
  | .stepHeads o => Sys2Proof.Machine.execStepHeads o s
  | .release o => Sys2Proof.Machine.execRelease o s
  | .lampTest o => Sys2Proof.Machine.execLampTest o s
  | .clearLampFault o => Sys2Proof.Machine.execClearLampFault o s
  | .relearn o => Sys2Proof.Machine.execRelearn o s
  | .restartKeepTables o => Sys2Proof.Machine.execRestartKeepTables o s
  | .restartFull o => Sys2Proof.Machine.execRestartFull o s
  | .keepTablesRestartEffect p => Sys2Proof.Machine.execKeepTablesRestartEffect p s
  | .fullRestartEffect p => Sys2Proof.Machine.execFullRestartEffect p s
  | .watchdogExpiry => Sys2Proof.Machine.execWatchdogExpiry s
  | .mergeDwellCompletion head => Sys2Proof.Machine.execMergeDwellCompletion head s
  | .clearanceCompletion lane => Sys2Proof.Machine.execClearanceCompletion lane s
  | .stallTimeout head => Sys2Proof.Machine.execStallTimeout head s
  | .staleExpiry address head => Sys2Proof.Machine.execStaleExpiry address head s
  | .slewTick => Sys2Proof.Machine.execSlewTick s
  | .temperatureSample reading => Sys2Proof.Machine.execTemperatureSample reading s
  | .sampleEvent m => Sys2Proof.Machine.execSampleEvent m s
  | .supplyLoss => Sys2Proof.Machine.execSupplyLoss s
  | .resetNAsserted => Sys2Proof.Machine.execResetNAsserted s
  | .orderForwardedOnly code o => Sys2Proof.Machine.execOrderForwardedOnly code o s

end Sys2Proof.Machine
end

