-- ==== Sys2Proof/WellFormed.lean ====
section
/-! DEFINITION. Which commands the outside can send: the operands a frame of the line or a sense input
can carry. The meanings are total and do not ask for this. -/

namespace Sys2Proof

/-- A body of at most 240 bytes: a longer one is a malformed header, an unknown frame (R20). -/
def Order.wf (o : Order) : Bool := o.body.length ≤ 240

/-- A slot count of 1..200 and slots of 12 bytes (R20). -/
def SweepFrame.wf (f : SweepFrame) : Bool :=
  1 ≤ f.slots.length && f.slots.length ≤ 200 && f.slots.all fun slot => slot.length == 12

/-- A REPLY body of 4..244 bytes (R20). -/
def ReplyFrame.wf (f : ReplyFrame) : Bool := 4 ≤ f.body.length && f.body.length ≤ 244

/-- Operands that the line and the inputs can bring. -/
def Instr.wf : Instr → Bool
  | .powerOn _ => true
  | .resetN _ => true
  | .frameStart _ _ => true
  | .framingError => true
  | .unknownFrame => true
  | .frameTruncation => true
  | .surplusBytes => true
  | .inIdleGap => true
  | .badFcsFrameEnd frame => 5 ≤ frame.length && frame.length ≤ 2410
  | .sweep f => f.wf
  | .ownSlotWrite n => 1 ≤ n.toNat && n.toNat ≤ 200
  | .replyFrame f => f.wf
  | .enumerate _ _ => true
  | .orderNotActedOn _ o _ => o.wf
  | .unknownOrder _ o => o.wf
  | .outGapElapsed => true
  | .replyLeftOut => true
  | .passThroughLeftOut => true
  | .lineBreak => true
  | .lineReset => true
  | .readNode o => o.wf
  | .readLamps o => o.wf
  | .readEvents o => o.wf
  | .peekEvents o => o.wf
  | .tableWrite o => o.wf
  | .tableRead o => o.wf
  | .commitTables o => o.wf
  | .discardShadow o => o.wf
  | .commitCompletion => true
  | .stage o => o.wf
  | .take o => o.wf
  | .takeAt o => o.wf
  | .cancelTakes o => o.wf
  | .scheduleFiring => true
  | .enterService o => o.wf
  | .leaveService o => o.wf
  | .hold o => o.wf
  | .stepHeads o => o.wf
  | .release o => o.wf
  | .lampTest o => o.wf
  | .clearLampFault o => o.wf
  | .relearn o => o.wf
  | .restartKeepTables o => o.wf
  | .restartFull o => o.wf
  | .keepTablesRestartEffect _ => true
  | .fullRestartEffect _ => true
  | .watchdogExpiry => true
  | .mergeDwellCompletion _ => true
  | .clearanceCompletion _ => true
  | .stallTimeout _ => true
  | .staleExpiry address _ => 1 ≤ address.toNat && address.toNat ≤ 200
  | .slewTick => true
  | .temperatureSample _ => true
  | .sampleEvent m => m.length == 32 && m.all fun x => x ≤ 4095
  | .supplyLoss => true
  | .resetNAsserted => true
  | .orderForwardedOnly _ o => o.wf

end Sys2Proof
end

