-- ==== Sys2Proof/Safety.lean ====
section
/-! DEFINITION. What the statements speak of: the frame ends a node finds, the states they leave, and
what a safe node is: conditions of the manual that no event of a run breaks. -/

namespace Sys2Proof.Machine

/-! ## Frame ends -/

/-- The node works: it is not held in reset, and no restart is due, which would come before whatever is
said of the next command (R49, R51). -/
def State.works (s : State) : Bool := !s.held && !s.restartIsDue

/-- A working node has frame `f`, with this kind byte and second byte, in progress on IN. -/
structure State.Receives (s : State) (kind second : Byte) (f : RxFrame) : Prop where
  works : s.works = true
  rx : s.line.rx = .frame
  frame : s.line.rxFrame = some f
  kind : f.kind = kind
  second : f.second = second

/-- An undamaged ORDER to the node's own address is in progress, and the reply slot is empty: at its
good frame end it is answered (R25). Its body is one that an ORDER can have (R20). -/
def State.Addressed (s : State) (o : Order) : Prop :=
  o.wf = true ∧ ∃ f, s.Receives orderKind o.dest f ∧ f.route = .absorbed ∧ f.damaged = false
    ∧ s.line.replySlot = none

/-- An undamaged ORDER to a group of the node, or to all, is in progress as frame `f`: at its good
frame end it is acted on without a reply (R43). Its body is one that an ORDER can have (R20). -/
def State.Overhears (s : State) (o : Order) (f : RxFrame) : Prop :=
  o.wf = true ∧ s.Receives orderKind o.dest f ∧ f.route ≠ .absorbed ∧ f.damaged = false
    ∧ s.hearsGroup o.dest = true

/-- The node as an absorbed ORDER acts on it: KEY read, the frame ended, the absorb store empty. -/
def State.received (s : State) (o : Order) : State :=
  { s with
    node := { s.node with key := o.key }
    line := { s.line with rx := .ended, rxFrame := none, absorb := [] } }

/-- The node as a forwarded ORDER acts on it: KEY read, the frame ended and passed on as received. -/
def State.overheard (s : State) (code : Byte) (o : Order) (f : RxFrame) : State :=
  { s with
    node := { s.node with key := o.key }
    line := s.line.closeFrame f (withFcs (o.frame code)) true }

/-- The reply placed in the reply slot: the node summary and the content of the state as it stands,
sent at once when OUT is free (R26, R45). -/
def State.replied (t : State) (code : Byte) (o : Order) (st : Status) (content : List Byte) : State :=
  { t with
    line := { t.line with
      replySlot := some
        (withFcs (replyBody (byteOf t.line.address) st.byte o.tag code (t.summary ++ content)))
      tx := if t.line.tx = .idle ∧ t.line.outGap then .replying else t.line.tx } }

/-- `t` is `s` with its frame `f` in progress on IN stopped at a fault: counted once, nothing more of it
sent or kept, the receive state `rx`, nothing but the line and the capture store touched (R20, R23,
R27, R28; the absorb store emptied: log 36). -/
def State.stopsFrame (s : State) (f : RxFrame) (t : State) (rx : RxState) : Prop :=
  t = { s with line := t.line, sweep := { s.sweep with capture := [] } }
    ∧ t.line.rx = rx ∧ t.line.rxFrame = none
    ∧ t.line.lineErrors
        = (if f.damaged then s.line.lineErrors else min 255 (s.line.lineErrors + 1))
    ∧ t.line.address = s.line.address ∧ t.line.ring = s.line.ring
    ∧ t.line.replySlot = s.line.replySlot ∧ t.line.lastSent = s.line.lastSent
    ∧ (f.route = .absorbed → t.line.absorb = [] ∧ t.line.thru = s.line.thru
        ∧ t.line.elastic = s.line.elastic ∧ t.line.tx = s.line.tx)
    ∧ (f.route = .through → t.line.absorb = s.line.absorb ∧ t.line.thru = none
        ∧ t.line.elastic = s.line.elastic ∧ t.line.tx = .idle)
    ∧ (f.route = .buffered → t.line.absorb = s.line.absorb ∧ t.line.thru = s.line.thru
        ∧ t.line.elastic = none
        ∧ t.line.tx = (if s.line.tx = .passing ∧ s.line.thru = none then .idle else s.line.tx))

/-- The line of `t` is that of `s` with the absorbed ORDER `frame`, in progress as `f`, not acted on:
counted once, the absorb store empty, and in an empty reply slot the frame for re-emission, bad in
either case (R25). -/
def State.droppedOrder (s : State) (f : RxFrame) (frame : List Byte) (t : State) : Prop :=
  t.line.rx = .ended ∧ t.line.rxFrame = none ∧ t.line.absorb = []
    ∧ t.line.lineErrors
        = (if f.damaged then s.line.lineErrors else min 255 (s.line.lineErrors + 1))
    ∧ (s.line.replySlot ≠ none → t.line.replySlot = s.line.replySlot ∧ t.line.tx = s.line.tx)
    ∧ (s.line.replySlot = none →
        t.line.replySlot = some
          (if fcsGood frame then frameBody frame ++ fcsBytes (~~~(crc (frameBody frame)))
           else frame)
        ∧ t.line.tx = (if s.line.tx = .idle ∧ s.line.outGap then .replying else s.line.tx))
    ∧ t.line.thru = s.line.thru ∧ t.line.elastic = s.line.elastic
    ∧ t.line.address = s.line.address ∧ t.line.ring = s.line.ring
    ∧ t.line.outGap = s.line.outGap ∧ t.line.lastSent = s.line.lastSent

/-! ## The catalogue -/

/-- The catalogue row and the ORDER of an order command; RESTART has one row for its two bodies. -/
def orderRow : Instr → Option (OrderSpec × Order)
  | .readNode o => some (readNodeSpec, o)
  | .readLamps o => some (readLampsSpec, o)
  | .readEvents o => some (readEventsSpec, o)
  | .peekEvents o => some (peekEventsSpec, o)
  | .tableWrite o => some (tableWriteSpec, o)
  | .tableRead o => some (tableReadSpec, o)
  | .commitTables o => some (commitTablesSpec, o)
  | .discardShadow o => some (discardShadowSpec, o)
  | .stage o => some (stageSpec, o)
  | .take o => some (takeSpec, o)
  | .takeAt o => some (takeAtSpec, o)
  | .cancelTakes o => some (cancelTakesSpec, o)
  | .enterService o => some (enterServiceSpec, o)
  | .leaveService o => some (leaveServiceSpec, o)
  | .hold o => some (holdSpec, o)
  | .stepHeads o => some (stepSpec, o)
  | .release o => some (releaseSpec, o)
  | .lampTest o => some (lampTestSpec, o)
  | .clearLampFault o => some (clearLampFaultSpec, o)
  | .relearn o => some (relearnSpec, o)
  | .restartKeepTables o => some (restartSpec, o)
  | .restartFull o => some (restartSpec, o)
  | _ => none

/-- The commands of one row of R41's table: the code, the body lengths, the bodies that need
COMMISSION, the modes, and whether groups are heard. -/
def catalogueRow (cmd : Order → Instr) (code : Byte) (lengths : List Byte → Prop)
    (commission : List Byte → Prop) (modes : State → Prop) (group : Bool) : Prop :=
  ∀ o, ∃ q, orderRow (cmd o) = some (q, o) ∧ q.code = code
    ∧ (∀ b, q.lengthOk b = true ↔ lengths b) ∧ (∀ b, q.commission b = true ↔ commission b)
    ∧ (∀ s, q.modeOk s = true ↔ modes s) ∧ q.group = group

/-- The frame whose end on IN a command is, as received; an order code of the catalogue makes none of
UNKNOWN_ORDER. -/
def frameOf (c : Instr) : Option (List Byte) :=
  match c with
  | .badFcsFrameEnd frame => some frame
  | .sweep f => some f.bytes
  | .replyFrame f => some f.bytes
  | .enumerate next flags => some (enumerateBytes next flags)
  | .orderNotActedOn code o fcs => some (o.frame code ++ fcsBytes fcs)
  | .unknownOrder code o => if catalogue.contains code then none else some (withFcs (o.frame code))
  | .orderForwardedOnly code o => some (withFcs (o.frame code))
  | _ => (orderRow c).map fun x => withFcs (x.2.frame x.1.code)

/-! ## The ranges of the table records, as R55 to R57 table them -/

/-- A face entry at offset `i` of a LANES record: head, upstream reference, downstream reference. -/
def faceEntryInRange (r : List Byte) (i : Nat) : Prop :=
  natAt r i ≤ 7 ∧ natAt r (i + 1) ≤ 200 ∧ natAt r (i + 2) ≤ 7 ∧ natAt r (i + 3) ≤ 200
    ∧ natAt r (i + 4) ≤ 7

/-- Every field of a record lies in its range. -/
def recordInRange (t : Table) (r : List Byte) : Prop :=
  match t with
  | .node =>
    (∀ i < 4, natAt r i = 0 ∨ (224 ≤ natAt r i ∧ natAt r i ≤ 254))
      ∧ 8 ≤ natAt r 5 ∧ natAt r 5 ≤ 128 ∧ 64 ≤ wordAt r 6 ∧ wordAt r 6 ≤ 512
      ∧ natAt r 5 < wordAt r 6 ∧ 2 ≤ natAt r 8 ∧ natAt r 8 ≤ 64
  | .lanes => natAt r 0 ≤ 3 ∧ faceEntryInRange r 1 ∧ faceEntryInRange r 6
  | .heads =>
    natAt r 0 = 0 ∨ (natAt r 0 = 1 ∧ natAt r 1 ≤ 3 ∧ natAt r 2 ≤ 1
      ∧ (natAt r 3 = 2 ∨ natAt r 3 = 3)
      ∧ ∀ p < 8, ∀ e < 4,
        let entry := fun e => byteAt r (4 + 4 * p + e)
        ((entry e).getLsbD 7 = true → (entry e).getLsbD 5 = false)
          ∧ ((entry e).getLsbD 7 = false → entry e = 0#8 ∧ ∀ e' < 4, e < e' → entry e' = 0#8))
  | .plans => natAt r 0 ≤ 1 ∧ ∀ i < 8, natAt r (1 + i) ≤ 4
  | .timing =>
    1 ≤ wordAt r 0 ∧ wordAt r 0 ≤ 600
      ∧ (∀ k < 4, 10 ≤ wordAt r (2 + 2 * k) ∧ wordAt r (2 + 2 * k) ≤ 1200)
      ∧ 5 ≤ wordAt r 10 ∧ wordAt r 10 ≤ 600 ∧ 5 ≤ natAt r 12 ∧ natAt r 13 ≤ 64
      ∧ 2 ≤ natAt r 14 ∧ natAt r 14 ≤ 50 ∧ 1 ≤ wordAt r 15 ∧ wordAt r 15 ≤ 4095 ∧ 1 ≤ natAt r 17
  | .intensity =>
    (∀ l < 8, 50 ≤ wordAt r (2 * l) ∧ wordAt r (2 * l) ≤ 1000) ∧ natAt r 16 ≤ 3
      ∧ 50 ≤ wordAt r 17 ∧ wordAt r 17 ≤ 1000
  | .calibration => 16384 ≤ wordAt r 0 ∧ (wordAt r 2 ≤ 0x00FF ∨ 0xFF00 ≤ wordAt r 2)
  | .alarmMask => natAt r 0 < 128

/-! ## One event at the lamps -/

/-- `g'` has the channels and the slew timer of `g` after one event, where the channels of `was` were lit
before it and those of `is` are lit after it: a channel that joins takes its target code at once and begins
settling; one that leaves goes to 0; one that stays settles anew where `anew` says so (R139, R149). The slew
timer runs while a lit channel ramps, with its count where it ran before, else it is idle (R141, log 40). -/
def Gantry.relit (g g' : Gantry) (was is anew : Fin 32 → Prop) : Prop :=
  (∀ c : Fin 32,
    let x := g.channels[c]
    (¬was c → is c → g'.channels[c] = { x with output := x.target, settle := 0, fault := 0, stuck := 0 })
    ∧ (was c → ¬is c → g'.channels[c] = { x with output := 0, settle := 0, fault := 0 })
    ∧ (was c → is c → anew c → g'.channels[c] = { x with settle := 0, fault := 0 })
    ∧ (was c → is c → ¬anew c → g'.channels[c] = x)
    ∧ (¬was c → ¬is c → g'.channels[c] = x))
  ∧ ((∃ c : Fin 32, is c ∧ g'.channels[c].output ≠ g'.channels[c].target) →
      g'.slew = some (g.slew.getD 0))
  ∧ ((∀ c : Fin 32, is c → g'.channels[c].output = g'.channels[c].target) → g'.slew = none)

/-! ## One event at the sequencer -/

/-- The gantry and the event queue once the sequencer's timers that have reached their intervals complete at
one event: merge dwells in head order where `dwells`, the clearances of `lanes` in lane order, each with the
re-test of the lane's faces, and stalls in head order where `stalls` (R64, R89, R94, R101; logs 17, 42). -/
def Env.completed (e : Env) (dwells : Bool) (lanes : Fin 4 → Bool) (stalls : Bool) (clock : Clock)
    (g : Gantry) (q : EventUnit) : Gantry × EventUnit :=
  let b := e.bank
  let dwelt := allHeads.foldl (fun (g : Gantry) (h : Fin 8) =>
    let x := g.heads[h]
    if dwells = true ∧ b.headExists h = true ∧ x.stage = some .merging ∧ b.dwellMs ≤ x.mergeServed then
      if e.hold = false ∧ e.upstreamHolds h = true then e.change h .closed .steady g
      else { g with heads := g.heads.set h { x with
        stage := some .closeWait, waitStart := some e.now, waitTime := 0, stalled := false } }
    else g) g
  let cleared := allLanes.foldl (fun (g : Gantry) (k : Fin 4) =>
    let x := g.lanes[k]
    if lanes k = true ∧ b.tidal k = true ∧ x.clearSince ≠ none ∧ x.clear = false
        ∧ b.clearanceMs k ≤ x.clearCount then
      e.retestAll [b.faceHead k .asc, b.faceHead k .desc]
        { g with lanes := g.lanes.set k { x with clear := true } }
    else g) dwelt
  allHeads.foldl (fun (r : Gantry × EventUnit) (h : Fin 8) =>
    let x := r.1.heads[h]
    if stalls = true ∧ b.headExists h = true ∧ (x.stage = some .closeWait ∨ x.stage = some .openingWait)
        ∧ x.stalled = false ∧ b.stallMs ≤ x.waitTime then
      ({ r.1 with heads := r.1.heads.set h { x with stalled := true } },
        r.2.post ⟨.sequenceStalled h, 0, 0, clock⟩)
    else r) (cleared, q)

/-- The gantry as fallback entry leaves it: the existing heads in turn are given the policy's targets and
begin their paths, then every existing head re-tests. Policy 0 is HOLD, at which a head keeps its displayed
aspect but for those in MERGING and CLOSE_WAIT (R128 to R130). -/
def Env.fallenBack (e : Env) (g : Gantry) : Gantry :=
  let b := e.bank
  let heads := allHeads.filter b.headExists
  let held := heads.foldl (fun g h =>
    if g.heads[h].stage = some .merging ∨ g.heads[h].stage = some .closeWait then g
    else e.setTarget h g.heads[h].displayed g) g
  let planned := heads.foldl (fun g h =>
    match b.planTarget b.fallbackPolicy h with
    | some a => e.setTarget h a g
    | none => g) g
  e.retestAll heads (if b.fallbackPolicy = 0 then held else planned)

/-! ## A node as a reset leaves it -/

/-- `t` is `s` held in reset: every output 0 and dark, driver power off, OUT at mark, the line buffers
empty, ALARM asserted, no restart pending; mode, tables, Take Unit, watchdog, events and neighbour
records stand (R51, log 11). -/
def State.heldAfter (t s : State) : Prop :=
  t.held = true ∧ t.lamp = { s.lamp with power := false } ∧ t.alarmPin = true
    ∧ t.outLevel = .mark
    ∧ (∀ c : Fin 32, t.gantry.channels[c].output = 0)
    ∧ (∀ h : Fin 8, t.gantry.heads[h].displayed = .dark)
    ∧ t.line = { s.line with
        rx := .settling, rxFrame := none, absorb := [], thru := none, elastic := none
        replySlot := none, tx := .idle, outGap := false }
    ∧ t.node.mode = s.node.mode ∧ t.node.restartPending = none ∧ t.store = s.store
    ∧ t.take = s.take ∧ t.sweep = s.sweep ∧ t.watchdog = s.watchdog ∧ t.events = s.events
    ∧ t.now = s.now ∧ t.pending = s.pending

/-- A node just reset by power-on, RESET_N or RESTART FULL (R51), item by item. -/
def State.restarted (s : State) (cause : Cause) (p : ResetInputs) : State where
  line := {
    address := if p.ring then 0 else if p.straps.toNat ≤ 200 then p.straps.toNat else 0
    ring := p.ring, lineErrors := 0, rx := .settling, rxFrame := none, absorb := [], thru := none
    elastic := none, replySlot := none, tx := .idle, outGap := false, lastSent := [] }
  node := {
    mode := .unconfigured, hold := false, tablesValid := false, restartCause := cause
    tablesRetained := false, restartPending := none, restartDue := false, supplyOk := true
    resetNHigh := true, key := s.node.key, straps := p.straps, addrModeRing := p.ring }
  store := {
    active := Bank.reset, shadow := Bank.reset, validating := false, commitAge := 0
    lastResult := .none, lastTable := 0, lastIndex := 0 }
  take := { clock := 0#32, pendingPlan := none, schedule := [], currentPlan := 0, scheduleFull := false }
  gantry := {
    heads := Vector.replicate 8 Head.reset, lanes := Vector.replicate 4 Lane.reset
    channels := Vector.replicate 32 Channel.reset, slew := none }
  sweep := { lastPhase := none, records := [], capture := [] }
  watchdog := { armed := false, start := none, stream := false }
  lamp := {
    level := 7, derate := false, temperature := max (-40) (min 125 p.die), power := true
    sinceReading := 0, sinceSample := 0 }
  events := { queue := [⟨.restarted cause, 0, 0, 0#32⟩], overflow := false }
  now := 0
  inputReads := s.inputReads
  pending := s.pending

/-! ## Safety -/

/-- IN_SERVICE and FALLBACK: the modes in which heads are lit and walked. -/
def Mode.serving : Mode → Bool
  | .inService | .fallback => true
  | .unconfigured | .outOfService | .lockout => false

/-- At most 16 entries, no two with the same kind and object (R162). -/
def EventUnit.safe (u : EventUnit) : Prop :=
  u.queue.length ≤ 16 ∧ (u.queue.map Event.kind).Nodup

/-- The event queue is safe. -/
def State.queueSafe (s : State) : Prop := s.events.safe

/-- Flags, watchdog, Take Unit and lamp power agree with the mode (R36, R39, R66, R124, R140). -/
def State.modesAgree (s : State) : Prop :=
  (s.node.tablesValid = true ↔ s.node.mode ≠ .unconfigured)
    ∧ (s.node.hold = true → s.node.mode = .inService)
    ∧ s.watchdog.armed = s.node.mode.serving
    ∧ s.watchdog.start.isSome = s.watchdog.armed
    ∧ (s.watchdog.stream = true → s.watchdog.armed = true)
    ∧ (s.node.mode.serving = false →
        s.take.pendingPlan = none ∧ s.take.schedule = [] ∧ s.take.scheduleFull = false
          ∧ s.take.currentPlan = 0)
    ∧ (s.lamp.power = true ↔ s.held = false ∧ s.node.mode ≠ .lockout)

/-- The pending plan is defined in ACTIVE (R82). -/
def State.stagedPlanDefined (s : State) : Prop :=
  ∀ p ∈ s.take.pendingPlan, s.store.active.planDefined p = true

/-- No entry of the schedule is due: each fired at the test at which it fell due (R79, R80). -/
def State.noneDue (s : State) : Prop := ∀ e ∈ s.take.schedule, e.isDue s.take.clock = false

/-- Plan numbers in their ranges; at most 4 entries, no two with the same due time, in ascending order of
time remaining, none further away than half the clock's range (R66, R77, R79). -/
def TakeUnit.inRanges (t : TakeUnit) : Prop :=
  t.currentPlan ≤ 64 ∧ (∀ p ∈ t.pendingPlan, 1 ≤ p ∧ p ≤ 64)
    ∧ t.schedule.length ≤ 4 ∧ (t.schedule.map ScheduleEntry.due).Nodup
    ∧ t.schedule.Pairwise (fun x y => remaining x.due t.clock < remaining y.due t.clock)
    ∧ ∀ e ∈ t.schedule, remaining e.due t.clock ≤ 2 ^ 31 ∧ 1 ≤ e.plan ∧ e.plan ≤ 64

/-- Every record of the bank is as reset leaves it, or has every field in its range (R54 to R58). -/
def Bank.inRanges (b : Bank) : Prop :=
  ∀ (t : Table) (i : Nat), i < t.records →
    b.row t i = Bank.reset.row t i ∨ t.recordOk (b.row t i) = true

/-- Both banks in their ranges, and a commit in flight no longer than 20 ms (R60). -/
def TableStore.inRanges (u : TableStore) : Prop :=
  u.active.inRanges ∧ u.shadow.inRanges ∧ (u.validating = true → u.commitAge ≤ 20)

/-- The neighbour records are those of the references of ACTIVE (R119), and a fresh one was refreshed no
longer ago than the stale limit (R117, R120). -/
def State.recordsSound (s : State) : Prop :=
  s.sweep.records.map (fun n => (⟨n.address, n.head⟩ : Reference)) = s.store.active.references
    ∧ ∀ n ∈ s.sweep.records, n.fresh = true →
        ∃ t, n.lastRefresh = some t ∧ t ≤ s.now ∧ s.now ≤ t + s.store.active.staleMs

/-- The ranges of a channel's items (R135, R147). -/
def Channel.inRanges (ch : Channel) : Prop :=
  ch.target ≤ 4095 ∧ ch.output ≤ 4095 ∧ ch.lastM ≤ 4095 ∧ 512 ≤ ch.ref ∧ ch.ref ≤ 1536
    ∧ ch.settle ≤ 2 ∧ ch.fault ≤ 64 ∧ ch.stuck ≤ 64

/-- Every channel in its ranges, every conflict count at most 2 (R135, R147). -/
def Gantry.inRanges (g : Gantry) : Prop :=
  (∀ c : Fin 32, g.channels[c].inRanges) ∧ ∀ k : Fin 4, g.lanes[k].conflictCount ≤ 2

/-- The lighting level and the temperature in their ranges, and neither a temperature reading nor a lamp
sample overdue (R135, R144, R148). -/
def LampDrive.inRanges (u : LampDrive) : Prop :=
  u.level ≤ 7 ∧ -40 ≤ u.temperature ∧ u.temperature ≤ 125 ∧ u.sinceReading ≤ 1000
    ∧ u.sinceSample ≤ 100

/-- Every item keeps its range (R28, R31, R54 to R58, R60, R66, R77, R117, R119, R135, R144, R147,
R148). -/
def State.rangesKept (s : State) : Prop :=
  s.line.lineErrors ≤ 255 ∧ s.line.address ≤ 200 ∧ s.take.inRanges ∧ s.store.inRanges
    ∧ s.lamp.inRanges ∧ s.gantry.inRanges ∧ s.recordsSound

/-- A channel outside every displayed pattern has output 0 (R139). -/
def Gantry.unlitDark (g : Gantry) (b : Bank) : Prop :=
  ∀ c : Fin 32, c ∉ b.litChannels g.heads → g.channels[c].output = 0

/-- R139 under the model in force. -/
def State.unlitDark (s : State) : Prop := s.gantry.unlitDark s.store.active

/-- The two faces of a TIDAL lane do not both display a permissive aspect (R88). -/
def Gantry.facesOpposed (g : Gantry) (b : Bank) : Prop :=
  ∀ k : Fin 4, b.tidal k = true →
    ¬(g.heads[b.faceHead k .asc].displayed.permissive = true
      ∧ g.heads[b.faceHead k .desc].displayed.permissive = true)

/-- A head stands on a path only while it is lit; outside service it has no stage and shows its lamp
test or nothing, and lamp tests are of OUT_OF_SERVICE (R84, R86, R159). -/
def Head.fits (hd : Head) (m : Mode) : Prop :=
  (hd.displayed = .dark → hd.stage = none ∨ hd.stage = some .steady)
    ∧ (m.serving = false →
        hd.stage = none ∧ hd.displayed = (match hd.test with | none => .dark | some t => t.aspect))
    ∧ (m ≠ .outOfService → hd.test = none)

/-- The clearance of a TIDAL lane runs exactly while both its faces display CLOSED, and its lane is clear
only once the clearance has counted its interval; outside service no clearance runs (R85, R89). -/
def Gantry.clearsSound (g : Gantry) (b : Bank) (m : Mode) : Prop :=
  (m.serving = true → ∀ k : Fin 4, b.tidal k = true →
      (g.lanes[k].clearSince ≠ none ↔ ∀ f : Face, g.heads[b.faceHead k f].displayed = .closed)
      ∧ (g.lanes[k].clear = true →
          g.lanes[k].clearSince ≠ none ∧ b.clearanceMs k ≤ g.lanes[k].clearCount))
    ∧ (m.serving = false → ∀ k : Fin 4, g.lanes[k].clearSince = none ∧ g.lanes[k].clear = false)

/-- R88 and R89 with what keeps them from event to event: the model in force, once there is one, has faces
and heads that correspond (R15), and every head fits the mode. -/
def State.lanesSafe (s : State) : Prop :=
  (s.node.tablesValid = true ∨ s.node.mode ≠ .unconfigured →
      s.store.active.checkLaneHeads s.store.active.faces [] = none)
    ∧ (∀ h : Fin 8, s.gantry.heads[h].fits s.node.mode)
    ∧ s.gantry.facesOpposed s.store.active
    ∧ s.gantry.clearsSound s.store.active s.node.mode

/-- A safe node. -/
def State.safe (s : State) : Prop :=
  s.queueSafe ∧ s.modesAgree ∧ s.stagedPlanDefined ∧ s.rangesKept ∧ s.unlitDark ∧ s.lanesSafe

end Sys2Proof.Machine
end

