-- ==== Sys2Proof/Certificates/Slice0/Obligations.lean ====
section
/-! DEFINITION. The statements for the provers, in the order of the manual: the queue and the resets, the
line, the orders, the commit, timed events, the sequencer, lamps, events, and safety. -/

open Sys2Proof Sys2Proof.Machine

/-! ## The queue, time and the resets -/

/-- The command at the front of the queue is carried out on the node with the queue's rest. -/
def Obligations.StepRunsTheFrontCommand : Prop :=
  ∀ (c : Instr) (rest : List Instr) (s : State), s.pending = c :: rest →
    step s = exec c { s with pending := rest }

/-- Every command answers a next state that leaves the queue alone. A node held in reset feels none
but the four of the supply and the pin (log 11). A restart that is due comes before every other
command but those four and its own effect (R49, log 10). -/
def Obligations.EveryCommandAnswersNext : Prop :=
  (∀ (c : Instr) (s : State), ∃ t, exec c s = .next t ∧ t.pending = s.pending)
    ∧ (∀ (c : Instr) (s : State), s.held = true → (∀ p, c ≠ .powerOn p) → (∀ p, c ≠ .resetN p) →
        c ≠ .supplyLoss → c ≠ .resetNAsserted → exec c s = .next s)
    ∧ ∀ (c : Instr) (s : State), s.held = false → s.restartIsDue = true → (∀ p, c ≠ .powerOn p) →
        (∀ p, c ≠ .resetN p) → c ≠ .supplyLoss → c ≠ .resetNAsserted →
        (∀ p, c ≠ .keepTablesRestartEffect p) → (∀ p, c ≠ .fullRestartEffect p) →
        exec c s = exec c s.dueRestart

/-- With an empty queue one millisecond of local time passes and the node clock advances by one (the
model's choice, log 1); a node held in reset stands still (log 11). Time passes in stretches that no
timer of the node falls due within: what is due at the end of one is carried out before time goes on
(log 2). In a stretch the clock, the ages and the slew count advance, and the sequencer's counts in
unheld time alone. What is due at one moment is carried out in the order of log 1: a restart (log 10), the
commit at its 20 ms (log 25), the watchdog, the sequencer's timers in unheld time, the stale records, the
slew tick, the schedule, the temperature reading and the lamp sample, these two with free values (log 4). A
timed command, whatever falls due before its moment, is that command at the state which time has then
reached; where its timer is due there no more, the schedule alone is tested (log 2). -/
def Obligations.EmptyQueuePassesAMillisecond : Prop :=
  (∀ s : State, s.pending = [] → s.held = true → step s = .next s)
    ∧ (∀ s : State, s.pending = [] → s.works = true →
        ∃ t, step s = .next t ∧ t.now = s.now + 1 ∧ t.take.clock = s.take.clock + 1#32
          ∧ t.pending = [])
    ∧ (∀ s : State, s.pending = [] → s.held = false → step s = .next (s.reach 1).due)
    ∧ (∀ (s : State) (n : Nat), n ≤ s.untilNext → s.reach n = s.elapse n)
    ∧ (∀ (s : State) (n : Nat), s.untilNext ≠ 0 → s.untilNext < n →
        s.reach n = (s.elapse s.untilNext).reach (n - s.untilNext))
    ∧ (∀ (s : State) (n : Nat), n ≠ 0 → s.untilNext = 0 →
        let m := max 1 s.due.untilNext
        s.reach n = if n ≤ m then s.due.elapse n else (s.due.elapse m).reach (n - m))
    ∧ (∀ s : State, s.due =
        s.dueRestart.dueCommit.dueWatchdog.dueUnheld.dueStales.dueSlew.dueTest.dueReading.dueSample)
    ∧ (∀ s : State,
        let b := s.store.active
        let read := { s with inputReads := s.inputReads + 1 }
        let p : ResetInputs := ⟨s.node.straps, s.node.addrModeRing, Config.dieInput s.inputReads⟩
        let expired := fun n : Neighbour =>
          n.fresh && n.lastRefresh.any fun t => decide (t + b.staleMs ≤ s.now)
        let stales := fun (u : State) (n : Neighbour) =>
          let records := u.sweep.records.map fun (r : Neighbour) =>
            if r.address = n.address ∧ r.head = n.head then { r with fresh := false } else r
          { u with
            sweep := { u.sweep with records := records }
            gantry := { u.env with records := records }.retestAll
              (b.existing.filter fun h => b.refersTo h n) u.gantry }
        let watchdog := s.watchdog.armed = true ∧ ∃ t ∈ s.watchdog.start, t + b.watchdogMs ≤ s.now
        (s.restartIsDue = false → s.dueRestart = s)
        ∧ (s.restartIsDue = true → s.held = false → s.dueRestart.works = true
          ∧ (s.node.restartPending = some .keepTables →
              exec (.keepTablesRestartEffect p) read = .next s.dueRestart)
          ∧ (s.node.restartPending = some .full →
              exec (.fullRestartEffect p) read = .next s.dueRestart))
        ∧ (¬(s.store.validating = true ∧ 20 ≤ s.store.commitAge) → s.dueCommit = s)
        ∧ (s.works = true → s.store.validating = true → 20 ≤ s.store.commitAge →
            exec .commitCompletion s = .next s.dueCommit)
        ∧ (¬watchdog → s.dueWatchdog = s)
        ∧ (watchdog → s.node.mode = .fallback → s.dueWatchdog =
            { s with watchdog := { armed := true, start := some s.now, stream := false } })
        ∧ (watchdog → s.node.mode = .inService → s.dueWatchdog = { s with
            node := { s.node with mode := .fallback, hold := false }
            events := s.events.post ⟨.fallbackEntered, 0, 0, s.take.clock⟩
            take := { s.take with
              pendingPlan := none, schedule := [], scheduleFull := false
              currentPlan := b.fallbackPolicy }
            watchdog := { armed := true, start := some s.now, stream := false }
            gantry := { s.env with mode := .fallback, hold := false }.fallenBack s.gantry })
        ∧ s.dueUnheld = (if s.node.hold = true then s
          else
            let done := s.env.completed true (fun _ => true) true s.take.clock s.gantry s.events
            { s with gantry := done.1, events := done.2 })
        ∧ s.dueStales = (s.sweep.records.filter expired).foldl stales s
        ∧ ((∀ n ∈ s.gantry.slew, n < b.slewTickMs) → s.dueSlew = s)
        ∧ (s.works = true → ∀ n ∈ s.gantry.slew, b.slewTickMs ≤ n →
            exec .slewTick s = .next s.dueSlew.dueTest)
        ∧ (s.lamp.sinceReading < 1000 → s.dueReading = s)
        ∧ (s.works = true → s.noneDue → 1000 ≤ s.lamp.sinceReading →
            exec (.temperatureSample (Config.dieInput s.inputReads)) read = .next s.dueReading)
        ∧ (s.lamp.sinceSample < 100 → s.dueSample = s)
        ∧ (s.works = true → s.noneDue → 100 ≤ s.lamp.sinceSample →
            exec (.sampleEvent (allChannels.map fun c => Config.senseInput s.inputReads c.val)) read
              = .next s.dueSample))
    ∧ (∀ s : State, s.works = true →
        let b := s.store.active
        let comesTo := fun (c : Instr) (n : Nat) (due : State → Prop) =>
          let u := s.reach n
          u.works = true ∧ (due u → exec c s = exec c u) ∧ (¬due u → exec c s = .next u.dueTest)
        let record := fun (u : State) (a : Byte) (h : Fin 8) =>
          u.sweep.records.find? fun r => r.address == a && r.head == h
        (s.watchdog.armed = true → ∀ t ∈ s.watchdog.start,
            comesTo .watchdogExpiry (t + b.watchdogMs - s.now) fun u => u.watchdog.armed = true
              ∧ ∃ t ∈ u.watchdog.start, t + u.store.active.watchdogMs ≤ u.now)
        ∧ (s.node.hold = false →
          (∀ h : Fin 8, b.headExists h = true → s.gantry.heads[h].stage = some .merging →
            comesTo (.mergeDwellCompletion h) (b.dwellMs - s.gantry.heads[h].mergeServed) fun u =>
              u.node.hold = false ∧ u.store.active.headExists h = true
                ∧ u.gantry.heads[h].stage = some .merging
                ∧ u.store.active.dwellMs ≤ u.gantry.heads[h].mergeServed)
          ∧ (∀ k : Fin 4, b.tidal k = true → s.gantry.lanes[k].clearSince ≠ none →
            s.gantry.lanes[k].clear = false →
            comesTo (.clearanceCompletion k) (b.clearanceMs k - s.gantry.lanes[k].clearCount) fun u =>
              u.node.hold = false ∧ u.store.active.tidal k = true
                ∧ u.gantry.lanes[k].clearSince ≠ none ∧ u.gantry.lanes[k].clear = false
                ∧ u.store.active.clearanceMs k ≤ u.gantry.lanes[k].clearCount)
          ∧ ∀ h : Fin 8, b.headExists h = true →
            (s.gantry.heads[h].stage = some .closeWait
              ∨ s.gantry.heads[h].stage = some .openingWait) →
            s.gantry.heads[h].stalled = false →
            comesTo (.stallTimeout h) (b.stallMs - s.gantry.heads[h].waitTime) fun u =>
              u.node.hold = false ∧ u.store.active.headExists h = true
                ∧ (u.gantry.heads[h].stage = some .closeWait
                  ∨ u.gantry.heads[h].stage = some .openingWait)
                ∧ u.gantry.heads[h].stalled = false
                ∧ u.store.active.stallMs ≤ u.gantry.heads[h].waitTime)
        ∧ (∀ (a : Byte) (h : Fin 8), ∀ n ∈ record s a h, n.fresh = true → ∀ t ∈ n.lastRefresh,
            comesTo (.staleExpiry a h) (t + b.staleMs - s.now) fun u =>
              ∃ n ∈ record u a h, n.fresh = true
                ∧ ∃ t ∈ n.lastRefresh, t + u.store.active.staleMs ≤ u.now)
        ∧ (∀ n ∈ s.gantry.slew, comesTo .slewTick (b.slewTickMs - n) fun u =>
            ∃ n ∈ u.gantry.slew, u.store.active.slewTickMs ≤ n)
        ∧ (∀ e ∈ s.take.schedule.head?, exec .scheduleFiring s = .next (s.reach
            (if e.isDue s.take.clock then 0 else (e.due - s.take.clock).toNat)).dueTest)
        ∧ (∀ reading : Int, comesTo (.temperatureSample reading) (1000 - s.lamp.sinceReading) fun u =>
            1000 ≤ u.lamp.sinceReading)
        ∧ ∀ m : List Nat, comesTo (.sampleEvent m) (100 - s.lamp.sinceSample) fun u =>
            100 ≤ u.lamp.sinceSample)
    ∧ (∀ s : State,
        let b := s.store.active
        let n := s.untilNext
        n ≤ 1000 - s.lamp.sinceReading ∧ n ≤ 100 - s.lamp.sinceSample
          ∧ (s.store.validating = true → n ≤ 20 - s.store.commitAge)
          ∧ (s.watchdog.armed = true → ∀ t ∈ s.watchdog.start, n ≤ t + b.watchdogMs - s.now)
          ∧ (∀ x ∈ s.sweep.records, x.fresh = true → ∀ t ∈ x.lastRefresh, n ≤ t + b.staleMs - s.now)
          ∧ (∀ c ∈ s.gantry.slew, n ≤ b.slewTickMs - c)
          ∧ (∀ e ∈ s.take.schedule,
              n ≤ if e.isDue s.take.clock then 0 else (e.due - s.take.clock).toNat)
          ∧ (s.node.hold = false →
            (∀ h : Fin 8, b.headExists h = true → s.gantry.heads[h].stage = some .merging →
                n ≤ b.dwellMs - s.gantry.heads[h].mergeServed)
            ∧ (∀ k : Fin 4, b.tidal k = true → s.gantry.lanes[k].clearSince ≠ none →
                s.gantry.lanes[k].clear = false → n ≤ b.clearanceMs k - s.gantry.lanes[k].clearCount)
            ∧ ∀ h : Fin 8, b.headExists h = true →
                (s.gantry.heads[h].stage = some .closeWait
                  ∨ s.gantry.heads[h].stage = some .openingWait) →
                s.gantry.heads[h].stalled = false → n ≤ b.stallMs - s.gantry.heads[h].waitTime))
    ∧ ∀ (s : State) (n : Nat),
        let t := s.elapse n
        let runs := s.node.hold = false
        t = { s with
            now := s.now + n
            take := { s.take with clock := s.take.clock + BitVec.ofNat 32 n }
            store := { s.store with
              commitAge := s.store.commitAge + if s.store.validating then n else 0 }
            lamp := { s.lamp with
              sinceReading := s.lamp.sinceReading + n, sinceSample := s.lamp.sinceSample + n }
            gantry := { t.gantry with channels := s.gantry.channels } }
          ∧ t.gantry.slew = s.gantry.slew.map (fun c => c + n)
          ∧ (∀ h : Fin 8,
              let x := s.gantry.heads[h]
              t.gantry.heads[h] = { x with
                mergeServed := x.mergeServed + if runs ∧ x.mergeSince ≠ none then n else 0
                waitTime := x.waitTime + if runs ∧ x.waitStart ≠ none then n else 0 })
          ∧ ∀ k : Fin 4,
              let x := s.gantry.lanes[k]
              t.gantry.lanes[k] = { x with
                clearCount := x.clearCount + if runs ∧ x.clearSince ≠ none then n else 0 }

/-- Power-on, RESET_N and RESTART FULL are the same reset and differ in the cause; after it no alarm
stands. That local time starts at 0, and no frame has been sent yet, is the model's (logs 12 and
27); so are the pins of State.reset: straps 0, STRAP, a die of 0 °C (log 5); and so is the last commit
result none after a RESTART FULL that ends a commit, where R51 says none and R65 kept (log 41). -/
def Obligations.ResetsLeaveThePowerOnState : Prop :=
  (∀ (p : ResetInputs) (s : State), s.node.resetNHigh = true →
      exec (.powerOn p) s = .next (s.restarted .powerOn p))
    ∧ (∀ (p : ResetInputs) (s : State), s.node.supplyOk = true →
      exec (.resetN p) s = .next (s.restarted .resetPin p))
    ∧ (∀ (p : ResetInputs) (s : State), s.held = false → s.node.restartPending = some .full →
      s.node.restartDue = true →
      exec (.fullRestartEffect p) s = .next (s.restarted .restartFull p))
    ∧ (∀ (c : Cause) (p : ResetInputs) (s : State),
        (s.restarted c p).alarmPin = false ∧ (s.restarted c p).outLevel = .mark)
    ∧ State.reset = State.reset.restarted .powerOn ⟨0#8, false, 0⟩

/-- A node whose supply falls, or whose RESET_N is driven low, is held: every output 0, driver power
off, OUT at mark, ALARM asserted; registers and tables stand (log 11). It stays held until both are
back. -/
def Obligations.HeldInReset : Prop :=
  (∀ s : State, ∃ t, exec .supplyLoss s = .next t ∧ t.node.supplyOk = false
      ∧ t.node.resetNHigh = s.node.resetNHigh ∧ t.heldAfter s)
    ∧ (∀ s : State, ∃ t, exec .resetNAsserted s = .next t ∧ t.node.resetNHigh = false
      ∧ t.node.supplyOk = s.node.supplyOk ∧ t.heldAfter s)
    ∧ (∀ (p : ResetInputs) (s : State), s.node.resetNHigh = false →
      exec (.powerOn p) s = .next { s with node := { s.node with supplyOk := true } })
    ∧ ∀ (p : ResetInputs) (s : State), s.node.supplyOk = false →
      exec (.resetN p) s = .next { s with node := { s.node with resetNHigh := true } }

/-- RESTART KEEP_TABLES keeps the items of R50's table and resets the rest; the reading taken then
is judged after it (log 13), so derate, OVER_TEMPERATURE and the target codes follow from it. That
local time, the ages of the readings and the record of OUT start anew is the model's (logs 12 and
27). The neighbour references are those of the present faces in record order, each pair once, at its
first place. -/
def Obligations.KeepTablesRestartKeeps : Prop :=
  (∀ b : Bank,
    let faces : List (Fin 4 × Face) := [(0, .asc), (0, .desc), (1, .asc), (1, .desc), (2, .asc),
      (2, .desc), (3, .asc), (3, .desc)]
    let named := (faces.filter fun x => b.facePresent x.1 x.2).flatMap fun x =>
      (b.upstream x.1 x.2).toList ++ (b.downstream x.1 x.2).toList
    b.references.Nodup ∧ (∀ r, r ∈ b.references ↔ r ∈ named)
      ∧ b.references.Pairwise fun x y => named.idxOf x < named.idxOf y)
  ∧ ∀ (p : ResetInputs) (s : State), s.held = false → s.node.restartPending = some .keepTables →
    s.node.restartDue = true → ∃ t, exec (.keepTablesRestartEffect p) s = .next t
      ∧ t.line = { (s.restarted .restartKeep p).line with
          address := if p.ring then s.line.address
            else if p.straps.toNat ≤ 200 then p.straps.toNat else 0 }
      ∧ t.node = { (s.restarted .restartKeep p).node with
          mode := if s.node.tablesValid then .outOfService else .unconfigured
          tablesValid := s.node.tablesValid
          tablesRetained := true }
      ∧ t.store = { s.store with shadow := s.store.active, validating := false, commitAge := 0 }
      ∧ t.take = { (s.restarted .restartKeep p).take with clock := s.take.clock }
      ∧ t.sweep = {
          lastPhase := none
          records := s.store.active.references.map fun r =>
            ⟨r.address, r.head, .dark, .unproven, none, false⟩
          capture := [] }
      ∧ t.watchdog = { armed := false, start := none, stream := false }
      ∧ t.gantry.heads = Vector.replicate 8 Head.reset
      ∧ t.gantry.lanes = Vector.replicate 4 Lane.reset
      ∧ t.gantry.slew = none
      ∧ (∀ c : Fin 32, t.gantry.channels[c] = { Channel.reset with
          ref := s.gantry.channels[c].ref
          target := s.store.active.targetCode s.node.tablesValid 7 t.lamp.derate c })
      ∧ t.lamp = { (s.restarted .restartKeep p).lamp with
          derate := s.node.tablesValid
            && decide (s.store.active.threshold ≤ max (-40) (min 125 p.die)) }
      ∧ t.events = {
          queue := ⟨.restarted .restartKeep, 0, 0, s.take.clock⟩ ::
            (if t.lamp.derate then [⟨.overTemperature, 0, 0, s.take.clock⟩] else [])
          overflow := false }
      ∧ t.now = 0 ∧ t.pending = s.pending

/-! ## The line -/

/-- A start bit on IN: in IDLE a frame begins, judged by its first two bytes; in ENDED its bytes are
surplus, counted also after a frame that was counted (log 43); in the other states nothing new begins. With a frame stands what the node mode then says of an
ENUMERATE that reassigns, whose flags byte arrives with it (log 6). Cut-through before the gap of OUT, and buffering
while a frame is passed, of which R26's table says nothing, are the model's reading (log 8). -/
def Obligations.FrameBegins : Prop :=
  (∀ (k x : Byte) (s : State), s.works = true → s.line.rx = .idle →
    let known := k = 0x31#8 ∨ k = 0x42#8 ∨ k = 0x43#8 ∨ k = 0x44#8
    let absorbed := k = 0x42#8 ∧ s.line.address ≠ 0 ∧ x.toNat = s.line.address
    let reassign := decide (s.node.mode ≠ .inService ∧ s.node.mode ≠ .fallback)
    (¬known →
      exec (.frameStart k x) s = .next { s with line := { s.line with
        rx := .discard, lineErrors := min 255 (s.line.lineErrors + 1) } })
    ∧ (absorbed →
      exec (.frameStart k x) s = .next { s with line := { s.line with
        rx := .frame, rxFrame := some ⟨k, x, .absorbed, false, true, reassign⟩, absorb := [k, x] } })
    ∧ (known → ¬absorbed →
      (s.line.elastic ≠ none →
        exec (.frameStart k x) s = .next { s with line := { s.line with
          rx := .discard, lineErrors := min 255 (s.line.lineErrors + 1) } })
      ∧ (s.line.elastic = none → s.line.tx = .idle →
        exec (.frameStart k x) s = .next { s with line := { s.line with
          rx := .frame, rxFrame := some ⟨k, x, .through, false, true, reassign⟩
          thru := some ⟨k, x, [], false, false, none⟩, tx := .passing } })
      ∧ (s.line.elastic = none → s.line.tx ≠ .idle →
        exec (.frameStart k x) s = .next { s with line := { s.line with
          rx := .frame, rxFrame := some ⟨k, x, .buffered, false, true, reassign⟩
          elastic := some ⟨k, x, [], false, false, none⟩ } })))
  ∧ (∀ (k x : Byte) (s : State), s.works = true → s.line.rx = .ended →
      exec (.frameStart k x) s = .next { s with line := { s.line with
        rx := .discard, lineErrors := min 255 (s.line.lineErrors + 1) } })
  ∧ ∀ (k x : Byte) (s : State), s.works = true →
      (s.line.rx = .settling ∨ s.line.rx = .frame ∨ s.line.rx = .discard ∨ s.line.rx = .brk) →
      exec (.frameStart k x) s = .next s

/-- Damage on IN is counted once a frame, up to 255: a framing error leaves the frame damaged and
goes on; an unknown frame and a truncation stop it (the absorb store emptied: log 36); surplus bytes
lead to DISCARD, counted whether or not the frame before them was (log 43). The header of a frame gives its length or makes it unknown, and a frame ends with the
last byte of that length and no other (a command that brings another length is no frame end, log 3). -/
def Obligations.LineFaultsAreCounted : Prop :=
  (∀ (s : State) (f : RxFrame), s.works = true → s.line.rx = .frame → s.line.rxFrame = some f →
    exec .framingError s = .next { s with line := { s.line with
        lineErrors := if f.damaged then s.line.lineErrors else min 255 (s.line.lineErrors + 1)
        rxFrame := some { f with damaged := true } } }
    ∧ (∃ t, exec .unknownFrame s = .next t ∧ s.stopsFrame f t .discard)
    ∧ (∃ t, exec .frameTruncation s = .next t ∧ s.stopsFrame f t .idle)
    ∧ ∃ t, exec .inIdleGap s = .next t ∧ s.stopsFrame f t .idle)
  ∧ (∀ s : State, s.works = true → s.line.rx = .ended →
    exec .surplusBytes s = .next { s with line := { s.line with
      rx := .discard, lineErrors := min 255 (s.line.lineErrors + 1) } })
  ∧ (∀ s : State, s.works = true →
    (s.line.rx = .settling ∨ s.line.rx = .ended ∨ s.line.rx = .discard) →
    exec .inIdleGap s = .next { s with line := { s.line with rx := .idle } })
  ∧ (∀ frame : List Byte, frame ≠ [] →
    let kind := byteAt frame 0
    let n := natAt frame 7
    let m := natAt frame 5
    (kind = 0x31#8 → 8 ≤ frame.length →
      headerOf frame = if n = 0 ∨ 200 < n then .unknown else .expects (8 + 12 * n + 2))
    ∧ (kind = 0x42#8 → 6 ≤ frame.length →
      headerOf frame = if 240 < m then .unknown else .expects (6 + m + 2))
    ∧ (kind = 0x43#8 → 6 ≤ frame.length →
      headerOf frame = if m < 4 ∨ 244 < m then .unknown else .expects (6 + m + 2))
    ∧ (kind = 0x44#8 → headerOf frame = .expects 5)
    ∧ (kind ≠ 0x31#8 → kind ≠ 0x42#8 → kind ≠ 0x43#8 → kind ≠ 0x44#8 → headerOf frame = .unknown))
  ∧ ∀ (c : Instr) (frame : List Byte) (s : State) (f : RxFrame), frameOf c = some frame →
    s.Receives (byteAt frame 0) (byteAt frame 1) f →
    (headerOf frame = .unknown → ∃ t, exec c s = .next t ∧ s.stopsFrame f t .discard)
    ∧ ∀ n, headerOf frame = .expects n → frame.length ≠ n → exec c s = .next s

/-- The FCS divides by x^16 + x^12 + x^5 + 1 from all ones, each byte most significant bit first, and
follows the frame high byte first; over the nine bytes 0x31 to 0x39 it is 0x29B1. SWEEP, ORDER and REPLY
have the bytes of their layouts. A frame leaves as it came but for the own slot written over it, closed
with a fresh FCS, complemented when the frame is bad. At its end a good
frame goes on as received, bad only when it was damaged; one whose FCS is bad counts one line error
unless it was counted before, is marked to leave bad, with the next address of an ENUMERATE rewritten
all the same where the node is eligible, and is not acted on. -/
def Obligations.BadFrameIsPassedOnBad : Prop :=
  crc [0x31#8, 0x32#8, 0x33#8, 0x34#8, 0x35#8, 0x36#8, 0x37#8, 0x38#8, 0x39#8] = 0x29B1#16
  ∧ crc [] = 0xFFFF#16
  ∧ (∀ (l : List Byte) (x : Byte),
      let divided := fun (r : Fcs) (i : Nat) => (r <<< 1)
        ^^^ (if r.getLsbD 15 = x.getLsbD (7 - i) then 0#16 else 0x1021#16)
      crc (l ++ [x]) = (List.range 8).foldl divided (crc l))
  ∧ (∀ l : List Byte, withFcs l = l ++ [(crc l).extractLsb' 8 8, (crc l).extractLsb' 0 8]
      ∧ fcsBytes (crc l) = [(crc l).extractLsb' 8 8, (crc l).extractLsb' 0 8])
  ∧ (∀ (code : Byte) (o : Order),
      o.frame code = [0x42#8, o.dest, o.authority, o.tag, code, byteOf o.body.length] ++ o.body)
  ∧ (∀ f : ReplyFrame, f.bytes = withFcs
      ([0x43#8, f.source, f.status, f.tag, f.code, byteOf f.body.length] ++ f.body))
  ∧ (∀ f : SweepFrame, f.bytes = withFcs ([0x31#8, f.number, f.control,
      f.masterTime.extractLsb' 24 8, f.masterTime.extractLsb' 16 8, f.masterTime.extractLsb' 8 8,
      f.masterTime.extractLsb' 0 8, byteOf f.slots.length] ++ f.slots.flatten))
  ∧ (∀ (x : OutFrame) (sent : List Byte),
      (x.slot = none → sent = frameBody x.bytes) →
      (∀ i slot, x.slot = some (i, slot) → sent = (frameBody x.bytes).take i ++ slot
        ++ (frameBody x.bytes).drop (i + slot.length)) →
      x.sentBytes = sent ++ fcsBytes (if x.bad then ~~~(crc sent) else crc sent))
  ∧ (∀ (l : LinePort) (f : RxFrame) (frame : List Byte),
      let m := l.closeFrame f frame true
      m = { l with
          rx := .ended, rxFrame := none, absorb := [], thru := m.thru, elastic := m.elastic }
        ∧ (f.route = .through → m.elastic = l.elastic ∧ m.thru = l.thru.map fun x =>
            { x with bytes := frame, ended := true, bad := f.damaged })
        ∧ (f.route = .buffered → m.thru = l.thru ∧ m.elastic = l.elastic.map fun x =>
            { x with bytes := frame, ended := true, bad := f.damaged })
        ∧ (f.route = .absorbed → m.thru = l.thru ∧ m.elastic = l.elastic))
  ∧ ∀ (frame : List Byte) (s : State) (f : RxFrame),
    s.Receives (byteAt frame 0) (byteAt frame 1) f → headerOf frame = .expects frame.length →
    f.route ≠ .absorbed → fcsGood frame = false →
    let next := byteAt frame 1
    let sent := if byteAt frame 0 = 0x44#8 ∧ s.line.ring = true ∧ (s.line.address = 0
        ∨ ((byteAt frame 2).getLsbD 0 = true ∧ f.reassignable = true)) ∧ 1 ≤ next.toNat ∧ next.toNat ≤ 200
      then frame.set 1 (next + 1#8) else frame
    ∃ t, exec (.badFcsFrameEnd frame) s = .next t
      ∧ t.line.rx = .ended ∧ t.line.rxFrame = none ∧ t.line.absorb = []
      ∧ t.line.lineErrors
          = (if f.damaged then s.line.lineErrors else min 255 (s.line.lineErrors + 1))
      ∧ (f.route = .through → t.line.elastic = s.line.elastic ∧ ∀ x ∈ s.line.thru,
          t.line.thru = some { x with bytes := sent, ended := true, bad := true })
      ∧ (f.route = .buffered → t.line.thru = s.line.thru ∧ ∀ x ∈ s.line.elastic,
          t.line.elastic = some { x with bytes := sent, ended := true, bad := true })
      ∧ t.line.address = s.line.address ∧ t.line.replySlot = s.line.replySlot
      ∧ t.line.tx = s.line.tx
      ∧ t = { s with line := t.line, sweep := { s.sweep with capture := [] } }

/-- An absorbed ORDER that is not acted on: with the reply slot occupied it is dropped; bad or
damaged and the slot empty, it is placed for re-emission, bad in either case. One line error is
counted. -/
def Obligations.OrderNotActedOnIsCountedOrReemitted : Prop :=
  (∀ (code : Byte) (o : Order) (fcs : Fcs) (s : State) (f : RxFrame), o.body.length ≤ 240 →
    s.Receives orderKind o.dest f → f.route = .absorbed →
    (fcsGood (o.frame code ++ fcsBytes fcs) = false ∨ f.damaged = true
      ∨ s.line.replySlot.isSome = true) →
    ∃ t, exec (.orderNotActedOn code o fcs) s = .next t
      ∧ s.droppedOrder f (o.frame code ++ fcsBytes fcs) t
      ∧ t = { s with line := t.line, node := { s.node with key := o.key } })
  ∧ ∀ (frame : List Byte) (s : State) (f : RxFrame),
    s.Receives (byteAt frame 0) (byteAt frame 1) f → headerOf frame = .expects frame.length →
    f.route = .absorbed → fcsGood frame = false →
    ∃ t, exec (.badFcsFrameEnd frame) s = .next t ∧ s.droppedOrder f frame t
      ∧ t = { s with line := t.line }

/-- A SWEEP whose phase equals the last accepted one is posted and ends there; it is forwarded all
the same. -/
def Obligations.RepeatedSweepIsPostedAlone : Prop :=
  ∀ (f : SweepFrame) (s : State) (r : RxFrame), f.wf = true → s.Receives sweepKind f.number r →
    r.damaged = false → s.sweep.lastPhase = some f.phase → s.sweepShowsDuplicate f = false →
    ∃ t, exec (.sweep f) s = .next t
      ∧ t.line = s.line.closeFrame r f.bytes true
      ∧ t.events = s.events.post ⟨.repeatedHeartbeat, 0, 0, s.take.clock⟩
      ∧ t = { s with line := t.line, events := t.events, sweep := { s.sweep with capture := [] } }

/-- An accepted SWEEP: the phase recorded, the watchdog restarted with the stream present while
armed, the lighting level taken with new target codes, and every record refreshed whose slot carries
the sweep's number or the one before it and the exists bit of its head: fresh now, with the aspect
(codes 5 to 7 read as DARK) and the proving state of the head byte; the heads whose faces refer to a
refreshed record re-test, and no other change comes to the heads. The clock then stands within 2 ms of
master time plus compensation, or is set to it and the due test is made at once, whatever the schedule
holds. A damaged SWEEP does nothing to the node. The model's choices: a SWEEP in progress across a
rebuild refreshes nothing (the flag capturing, log 6); a duplicate address is posted first (log 15); the
slew timer keeps its count where the new level ends the only ramp and begins another, of which R141 says
nothing (log 40); the paths that the due test begins follow the re-tests at the one event, so that a head
may change twice at it (log 34). -/
def Obligations.AcceptedSweepReachesTheBlocks : Prop :=
  ∀ (f : SweepFrame) (s : State) (r : RxFrame), f.wf = true → s.Receives sweepKind f.number r →
    (r.damaged = true → ∃ t, exec (.sweep f) s = .next t
      ∧ t.line = s.line.closeFrame r f.bytes true
      ∧ t = { s with line := t.line, sweep := { s.sweep with capture := [] } })
    ∧ (r.damaged = false → s.sweep.lastPhase ≠ some f.phase →
      let slot := fun (n : Neighbour) (i : Nat) => byteAt f.bytes (8 + 12 * (n.address.toNat - 1) + i)
      let hit := fun n : Neighbour => r.capturing = true
        ∧ 1 ≤ n.address.toNat ∧ n.address.toNat ≤ f.slots.length
        ∧ (slot n 0 = f.number ∨ slot n 0 = f.number - 1#8)
        ∧ (slot n (2 + n.head.val)).getLsbD 7 = true
      let shows := fun x : Byte => match (x.extractLsb' 0 3).toNat with
        | 1 => Aspect.open_ | 2 => .mergeL | 3 => .mergeR | 4 => .closed | _ => .dark
      let proves := fun x : Byte => match (x.extractLsb' 4 2).toNat with
        | 1 => Proving.proven | 2 => .degraded | 3 => .failed | _ => .unproven
      let refreshed := fun n : Neighbour => { n with
        aspect := shows (slot n (2 + n.head.val)), proving := proves (slot n (2 + n.head.val))
        lastRefresh := some s.now, fresh := true }
      let b := s.store.active
      let candidate := f.masterTime + BitVec.ofNat 32 b.compensation
      let ahead := (candidate - s.take.clock).toInt
      let level := (f.control.extractLsb' 1 3).toNat
      ∃ v : State,
        exec (.sweep f) s = .next (if -2 ≤ ahead ∧ ahead ≤ 2 then v
          else { v with take := { v.take with clock := candidate } }.dueTest)
        ∧ v = { s with
            line := s.line.closeFrame r f.bytes true
            sweep := { lastPhase := some (f.control.getLsbD 0), records := v.sweep.records, capture := [] }
            watchdog := if s.watchdog.armed then { armed := true, start := some s.now, stream := true }
              else s.watchdog
            lamp := { s.lamp with level := level }
            gantry := v.gantry
            events := if s.sweepShowsDuplicate f then
                s.events.post ⟨.duplicateAddress, 0, 0, s.take.clock⟩
              else s.events }
        ∧ v.sweep.records.length = s.sweep.records.length
        ∧ (∀ (i : Nat) (n : Neighbour), s.sweep.records[i]? = some n →
            (hit n → v.sweep.records[i]? = some (refreshed n))
            ∧ (¬hit n → v.sweep.records[i]? = some n))
        ∧ ∀ hs : List (Fin 8), (∀ h, h ∈ hs ↔ b.headExists h = true
              ∧ ∃ n ∈ s.sweep.records, hit n ∧ b.refersTo h n = true) → hs.Pairwise (· < ·) →
            let g := { s.env with records := v.sweep.records }.retestAll hs s.gantry
            v.gantry = (if level = s.lamp.level then g else { g with
                channels := v.gantry.channels, slew := v.gantry.slew })
              ∧ (level ≠ s.lamp.level →
                (∀ c : Fin 32, v.gantry.channels[c] = { g.channels[c] with
                    target := b.targetCode s.node.tablesValid level s.lamp.derate c })
                ∧ ((∃ c ∈ b.litChannels g.heads,
                      v.gantry.channels[c].output ≠ v.gantry.channels[c].target) →
                    v.gantry.slew = some (g.slew.getD 0))
                ∧ ((∀ c ∈ b.litChannels g.heads,
                      v.gantry.channels[c].output = v.gantry.channels[c].target) →
                    v.gantry.slew = none)))

/-- The own slot of a passing SWEEP is written from the node's state at one moment: the sweep's
number, the status byte, the eight head bytes, the line errors and the current plan. With address 0,
one above the slot count, or another kind of frame leaving, nothing is written. The slot count is the
one the command brings, and once the frame has ended on IN the frame's own. No SWEEP with room for it
leaves without the own slot: one for which no write came has it as of its leaving, and a write that
lies past the frame's slots is taken back (log 37). A slot once written stands (logs 3 and 37). -/
def Obligations.OwnSlotIsWrittenFromOneMoment : Prop :=
  (∀ (s : State) (x : OutFrame),
    let content := [x.second, s.statusByte] ++ (List.map s.headByte [0, 1, 2, 3, 4, 5, 6, 7])
      ++ [byteOf s.line.lineErrors, byteOf s.take.currentPlan]
    let own := some (8 + 12 * (s.line.address - 1), content)
    let writes := fun count : Nat =>
      x.kind = 0x31#8 ∧ 1 ≤ s.line.address ∧ s.line.address ≤ count
    (∀ n : Byte, s.works = true → s.line.tx = .passing → s.line.rx ≠ .brk →
      let count := if x.ended = true then natAt x.bytes 7 else n.toNat
      (s.line.thru = some x → exec (.ownSlotWrite n) s = .next (if x.slot = none ∧ writes count then
          { s with line := { s.line with thru := some { x with slot := own } } } else s))
      ∧ (s.line.thru = none → s.line.elastic = some x → s.line.outGap = true →
        exec (.ownSlotWrite n) s = .next (if x.slot = none ∧ writes count then
          { s with line := { s.line with elastic := some { x with slot := own } } } else s)))
    ∧ (s.withSlot x = { x with slot := (s.withSlot x).slot })
    ∧ (x.slot = none →
      (s.withSlot x).slot = if writes (natAt x.bytes 7) then own else none)
    ∧ ∀ i slot, x.slot = some (i, slot) → (s.withSlot x).slot =
        if i + slot.length ≤ 8 + 12 * natAt x.bytes 7 then x.slot else none)
  ∧ (∀ (n : Byte) (s : State), s.works = true →
      (s.line.address = 0 ∨ s.line.tx ≠ .passing ∨ s.line.rx = .brk
        ∨ (n.toNat < s.line.address
          ∧ ∀ x, s.line.thru = some x ∨ s.line.elastic = some x → x.ended = false)) →
      exec (.ownSlotWrite n) s = .next s)
  ∧ ∀ (s : State) (h : Fin 8),
    let hd := s.gantry.heads[h]
    let x := s.headByte h
    (s.store.active.headExists h = false → x = 0#8)
    ∧ (s.store.active.headExists h = true →
      x.extractLsb' 0 3 = (match hd.displayed with
        | .dark => 0#3 | .open_ => 1#3 | .mergeL => 2#3 | .mergeR => 3#3 | .closed => 4#3)
      ∧ (x.getLsbD 3 = true ↔ ∃ a, hd.shown = some (a, .alternate))
      ∧ x.extractLsb' 4 2 = (match hd.proving with
        | .unproven => 0#2 | .proven => 1#2 | .degraded => 2#2 | .failed => 3#2)
      ∧ (x.getLsbD 6 = true ↔ ∃ a, hd.target = some a ∧ a ≠ hd.displayed)
      ∧ x.getLsbD 7 = true)

/-- A passed REPLY is forwarded; from the node's own nonzero address it posts DUPLICATE_ADDRESS, as
a SWEEP does whose own slot carries its number. -/
def Obligations.DuplicateAddressIsPosted : Prop :=
  (∀ (f : ReplyFrame) (s : State) (r : RxFrame), f.wf = true → s.Receives replyKind f.source r →
    exec (.replyFrame f) s = .next { s with
      line := s.line.closeFrame r f.bytes true
      events := if r.damaged = false ∧ s.line.address ≠ 0 ∧ f.source.toNat = s.line.address
        then s.events.post ⟨.duplicateAddress, 0, 0, s.take.clock⟩ else s.events })
  ∧ ∀ (f : SweepFrame) (s : State) (r : RxFrame), f.wf = true → s.Receives sweepKind f.number r →
    r.damaged = false → 1 ≤ s.line.address → s.line.address ≤ f.slots.length →
    byteAt f.bytes (8 + 12 * (s.line.address - 1)) = f.number →
    ∃ t, exec (.sweep f) s = .next t
      ∧ ((∃ e ∈ t.events.queue, e.kind = .duplicateAddress) ∨ t.events.overflow = true)

/-- An eligible node sends an ENUMERATE on with next plus one and takes the address received; any
other sends it on as it came and keeps its address. Whether the node mode lets the reassign flag make it
eligible was settled as the flags byte arrived, and stands with the frame (log 6). -/
def Obligations.EnumerateAssignsAddresses : Prop :=
  ∀ (next flags : Byte) (s : State) (r : RxFrame), s.Receives enumerateKind next r →
    let eligible := s.line.ring = true ∧ (s.line.address = 0
      ∨ (flags.getLsbD 0 = true ∧ r.reassignable = true))
    let takes := eligible ∧ 1 ≤ next.toNat ∧ next.toNat ≤ 200
    (takes → exec (.enumerate next flags) s = .next { s with
      line := { s.line.closeFrame r (withFcs [enumerateKind, next, flags] |>.set 1 (next + 1#8)) true with
        address := if r.damaged then s.line.address else next.toNat } })
    ∧ (¬takes → exec (.enumerate next flags) s = .next { s with
      line := s.line.closeFrame r (withFcs [enumerateKind, next, flags]) true })

/-- The OUT arbiter: a gap starts a waiting reply before a buffered frame; a reply that has left
empties the slot, and the buffered frame leaves once the gap has passed, OUT at mark until then; a
passed frame that has left, a SWEEP with the own slot as of withSlot (log 37), is followed by the reply
after the gap, else by nothing. PASSING through the gap before a buffered frame is the row of R26's table
(log 9). A restart that waits for its reply is due when the reply has left, and comes before any other
command then (log 10). -/
def Obligations.OutArbiterHandsOutOn : Prop :=
  (∀ s : State, s.works = true → s.line.tx = .idle → s.line.rx ≠ .brk →
    exec .outGapElapsed s = .next { s with line := { s.line with
      outGap := true
      tx := if s.line.replySlot ≠ none then .replying
        else if s.line.elastic ≠ none then .passing else .idle } })
  ∧ (∀ s : State, s.works = true → s.line.tx = .passing → s.line.thru = none → s.line.rx ≠ .brk →
    exec .outGapElapsed s = .next { s with line := { s.line with outGap := true } }
    ∧ (s.line.outGap = false → s.outLevel = .mark ∧ exec .passThroughLeftOut s = .next s
        ∧ ∀ n, exec (.ownSlotWrite n) s = .next s)
    ∧ (s.line.outGap = true → s.outLevel = .sending))
  ∧ (∀ (s : State) (reply : List Byte), s.works = true → s.line.tx = .replying →
    s.line.rx ≠ .brk → s.line.replySlot = some reply →
    s.outLevel = .sending ∧ exec .replyLeftOut s = .next { s with
      line := { s.line with
        replySlot := none, lastSent := reply, outGap := false
        tx := if s.line.elastic ≠ none then .passing else .idle }
      node := { s.node with restartDue := s.node.restartPending.isSome } })
  ∧ (∀ (s : State) (x : OutFrame), s.works = true → s.line.tx = .passing → s.line.rx ≠ .brk →
    x.ended = true → s.line.thru = some x →
    exec .passThroughLeftOut s = .next { s with line := { s.line with
      thru := none, lastSent := (s.withSlot x).sentBytes, outGap := false
      tx := if s.line.replySlot = none ∧ s.line.elastic ≠ none then .passing else .idle } })
  ∧ ∀ (s : State) (x : OutFrame), s.works = true → s.line.tx = .passing → s.line.rx ≠ .brk →
    x.ended = true → s.line.thru = none → s.line.elastic = some x → s.line.outGap = true →
    exec .passThroughLeftOut s = .next { s with line := { s.line with
      elastic := none, lastSent := (s.withSlot x).sentBytes, outGap := false, tx := .idle } }

/-- A break is recognised in whatever state, OUT goes to space; its end resets the line: buffers,
slot and error count cleared, SETTLING, the RING address lost outside IN_SERVICE, FALLBACK and
LOCKOUT. A restart whose reply it drops is due, and comes before any other command then (log 10).
The rest of the node stands. -/
def Obligations.BreakResetsTheLine : Prop :=
  (∀ s : State, s.works = true → exec .lineBreak s = .next { s with line := { s.line with rx := .brk } }
      ∧ ({ s with line := { s.line with rx := .brk } } : State).outLevel = .space)
  ∧ ∀ s : State, s.works = true → s.line.rx = .brk →
    exec .lineReset s = .next { s with
      line := {
        address :=
          if s.line.ring = true ∧ (s.node.mode = .unconfigured ∨ s.node.mode = .outOfService) then 0
          else s.line.address
        ring := s.line.ring, lineErrors := 0, rx := .settling, rxFrame := none, absorb := []
        thru := none, elastic := none, replySlot := none, tx := .idle, outGap := false
        lastSent := s.line.lastSent }
      node := { s.node with restartDue := s.node.restartPending.isSome }
      sweep := { s.sweep with capture := [] } }

/-- An ORDER of a code outside the catalogue is answered UNKNOWN_ORDER when addressed and ignored
from a group; an ORDER for somebody else is passed on and nothing more. -/
def Obligations.UnknownAndForeignOrders : Prop :=
  (∀ (code : Byte) (o : Order) (s : State), catalogue.contains code = false → s.Addressed o →
    exec (.unknownOrder code o) s = .next ((s.received o).replied code o .unknownOrder []))
  ∧ (∀ (code : Byte) (o : Order) (s : State) (f : RxFrame), catalogue.contains code = false →
    s.Overhears o f → exec (.unknownOrder code o) s = .next (s.overheard code o f))
  ∧ ∀ (code : Byte) (o : Order) (s : State) (f : RxFrame), o.body.length ≤ 240 →
    s.Receives orderKind o.dest f → f.route ≠ .absorbed → s.hearsGroup o.dest = false →
    exec (.orderForwardedOnly code o) s = .next (s.overheard code o f)

/-! ## The orders: catalogue, checks, groups -/

/-- The catalogue of orders and the status codes of replies are the manual's tables, and the codes of the
catalogue are the codes of its rows. -/
def Obligations.CatalogueIsTheManuals : Prop :=
  let any := fun _ : State => True
  let keyed := fun _ : List Byte => True
  let free := fun _ : List Byte => False
  let len := fun (n : Nat) (b : List Byte) => b.length = n
  let served := fun s : State => s.node.mode = .inService ∨ s.node.mode = .fallback
  let configured := fun s : State => s.node.mode ≠ .unconfigured
  let idle := fun s : State =>
    s.node.mode = .unconfigured ∨ s.node.mode = .outOfService ∨ s.node.mode = .lockout
  let writeLength := fun b : List Byte =>
    3 ≤ b.length ∧ ∀ t ∈ Table.ofId (natAt b 0), b.length = 3 + natAt b 2 * t.size
  let writeKeyed := fun b : List Byte => ∃ t ∈ Table.ofId (natAt b 0), t.commissioning = true
  catalogueRow .readNode 0x01#8 (len 1) free any false
    ∧ catalogueRow .readLamps 0x02#8 (len 2) free any false
    ∧ catalogueRow .readEvents 0x03#8 (len 0) free any false
    ∧ catalogueRow .peekEvents 0x04#8 (len 0) free any false
    ∧ catalogueRow .tableWrite 0x10#8 writeLength writeKeyed any false
    ∧ catalogueRow .tableRead 0x11#8 (len 4) free any false
    ∧ catalogueRow .commitTables 0x12#8 (len 0) free any false
    ∧ catalogueRow .discardShadow 0x13#8 (len 0) free any false
    ∧ catalogueRow .stage 0x20#8 (len 1) free served true
    ∧ catalogueRow .take 0x21#8 (len 0) free
      (fun s => s.node.mode = .inService
        ∨ (s.node.mode = .fallback ∧ s.watchdog.stream = true)) true
    ∧ catalogueRow .takeAt 0x22#8 (len 4) free served true
    ∧ catalogueRow .cancelTakes 0x23#8 (fun b => b.length = 0 ∨ b.length = 4) free served true
    ∧ catalogueRow .enterService 0x30#8 (len 0) free (fun s => s.node.mode = .outOfService) false
    ∧ catalogueRow .leaveService 0x31#8 (len 0) keyed served false
    ∧ catalogueRow .hold 0x32#8 (len 0) keyed (fun s => s.node.mode = .inService) false
    ∧ catalogueRow .stepHeads 0x33#8 (len 0) keyed (fun s => s.node.mode = .inService) false
    ∧ catalogueRow .release 0x34#8 (len 0) keyed (fun s => s.node.mode = .inService) false
    ∧ catalogueRow .lampTest 0x40#8 (len 3) keyed (fun s => s.node.mode = .outOfService) false
    ∧ catalogueRow .clearLampFault 0x41#8 (len 1) free configured false
    ∧ catalogueRow .relearn 0x42#8 (len 1) keyed configured false
    ∧ catalogueRow .restartKeepTables 0x50#8 (len 1) keyed idle false
    ∧ catalogueRow .restartFull 0x50#8 (len 1) keyed idle false
    ∧ [Status.done, .started, .unknownOrder, .badLength, .notAuthorised, .wrongMode, .busy, .outOfRange,
        .unknownPlan, .nothingStaged, .scheduleFull, .tooLate, .noSuchEntry, .notFitted,
        .conflict].map Status.byte
      = [0x00#8, 0x01#8, 0x10#8, 0x11#8, 0x12#8, 0x13#8, 0x14#8, 0x20#8, 0x21#8, 0x22#8, 0x23#8, 0x24#8,
        0x25#8, 0x26#8, 0x27#8]
    ∧ ∀ code : Byte, catalogue.contains code = true ↔
        ∃ (c : Instr) (q : OrderSpec) (o : Order), orderRow c = some (q, o) ∧ q.code = code

/-- An addressed order of the catalogue meets the checks of length, authority, mode and, for
TABLE_WRITE and COMMIT_TABLES, a commit in flight, in this order; the first that fails is answered
with the summary alone and nothing else changes. -/
def Obligations.FirstFailingCheckRefusesTheOrder : Prop :=
  ∀ (c : Instr) (q : OrderSpec) (o : Order) (s : State), orderRow c = some (q, o) → s.Addressed o →
    let refused := fun st => exec c s = .next ((s.received o).replied q.code o st [])
    let keyed := o.authority = 1#8 ∧ o.key = true
    (q.lengthOk o.body = false → refused .badLength)
    ∧ (q.lengthOk o.body = true → q.commission o.body = true → ¬keyed → refused .notAuthorised)
    ∧ (q.lengthOk o.body = true → (q.commission o.body = true → keyed) → q.modeOk s = false →
        refused .wrongMode)
    ∧ (q.lengthOk o.body = true → (q.commission o.body = true → keyed) → q.modeOk s = true →
        (c = .tableWrite o ∨ c = .commitTables o) → s.store.validating = true → refused .busy)

/-- An order from a group or broadcast destination is passed on; one that groups do not reach, or
that fails its length or mode check, is dropped, and TAKE in FALLBACK without the stream also posts
TAKE_WITHOUT_STAGE. -/
def Obligations.GroupOrdersAreDropped : Prop :=
  ∀ (c : Instr) (q : OrderSpec) (o : Order) (s : State) (f : RxFrame), orderRow c = some (q, o) →
    s.Overhears o f →
    let t := s.overheard q.code o f
    (q.group = false → exec c s = .next t)
    ∧ (q.lengthOk o.body = false → exec c s = .next t)
    ∧ (q.modeOk s = false → (c = .take o → s.node.mode ≠ .fallback) → exec c s = .next t)
    ∧ (c = .take o → o.body = [] → s.node.mode = .fallback → s.watchdog.stream = false →
        exec c s = .next { t with
          events := s.events.post ⟨.takeWithoutStage, 0, 0, s.take.clock⟩ })

/-! ## The orders that read -/

/-- READ_NODE returns the 19-byte record, and clears the line error count when asked, after the
record is taken; a clear flag above 1 is refused. The commit results and the restart causes have the
codes of their tables. -/
def Obligations.ReadNodeReturnsTheRecord : Prop :=
  [CommitResult.none, .ok, .aborted, .nodeUnset, .timingUnset, .intensityUnset, .laneHeadMismatch,
      .patternNotFitted, .channelShared, .channelClassOverlap, .noEssential, .neighbourSelf, .noLanes,
      .planFace, .planNotFitted, .planTidalConflict, .planMergeTarget, .fallbackPlan,
      .commissioningInService].map CommitResult.code
    = [0x00, 0x01, 0x02, 0x10, 0x11, 0x12, 0x20, 0x21, 0x22, 0x23, 0x24, 0x25, 0x26, 0x30, 0x31, 0x32,
      0x33, 0x34, 0x40]
  ∧ [Cause.powerOn, .resetPin, .restartKeep, .restartFull].map Cause.code = [0, 1, 2, 3]
  ∧ ∀ (o : Order) (s : State), s.Addressed o → o.body.length = 1 →
    let t := s.received o
    let record :=
      [t.statusByte, byteOf s.store.lastResult.code, byteOf s.store.lastTable,
        byteOf s.store.lastIndex, byteOf s.node.restartCause.code,
        byteOf ((if s.node.tablesRetained then 1 else 0) + (if s.node.tablesValid then 2 else 0)
          + (if o.key then 4 else 0) + (if s.line.ring then 8 else 0)
          + (if s.watchdog.stream then 16 else 0) + (if s.lamp.derate then 32 else 0)),
        byteOf s.line.address] ++ be32 s.take.clock
      ++ [BitVec.ofInt 8 s.lamp.temperature, byteOf s.lamp.level, byteOf s.take.currentPlan,
        byteOf (s.take.pendingPlan.getD 0), byteOf s.take.schedule.length, t.alarmByte,
        byteOf (if t.alarmSummary then 1 else 0), byteOf s.line.lineErrors]
    (natAt o.body 0 = 0 → exec (.readNode o) s = .next (t.replied 0x01#8 o .done record))
    ∧ (natAt o.body 0 = 1 → exec (.readNode o) s
        = .next ({ t with line := { t.line with lineErrors := 0 } }.replied 0x01#8 o .done record))
    ∧ (1 < natAt o.body 0 → exec (.readNode o) s = .next (t.replied 0x01#8 o .outOfRange []))

/-- READ_LAMPS returns the records of the channels asked for, to channel 31 or 29 records; a first
channel above 31 is refused. -/
def Obligations.ReadLampsReturnsChannelRecords : Prop :=
  (∀ (o : Order) (s : State), s.Addressed o → o.body.length = 2 →
    let t := s.received o
    let first := natAt o.body 0
    let n := min (min (natAt o.body 1) (32 - first)) 29
    (first ≤ 31 → exec (.readLamps o) s = .next (t.replied 0x02#8 o .done
      (byteOf n :: (List.range n).flatMap fun i => t.channelRecord (Fin.ofNat 32 (first + i)))))
    ∧ (31 < first → exec (.readLamps o) s = .next (t.replied 0x02#8 o .outOfRange [])))
  ∧ ∀ (s : State) (c : Fin 32),
    let b := s.store.active
    let ch := s.gantry.channels[c]
    let now := (if c ∈ b.litChannels s.gantry.heads then 64 else 0) + (if ch.settle < 2 then 128 else 0)
    let record := fun owner : Nat =>
      [(if ch.state = .ok then 0#8 else if ch.state = .drift then 1#8
          else if ch.kind = .stuckOn then 3#8 else 2#8), byteOf (owner + now)]
        ++ be16 ch.output ++ be16 ch.lastM ++ be16 ch.ref
    ((∀ h, c ∉ b.headChannels h) → s.channelRecord c = record 0)
    ∧ ∀ h, c ∈ b.headChannels h → (∀ h', c ∈ b.headChannels h' → h' = h) →
      let inPattern := fun p => ∃ a ∈ litAspects, b.fitted h a = true
        ∧ c ∈ (b.pattern h a p).map PatternEntry.channel
      ∃ primary alternate : Bool, (primary = true ↔ inPattern .primary)
        ∧ (alternate = true ↔ inPattern .alternate)
        ∧ s.channelRecord c = record (h.val + 8 + (if primary then 16 else 0)
            + (if alternate then 32 else 0))

/-- PEEK_EVENTS returns the count, the overflow flag and the up to 4 oldest entries and changes
nothing; READ_EVENTS returns the same, removes them and clears the flag. Kinds have the codes and
objects of the table of event kinds. -/
def Obligations.EventsAreReadOldestFirst : Prop :=
  (∀ (c : Fin 32) (h : Fin 8) (a : Aspect) (p : Nat) (x : CommitResult) (k : Fin 4) (w : Cause),
    let aspect := match a with
      | .dark => 0 | .open_ => 1 | .mergeL => 2 | .mergeR => 3 | .closed => 4
    [EventKind.lampFailed c, .lampStuckOn c, .lampDrift c, .alternateInUse h a, .headFailed h,
        .sequenceStalled h, .fallbackEntered, .fallbackLeft, .repeatedHeartbeat, .duplicateAddress,
        .planUnknown p, .taken p, .scheduledTakeFailed p, .takeWithoutStage, .scheduleFull, .commitDone,
        .commitFailed x, .overTemperature, .temperatureNormal, .conflictLockout k, .restarted w].map
        (fun e => (e.code, e.object))
      = [(0x01, c.val), (0x02, c.val), (0x03, c.val), (0x04, h.val + 16 * aspect), (0x05, h.val),
        (0x06, h.val), (0x10, 0xFF), (0x11, 0xFF), (0x12, 0xFF), (0x13, 0xFF), (0x20, p), (0x21, p),
        (0x22, p), (0x23, 0xFF), (0x24, 0xFF), (0x30, 0xFF), (0x31, x.code), (0x40, 0xFF), (0x41, 0xFF),
        (0x50, k.val), (0x60, w.code)])
  ∧ ∀ (o : Order) (s : State), s.Addressed o → o.body = [] →
    let t := s.received o
    let oldest := s.events.queue.take 4
    let content := byteOf oldest.length :: (if s.events.overflow then 1#8 else 0#8) ::
      oldest.flatMap fun e =>
        [byteOf e.kind.code, byteOf e.kind.object, byteOf e.detailTable, byteOf e.detailIndex]
          ++ be32 e.stamp
    exec (.peekEvents o) s = .next (t.replied 0x04#8 o .done content)
    ∧ exec (.readEvents o) s = .next ({ t with
        events := { queue := s.events.queue.drop 4, overflow := false } }.replied 0x03#8 o .done
          content)

/-! ## The orders of the Table Store -/

/-- TABLE_WRITE takes its records in order: each in range goes whole into SHADOW, the first past the
end or out of range stops the write with its cause, and those before it stay; a table id outside
1..8 writes nothing. The tables have the ids, sizes, record counts and field ranges of the manual; a
record written replaces that record alone, and sets the written marker of NODE, TIMING and
INTENSITY. Every field that the other statements read is that at its offset in the record, in its unit:
of NODE, TIMING, INTENSITY, CALIBRATION, PLANS, LANES and HEADS; from these come the fitted aspects of a
head, its channels, permissive and restrictive, the face it serves, the head opposite to it, and the
records it refers to. (The face it serves is the first that names it: log 16. A lane kind above 3 and a plan code
above 4, which no checked table holds, read as ABSENT and as no target: log 20.) -/
def Obligations.TableWriteWritesRecordByRecord : Prop :=
  ([Table.node, .lanes, .heads, .plans, .timing, .intensity, .calibration, .alarmMask].map
      (fun t => (t.id, t.commissioning, t.records, t.size))
    = [(1, true, 1, 9), (2, true, 4, 11), (3, true, 8, 36), (4, false, 64, 9), (5, false, 1, 18),
      (6, false, 1, 19), (7, false, 32, 4), (8, false, 1, 1)])
  ∧ (∀ n t, Table.ofId n = some t ↔ n = t.id)
  ∧ (∀ (t : Table) (r : List Byte), r.length = t.size → (t.recordOk r = true ↔ recordInRange t r))
  ∧ (∀ (b : Bank) (t : Table) (i : Nat) (r : List Byte), i < (b.rows t).length →
    let w := b.write t i r
    w.row t i = r
      ∧ (∀ (t' : Table) (j : Nat), t' ≠ t ∨ j ≠ i → w.row t' j = b.row t' j)
      ∧ w.nodeWritten = (b.nodeWritten || t == .node)
      ∧ w.timingWritten = (b.timingWritten || t == .timing)
      ∧ w.intensityWritten = (b.intensityWritten || t == .intensity))
  ∧ (∀ (r : List Byte) (i : Nat), natAt r i = (r.getD i 0#8).toNat
      ∧ wordAt r i = 256 * (r.getD i 0#8).toNat + (r.getD (i + 1) 0#8).toNat)
  ∧ (∀ b : Bank,
    let node := b.row .node 0
    let timing := b.row .timing 0
    let intensity := b.row .intensity 0
    (b.compensation = natAt node 4 ∧ b.trackBand = natAt node 5 ∧ b.faultBand = wordAt node 6
      ∧ b.faultDelay = natAt node 8
      ∧ ∀ x : Byte, b.groupAddress x = true ↔ x ≠ 0#8 ∧ ∃ i < 4, byteAt node i = x)
    ∧ (b.dwellMs = 1000 * wordAt timing 0
      ∧ (∀ k : Fin 4, b.clearanceMs k = 1000 * wordAt timing (2 + 2 * k.val))
      ∧ b.stallMs = 1000 * wordAt timing 10 ∧ b.watchdogMs = 100 * natAt timing 12
      ∧ b.fallbackPolicy = natAt timing 13 ∧ b.staleMs = 100 * natAt timing 14
      ∧ b.slewStep = wordAt timing 15 ∧ b.slewTickMs = 10 * natAt timing 17)
    ∧ ((∀ l : Nat, b.intensityAt l = wordAt intensity (2 * l))
      ∧ b.threshold = 85 + 10 * (natAt intensity 16 : Int) ∧ b.derateCap = wordAt intensity 17)
    ∧ (∀ c : Fin 32,
      let word := wordAt (b.row .calibration c.val) 2
      b.gain c = wordAt (b.row .calibration c.val) 0
        ∧ b.offset c = if word < 32768 then (word : Int) else (word : Int) - 65536)
    ∧ (∀ (p : Nat) (k : Fin 4) (h : Fin 8),
      let plan := b.row .plans (p - 1)
      (b.planDefined p = true ↔ 1 ≤ p ∧ p ≤ 64 ∧ natAt plan 0 = 1)
        ∧ b.planCode p k .asc = natAt plan (1 + 2 * k.val)
        ∧ b.planCode p k .desc = natAt plan (2 + 2 * k.val)
        ∧ b.planTarget p h = (match b.planCode p (b.headLane h) (b.headFace h) with
          | 1 => some .open_ | 2 => some .mergeL | 3 => some .mergeR | 4 => some .closed | _ => none))
    ∧ (∀ k : Fin 4,
      let lane := b.row .lanes k.val
      let head := fun i => Fin.ofNat 8 (natAt lane i)
      let reference := fun i => if byteAt lane i = 0#8 then none
        else some (⟨byteAt lane i, head (i + 1)⟩ : Reference)
      b.laneKind k = (match natAt lane 0 with
          | 1 => LaneKind.ascOnly | 2 => .descOnly | 3 => .tidal | _ => .absent)
        ∧ (b.tidal k = true ↔ natAt lane 0 = 3)
        ∧ (b.facePresent k .asc = true ↔ natAt lane 0 = 1 ∨ natAt lane 0 = 3)
        ∧ (b.facePresent k .desc = true ↔ natAt lane 0 = 2 ∨ natAt lane 0 = 3)
        ∧ b.faceHead k .asc = head 1 ∧ b.faceHead k .desc = head 6
        ∧ b.upstream k .asc = reference 2 ∧ b.upstream k .desc = reference 7
        ∧ b.downstream k .asc = reference 4 ∧ b.downstream k .desc = reference 9)
    ∧ ∀ h : Fin 8,
      let head := b.row .heads h.val
      (b.headExists h = true ↔ natAt head 0 = 1)
        ∧ b.headLane h = Fin.ofNat 4 (natAt head 1)
        ∧ b.headFace h = (if natAt head 2 = 0 then .asc else .desc)
        ∧ b.closingMerge h = (if natAt head 3 = 2 then .mergeL else .mergeR)
        ∧ ∀ p : PatternKind,
          let entries := fun start : Nat =>
            (((List.range 4).map fun e => byteAt head
                (start + (match p with | .primary => 0 | .alternate => 4) + e)).filter
              fun x => x.getLsbD 7).map fun x =>
                (⟨Fin.ofNat 32 (x.extractLsb' 0 5).toNat, x.getLsbD 6⟩ : PatternEntry)
          b.pattern h .dark p = [] ∧ b.pattern h .open_ p = entries 4
            ∧ b.pattern h .mergeL p = entries 12 ∧ b.pattern h .mergeR p = entries 20
            ∧ b.pattern h .closed p = entries 28)
  ∧ (∀ b : Bank,
    b.faces = ([(0, .asc), (0, .desc), (1, .asc), (1, .desc), (2, .asc), (2, .desc), (3, .asc),
        (3, .desc)] : List (Fin 4 × Face)).filter (fun x => b.facePresent x.1 x.2)
    ∧ b.existing = ([0, 1, 2, 3, 4, 5, 6, 7] : List (Fin 8)).filter b.headExists
    ∧ ∀ h : Fin 8,
      let belongs := fun (as : List Aspect) (c : Fin 32) => b.headExists h = true ∧ ∃ a ∈ as,
        b.fitted h a = true ∧ ∃ p, ∃ x ∈ b.pattern h a p, x.channel = c
      let names := fun x : Fin 4 × Face => b.faceHead x.1 x.2 = h
      (∀ a, b.fitted h a = true ↔ b.pattern h a .primary ≠ [])
      ∧ (∀ c, (c ∈ b.headChannels h ↔ belongs [.open_, .mergeL, .mergeR, .closed] c)
        ∧ (c ∈ b.permissiveChannels h ↔ belongs [.open_, .mergeL, .mergeR] c)
        ∧ (c ∈ b.restrictiveChannels h ↔ belongs [.closed] c))
      ∧ (b.servedFace h = none ↔ ∀ x ∈ b.faces, ¬names x)
      ∧ (∀ before x after, b.faces = before ++ x :: after → names x → (∀ y ∈ before, ¬names y) →
          b.servedFace h = some x)
      ∧ (∀ o, b.oppositeHead h = some o ↔ ∃ k f, b.servedFace h = some (k, f) ∧ b.tidal k = true
          ∧ o = b.faceHead k (match f with | .asc => .desc | .desc => .asc))
      ∧ ∀ n : Neighbour, b.refersTo h n = true ↔ ∃ k f, b.servedFace h = some (k, f)
          ∧ (b.upstream k f = some ⟨n.address, n.head⟩ ∨ b.downstream k f = some ⟨n.address, n.head⟩))
  ∧ (∀ (o : Order) (s : State) (t : Table), s.Addressed o → Table.ofId (natAt o.body 0) = some t →
    o.body.length = 3 + natAt o.body 2 * t.size →
    (t.commissioning = true → o.authority = 1#8 ∧ o.key = true) → s.store.validating = false →
    let first := natAt o.body 1
    let record := fun i => (o.body.drop (3 + i * t.size)).take t.size
    ∀ n ≤ natAt o.body 2, (∀ i < n, first + i < t.records ∧ t.recordOk (record i) = true) →
      let u := s.received o
      let w := { u with store := { u.store with
        shadow := (List.range n).foldl (fun b i => b.write t (first + i) (record i)) s.store.shadow } }
      (n = natAt o.body 2 → exec (.tableWrite o) s = .next (w.replied 0x10#8 o .done [byteOf n]))
      ∧ (n < natAt o.body 2 → t.records ≤ first + n → exec (.tableWrite o) s
          = .next (w.replied 0x10#8 o .outOfRange [byteOf n, byteOf (first + n), 2#8]))
      ∧ (n < natAt o.body 2 → first + n < t.records → t.recordOk (record n) = false →
          exec (.tableWrite o) s
            = .next (w.replied 0x10#8 o .outOfRange [byteOf n, byteOf (first + n), 3#8])))
  ∧ ∀ (o : Order) (s : State), s.Addressed o → Table.ofId (natAt o.body 0) = none →
    3 ≤ o.body.length → s.store.validating = false →
    exec (.tableWrite o) s
      = .next ((s.received o).replied 0x10#8 o .outOfRange [0#8, byteAt o.body 1, 1#8])

/-- TABLE_READ returns the records of the bank named, to the table's end or 239 bytes, and zeros for
a commissioning table without honoured COMMISSION; table, bank or index out of range is refused. -/
def Obligations.TableReadReturnsRecords : Prop :=
  ∀ (o : Order) (s : State), s.Addressed o → o.body.length = 4 →
    let u := s.received o
    let first := natAt o.body 2
    (∀ t, Table.ofId (natAt o.body 0) = some t → natAt o.body 1 ≤ 1 → first < t.records →
      let n := min (min (natAt o.body 3) (t.records - first)) (239 / t.size)
      let bank := if natAt o.body 1 = 0 then s.store.active else s.store.shadow
      exec (.tableRead o) s = .next (u.replied 0x11#8 o .done
        (byteOf n :: (List.range n).flatMap fun i =>
          if t.commissioning = true ∧ ¬(o.authority = 1#8 ∧ o.key = true) then
            List.replicate t.size 0#8
          else bank.row t (first + i))))
    ∧ ((∀ t, Table.ofId (natAt o.body 0) = some t → 1 < natAt o.body 1 ∨ t.records ≤ first) →
      exec (.tableRead o) s = .next (u.replied 0x11#8 o .outOfRange []))

/-- COMMIT_TABLES starts the validation; DISCARD_SHADOW makes SHADOW equal to ACTIVE, and aborts a
commit in flight. -/
def Obligations.CommitStartsAndDiscardAborts : Prop :=
  ∀ (o : Order) (s : State), s.Addressed o → o.body = [] →
    let u := s.received o
    (s.store.validating = false → exec (.commitTables o) s = .next ({ u with
      store := { u.store with validating := true, commitAge := 0 } }.replied 0x12#8 o .started []))
    ∧ (s.store.validating = false → exec (.discardShadow o) s = .next ({ u with
      store := { u.store with shadow := s.store.active } }.replied 0x13#8 o .done [0#8]))
    ∧ (s.store.validating = true → exec (.discardShadow o) s = .next ({ u with
      store := {
        active := s.store.active, shadow := s.store.active, validating := false, commitAge := 0
        lastResult := .aborted, lastTable := 0, lastIndex := 0 } }.replied 0x13#8 o .done [1#8]))

/-! ## The orders of the Take Unit -/

/-- STAGE sets the pending plan to a plan defined in ACTIVE; an undefined plan is refused addressed,
and from a group clears the pending plan and posts PLAN_UNKNOWN; plans outside 1..64 change nothing,
and outside IN_SERVICE and FALLBACK it is refused or dropped. -/
def Obligations.StageSetsThePendingPlan : Prop :=
  (∀ (o : Order) (s : State), o.body.length = 1 →
    s.node.mode ≠ .inService → s.node.mode ≠ .fallback →
    (s.Addressed o → exec (.stage o) s = .next ((s.received o).replied 0x20#8 o .wrongMode []))
    ∧ ∀ f, s.Overhears o f → exec (.stage o) s = .next (s.overheard 0x20#8 o f))
  ∧ ∀ (o : Order) (s : State), o.body.length = 1 →
    (s.node.mode = .inService ∨ s.node.mode = .fallback) →
    let p := natAt o.body 0
    let staged := fun (u : State) (x : Option Nat) => { u with take := { u.take with pendingPlan := x } }
    (s.Addressed o →
      let u := s.received o
      (1 ≤ p → p ≤ 64 → s.store.active.planDefined p = true → exec (.stage o) s
        = .next ((staged u (some p)).replied 0x20#8 o .done []))
      ∧ (1 ≤ p → p ≤ 64 → s.store.active.planDefined p = false → exec (.stage o) s
        = .next (u.replied 0x20#8 o .unknownPlan []))
      ∧ (p = 0 ∨ 64 < p → exec (.stage o) s = .next (u.replied 0x20#8 o .outOfRange [])))
    ∧ ∀ f, s.Overhears o f →
      let u := s.overheard 0x20#8 o f
      (1 ≤ p → p ≤ 64 → s.store.active.planDefined p = true → exec (.stage o) s
        = .next (staged u (some p)))
      ∧ (1 ≤ p → p ≤ 64 → s.store.active.planDefined p = false → exec (.stage o) s
        = .next { staged u none with
            events := s.events.post ⟨.planUnknown p, 0, 0, s.take.clock⟩ })
      ∧ (p = 0 ∨ 64 < p → exec (.stage o) s = .next u)

/-- TAKE with a plan pending is a take of that plan, which is then no longer pending; with none it
is refused NOTHING_STAGED addressed, and posts TAKE_WITHOUT_STAGE from a group. In FALLBACK without
the stream, and in the other modes, it is refused WRONG_MODE or dropped, and the pending plan
stands. -/
def Obligations.TakeTakesThePendingPlan : Prop :=
  (∀ (o : Order) (s : State), o.body = [] → s.node.mode ≠ .inService →
    (s.node.mode = .fallback → s.watchdog.stream = false) →
    let missed := s.events.post ⟨.takeWithoutStage, 0, 0, s.take.clock⟩
    (s.Addressed o → exec (.take o) s = .next ((s.received o).replied 0x21#8 o .wrongMode []))
    ∧ ∀ f, s.Overhears o f → exec (.take o) s = .next { s.overheard 0x21#8 o f with
        events := if s.node.mode = .fallback then missed else s.events })
  ∧ ∀ (o : Order) (s : State), o.body = [] →
    (s.node.mode = .inService ∨ (s.node.mode = .fallback ∧ s.watchdog.stream = true)) →
    let taken := fun (u : State) (p : Nat) =>
      { u.takePlan p with take := { (u.takePlan p).take with pendingPlan := none } }
    (s.Addressed o →
      let u := s.received o
      (∀ p, s.take.pendingPlan = some p → exec (.take o) s
        = .next ((taken u p).replied 0x21#8 o .done [byteOf p]))
      ∧ (s.take.pendingPlan = none → exec (.take o) s
        = .next (u.replied 0x21#8 o .nothingStaged [])))
    ∧ ∀ f, s.Overhears o f →
      let u := s.overheard 0x21#8 o f
      (∀ p, s.take.pendingPlan = some p → exec (.take o) s = .next (taken u p))
      ∧ (s.take.pendingPlan = none → exec (.take o) s = .next { u with
          events := s.events.post ⟨.takeWithoutStage, 0, 0, s.take.clock⟩ })

/-- A take of plan p: every existing head in turn is given its face's code as target, and begins its path
to it with the node IN_SERVICE; from FALLBACK every existing head then re-tests. So each has its face's
code as target; the current plan is p, TAKEN is posted; from FALLBACK the node is IN_SERVICE with the
watchdog restarted and FALLBACK_LEFT posted. Heads that do not exist, and all else outside the gantry,
stand. -/
def Obligations.TakeOfAPlan : Prop :=
  ∀ (s : State) (p : Nat),
    let t := s.takePlan p
    let b := s.store.active
    (∀ (h : Fin 8) (a : Aspect), b.headExists h = true → b.planTarget p h = some a →
      t.gantry.heads[h].target = some a)
    ∧ (∀ h : Fin 8, b.headExists h = false → t.gantry.heads[h] = s.gantry.heads[h])
    ∧ (let e : Env := { s.env with
          mode := if s.node.mode = .fallback then .inService else s.node.mode }
        let heads := allHeads.filter b.headExists
        let begun := heads.foldl (fun g h =>
          match b.planTarget p h with
          | some a => e.setTarget h a g
          | none => g) s.gantry
        t.gantry = if s.node.mode = .fallback then e.retestAll heads begun else begun)
    ∧ t.take = { s.take with currentPlan := p }
    ∧ (s.node.mode ≠ .fallback → t.node = s.node ∧ t.watchdog = s.watchdog
      ∧ t.events = s.events.post ⟨.taken p, 0, 0, s.take.clock⟩)
    ∧ (s.node.mode = .fallback → t.node = { s.node with mode := .inService }
      ∧ t.watchdog = { s.watchdog with start := some s.now }
      ∧ t.events = (s.events.post ⟨.taken p, 0, 0, s.take.clock⟩).post
          ⟨.fallbackLeft, 0, 0, s.take.clock⟩)
    ∧ t.line = s.line ∧ t.store = s.store ∧ t.sweep = s.sweep ∧ t.lamp = s.lamp ∧ t.now = s.now

/-- TAKE_AT puts the pending plan on the schedule at its due time, in place of an entry of the same
due time or in order of time remaining; not in the future, beyond 24 hours, or with the schedule
full, it does not. -/
def Obligations.TakeAtSchedulesThePendingPlan : Prop :=
  (∀ (o : Order) (s : State), o.body.length = 4 →
    s.node.mode ≠ .inService → s.node.mode ≠ .fallback →
    (s.Addressed o → exec (.takeAt o) s = .next ((s.received o).replied 0x22#8 o .wrongMode []))
    ∧ ∀ f, s.Overhears o f → exec (.takeAt o) s = .next (s.overheard 0x22#8 o f))
  ∧ ∀ (o : Order) (s : State), o.body.length = 4 →
    (s.node.mode = .inService ∨ s.node.mode = .fallback) →
    let due := clockAt o.body 0
    let d := (due - s.take.clock).toNat
    let stands := ∃ e ∈ s.take.schedule, e.due = due
    let fits := 0 < d ∧ d ≤ 86400000 ∧ (stands ∨ s.take.schedule.length < 4)
    let withList := fun (u : State) (l : List ScheduleEntry) => { u with
      take := { u.take with pendingPlan := none, scheduleFull := false, schedule := l } }
    let entered := fun (p : Nat) (l : List ScheduleEntry) =>
      (stands → l = s.take.schedule.map fun e => if e.due = due then ⟨due, p⟩ else e)
      ∧ (¬stands → ∃ before after, s.take.schedule = before ++ after ∧ l = before ++ ⟨due, p⟩ :: after
          ∧ (∀ e ∈ before, (e.due - s.take.clock).toNat ≤ d)
          ∧ ∀ e ∈ after.head?, d < (e.due - s.take.clock).toNat)
    (s.Addressed o →
      let u := s.received o
      (s.take.pendingPlan = none → exec (.takeAt o) s
        = .next (u.replied 0x22#8 o .nothingStaged []))
      ∧ ∀ p, s.take.pendingPlan = some p →
        (d = 0 ∨ 2 ^ 31 ≤ d → exec (.takeAt o) s = .next (u.replied 0x22#8 o .tooLate []))
        ∧ (86400000 < d → d < 2 ^ 31 → exec (.takeAt o) s
          = .next (u.replied 0x22#8 o .outOfRange []))
        ∧ (0 < d → d ≤ 86400000 → ¬stands → 4 ≤ s.take.schedule.length → exec (.takeAt o) s
          = .next (u.replied 0x22#8 o .scheduleFull []))
        ∧ (fits → ∃ l, entered p l ∧ exec (.takeAt o) s
          = .next ((withList u l).replied 0x22#8 o .done
              (byteOf l.length :: be32 (due - s.take.clock)))))
    ∧ ∀ f, s.Overhears o f →
      let u := s.overheard 0x22#8 o f
      (s.take.pendingPlan = none → exec (.takeAt o) s = .next { u with
          events := s.events.post ⟨.takeWithoutStage, 0, 0, s.take.clock⟩ })
      ∧ ∀ p, s.take.pendingPlan = some p →
        (d = 0 ∨ 86400000 < d → exec (.takeAt o) s = .next u)
        ∧ (0 < d → d ≤ 86400000 → ¬stands → 4 ≤ s.take.schedule.length → exec (.takeAt o) s
          = .next { u with
              take := { u.take with scheduleFull := true }
              events := s.events.post ⟨.scheduleFull, 0, 0, s.take.clock⟩ })
        ∧ (fits → ∃ l, entered p l ∧ exec (.takeAt o) s = .next (withList u l))

/-- CANCEL_TAKES removes every entry, or the entry of the due time named, and clears the
schedule-full flag; a due time that no entry has changes nothing. -/
def Obligations.CancelTakesRemovesEntries : Prop :=
  (∀ (o : Order) (s : State), (o.body = [] ∨ o.body.length = 4) →
    s.node.mode ≠ .inService → s.node.mode ≠ .fallback →
    (s.Addressed o → exec (.cancelTakes o) s = .next ((s.received o).replied 0x23#8 o .wrongMode []))
    ∧ ∀ f, s.Overhears o f → exec (.cancelTakes o) s = .next (s.overheard 0x23#8 o f))
  ∧ ∀ (o : Order) (s : State), (s.node.mode = .inService ∨ s.node.mode = .fallback) →
    let due := clockAt o.body 0
    let stands := ∃ e ∈ s.take.schedule, e.due = due
    let withList := fun (u : State) (l : List ScheduleEntry) => { u with
      take := { u.take with scheduleFull := false, schedule := l } }
    let rest := s.take.schedule.filter fun e => e.due != due
    (s.Addressed o →
      let u := s.received o
      (o.body = [] → exec (.cancelTakes o) s = .next ((withList u []).replied 0x23#8 o .done
        [byteOf s.take.schedule.length]))
      ∧ (o.body.length = 4 → stands → exec (.cancelTakes o) s
        = .next ((withList u rest).replied 0x23#8 o .done
            [byteOf (s.take.schedule.length - rest.length)]))
      ∧ (o.body.length = 4 → ¬stands → exec (.cancelTakes o) s
        = .next (u.replied 0x23#8 o .noSuchEntry [])))
    ∧ ∀ f, s.Overhears o f →
      let u := s.overheard 0x23#8 o f
      (o.body = [] → exec (.cancelTakes o) s = .next (withList u []))
      ∧ (o.body.length = 4 → stands → exec (.cancelTakes o) s = .next (withList u rest))
      ∧ (o.body.length = 4 → ¬stands → exec (.cancelTakes o) s = .next u)

/-! ## The orders of Node Control and of commissioning -/

/-- ENTER_SERVICE: every existing head displays CLOSED on its primary, STEADY, settling and so
UNPROVEN; the channels of these patterns are lit at their target codes, each settling anew, and every
other channel is unlit at output 0; every TIDAL lane starts its clearance, nothing is pending, the
watchdog is armed without stream, the mode is IN_SERVICE. That a channel already lit, by a lamp test,
settles anew too is the model's reading (log 19), and that its output and a ramp it is in go on is the
model's choice (log 44). -/
def Obligations.EnterServiceClosesEveryHead : Prop :=
  ∀ (o : Order) (s : State), s.Addressed o → o.body = [] → s.node.mode = .outOfService →
    let b := s.store.active
    ∃ t : State, exec (.enterService o) s = .next (t.replied 0x30#8 o .done [])
      ∧ (∀ h : Fin 8, b.headExists h = true → t.gantry.heads[h] = { Head.reset with
          displayed := .closed, target := some .closed, stage := some .steady, proving := .unproven })
      ∧ (∀ h : Fin 8, b.headExists h = false → t.gantry.heads[h] = { Head.reset with
          proving := if s.gantry.heads[h].shown = none then s.gantry.heads[h].proving
            else .unproven })
      ∧ (∀ k : Fin 4, t.gantry.lanes[k] = if b.tidal k then
          { s.gantry.lanes[k] with clearSince := some s.now, clearCount := 0, clear := false }
        else s.gantry.lanes[k])
      ∧ s.gantry.relit t.gantry (fun c => c ∈ b.litChannels s.gantry.heads)
          (fun c => ∃ h : Fin 8, b.headExists h = true
            ∧ ∃ e ∈ b.pattern h .closed .primary, e.channel = c)
          (fun _ => True)
      ∧ (∀ h : Fin 8, b.headExists h = true → ∀ e ∈ b.pattern h .closed .primary,
          t.gantry.channels[e.channel].settle = 0)
      ∧ t.take = { s.take with
          pendingPlan := none, schedule := [], scheduleFull := false, currentPlan := 0 }
      ∧ t.watchdog = { armed := true, start := some s.now, stream := false }
      ∧ t.node = { (s.received o).node with hold := false, mode := .inService }
      ∧ t = { s.received o with
          gantry := t.gantry, take := t.take, watchdog := t.watchdog, node := t.node }

/-- LEAVE_SERVICE: every head dark without target or stage, its alternate flags kept, UNPROVEN,
every lit channel at output 0, the lanes unclear, nothing pending, the watchdog stopped, the mode
OUT_OF_SERVICE. -/
def Obligations.LeaveServiceDarkensEveryHead : Prop :=
  ∀ (o : Order) (s : State), s.Addressed o → o.body = [] → o.authority = 1#8 → o.key = true →
    (s.node.mode = .inService ∨ s.node.mode = .fallback) →
    let b := s.store.active
    ∃ t : State, exec (.leaveService o) s = .next (t.replied 0x31#8 o .done [])
      ∧ (∀ h : Fin 8, t.gantry.heads[h] = { Head.reset with
          altOpen := s.gantry.heads[h].altOpen, altMergeL := s.gantry.heads[h].altMergeL
          altMergeR := s.gantry.heads[h].altMergeR, altClosed := s.gantry.heads[h].altClosed
          proving := if s.gantry.heads[h].shown = none then s.gantry.heads[h].proving
            else .unproven })
      ∧ (∀ k : Fin 4, t.gantry.lanes[k]
          = { s.gantry.lanes[k] with clearSince := none, clearCount := 0, clear := false })
      ∧ (∀ c : Fin 32, t.gantry.channels[c] = if c ∈ b.litChannels s.gantry.heads then
          { s.gantry.channels[c] with output := 0, settle := 0, fault := 0 }
        else s.gantry.channels[c])
      ∧ t.gantry.slew = none
      ∧ t.take = { s.take with
          pendingPlan := none, schedule := [], scheduleFull := false, currentPlan := 0 }
      ∧ t.watchdog = { armed := false, start := none, stream := false }
      ∧ t.node = { (s.received o).node with hold := false, mode := .outOfService }
      ∧ t = { s.received o with
          gantry := t.gantry, take := t.take, watchdog := t.watchdog, node := t.node }

/-- HOLD sets the hold flag; RELEASE clears it, and changes nothing where it is clear. At a RELEASE
every existing head re-tests unheld, after the dwells, clearances and stalls that have reached their
intervals have completed (log 17; stalls posted in head order: log 42); no head is left in HELD. STEP without the flag is refused
WRONG_MODE; with it, it gives every existing head, in head order, the change of its stage's row, and
answers how many heads changed: none in STEADY; the held change in HELD; CLOSED in MERGING and
CLOSE_WAIT under the upstream condition; the target in OPENING_WAIT under the conditions of its
path. -/
def Obligations.HoldStepAndRelease : Prop :=
  (∀ (e : Env) (h : Fin 8) (g : Gantry),
    let row := g.heads[h].stage
    (row = none ∨ row = some .steady → e.stepHead h g = g)
    ∧ (row = some .held → e.stepHead h g = { e with hold := false }.beginPath h g)
    ∧ (row = some .merging ∨ row = some .closeWait →
        e.stepHead h g = if e.upstreamHolds h then e.change h .closed .steady g else g)
    ∧ (row = some .openingWait → ∀ a, g.heads[h].target = some a →
        e.stepHead h g = if e.openingHolds h a g then e.change h a .steady g else g))
  ∧ ∀ (o : Order) (s : State), s.Addressed o → o.body = [] → o.authority = 1#8 → o.key = true →
    s.node.mode = .inService →
    let u := s.received o
    let b := s.store.active
    let unheld := { s.env with hold := false }
    exec (.hold o) s
      = .next ({ u with node := { u.node with hold := true } }.replied 0x32#8 o .done [])
    ∧ (s.node.hold = false → exec (.release o) s = .next (u.replied 0x34#8 o .done []))
    ∧ (s.node.hold = true → ∃ t : State, exec (.release o) s = .next (t.replied 0x34#8 o .done [])
      ∧ (∀ h : Fin 8, s.store.active.headExists h = true →
          (s.gantry.heads[h].stage = some .held →
            s.gantry.heads[h].displayed ≠ .dark ∧ s.gantry.heads[h].target ≠ none) →
          t.gantry.heads[h].stage ≠ some .held)
      ∧ ((∀ h : Fin 8, s.gantry.heads[h].stage = some .merging →
              s.gantry.heads[h].mergeServed < b.dwellMs) →
          (∀ k : Fin 4, s.gantry.lanes[k].clear = false →
              s.gantry.lanes[k].clearCount < b.clearanceMs k) →
          (∀ h : Fin 8, s.gantry.heads[h].stalled = false →
              s.gantry.heads[h].waitTime < b.stallMs) →
          t.gantry = unheld.retestAll b.existing s.gantry ∧ t.events = s.events)
      ∧ (let done := unheld.completed true (fun _ => true) true s.take.clock s.gantry s.events;
          t.gantry = unheld.retestAll b.existing done.1 ∧ t.events = done.2)
      ∧ t = { u with
          node := { u.node with hold := false }, gantry := t.gantry, events := t.events })
    ∧ (s.node.hold = false → exec (.stepHeads o) s = .next (u.replied 0x33#8 o .wrongMode []))
    ∧ (s.node.hold = true → ∃ (t : State) (n : Nat),
      exec (.stepHeads o) s = .next (t.replied 0x33#8 o .done [byteOf n])
      ∧ n = (allHeads.filter fun h =>
          t.gantry.heads[h].displayed ≠ s.gantry.heads[h].displayed).length
      ∧ t = { u with gantry := t.gantry }
      ∧ t.gantry = b.existing.foldl (fun g h => s.env.stepHead h g) s.gantry
      ∧ (∀ h : Fin 8, b.headExists h = false ∨ s.gantry.heads[h].stage = some .steady →
          t.gantry.heads[h].displayed = s.gantry.heads[h].displayed
            ∧ t.gantry.heads[h].stage = s.gantry.heads[h].stage)
      ∧ (∀ (h : Fin 8) (a : Aspect), b.headExists h = true → s.gantry.heads[h].stage = some .held →
          s.gantry.heads[h].target = some a → s.gantry.heads[h].displayed ≠ a →
          (s.gantry.heads[h].displayed = .open_ → a = .closed →
            t.gantry.heads[h].displayed = b.closingMerge h
              ∧ t.gantry.heads[h].stage = some .merging)
          ∧ (s.gantry.heads[h].displayed.permissive = true → a.merge = true →
            t.gantry.heads[h].displayed = a ∧ t.gantry.heads[h].stage = some .steady))
      ∧ ∀ h : Fin 8, b.headExists h = true →
        (s.gantry.heads[h].stage = some .merging ∨ s.gantry.heads[h].stage = some .closeWait) →
        if s.env.upstreamHolds h then
          t.gantry.heads[h].displayed = .closed ∧ t.gantry.heads[h].stage = some .steady
        else t.gantry.heads[h] = s.gantry.heads[h])

/-- An accepted RESTART is answered and leaves the restart pending; other bodies are refused. -/
def Obligations.RestartWaitsForItsReply : Prop :=
  ∀ (o : Order) (s : State), s.Addressed o → o.body.length = 1 → o.authority = 1#8 → o.key = true →
    (s.node.mode = .unconfigured ∨ s.node.mode = .outOfService ∨ s.node.mode = .lockout) →
    let u := s.received o
    let waits := fun k => Host.Outcome.next ({ u with
      node := { u.node with restartPending := some k, restartDue := false } }.replied 0x50#8 o .done [])
    (natAt o.body 0 = 0 → exec (.restartKeepTables o) s = waits .keepTables)
    ∧ (natAt o.body 0 = 1 → exec (.restartFull o) s = waits .full)
    ∧ (1 < natAt o.body 0 → ∀ c, c = .restartKeepTables o ∨ c = .restartFull o →
      exec c s = .next (u.replied 0x50#8 o .outOfRange []))

/-! ## The orders of the Lamp Proving Unit -/

/-- LAMP_TEST, its checks in order: OUT_OF_RANGE, aspect 0 ends the head's test, NOT_FITTED,
CONFLICT; else the head shows the pattern named, its channels lit at their target codes and every one of
them settling (log 19). Channels of an earlier test pattern, and of a test that ends, become unlit with
output 0; those of the other heads stand. -/
def Obligations.LampTestShowsThePattern : Prop :=
  ∀ (o : Order) (s : State), s.Addressed o → o.body.length = 3 → o.authority = 1#8 → o.key = true →
    s.node.mode = .outOfService →
    let u := s.received o
    let b := s.store.active
    let code := natAt o.body 1
    let p := if natAt o.body 2 = 0 then PatternKind.primary else PatternKind.alternate
    let inRange := fun h : Fin 8 =>
      natAt o.body 0 = h.val ∧ b.headExists h = true ∧ code ≤ 4 ∧ natAt o.body 2 ≤ 1
    let refused := fun st => exec (.lampTest o) s = .next (u.replied 0x40#8 o st [])
    let opposed := fun h => ∃ (k : Fin 4) (f : Face) (x : LampTest), b.servedFace h = some (k, f)
      ∧ b.tidal k = true ∧ s.gantry.heads[b.faceHead k f.other].test = some x
      ∧ x.aspect.permissive = true
    let others := fun (h : Fin 8) (c : Fin 32) => ∃ i : Fin 8, i ≠ h
      ∧ ∃ e ∈ b.shownPattern i s.gantry.heads[i], e.channel = c
    ((∀ h, ¬inRange h) → refused .outOfRange)
    ∧ ∀ h, inRange h →
      (code = 0 → ∃ t : State, exec (.lampTest o) s = .next (t.replied 0x40#8 o .done [])
        ∧ t.gantry.heads[h] = { Head.reset with
            altOpen := s.gantry.heads[h].altOpen, altMergeL := s.gantry.heads[h].altMergeL
            altMergeR := s.gantry.heads[h].altMergeR, altClosed := s.gantry.heads[h].altClosed
            proving := if s.gantry.heads[h].shown = none then s.gantry.heads[h].proving
              else .unproven }
        ∧ s.gantry.relit t.gantry (fun c => c ∈ b.litChannels s.gantry.heads) (others h)
            (fun _ => False)
        ∧ (∀ i : Fin 8, i ≠ h → t.gantry.heads[i] = s.gantry.heads[i])
        ∧ t.gantry.lanes = s.gantry.lanes ∧ t = { u with gantry := t.gantry })
      ∧ ∀ a, Aspect.ofCode code = some a →
        (b.pattern h a .primary = [] ∨ b.pattern h a p = [] → refused .notFitted)
        ∧ (b.pattern h a .primary ≠ [] → b.pattern h a p ≠ [] →
          (a.permissive = true → opposed h → refused .conflict)
          ∧ (¬(a.permissive = true ∧ opposed h) →
            ∃ t : State, exec (.lampTest o) s = .next (t.replied 0x40#8 o .done [])
              ∧ t.gantry.heads[h] = { s.gantry.heads[h] with
                  displayed := a, test := some ⟨a, p⟩, proving := .unproven }
              ∧ (let named := fun c : Fin 32 => ∃ e ∈ b.pattern h a p, e.channel = c
                 s.gantry.relit t.gantry (fun c => c ∈ b.litChannels s.gantry.heads)
                   (fun c => named c ∨ others h c) named)
              ∧ (∀ i : Fin 8, i ≠ h → t.gantry.heads[i] = s.gantry.heads[i])
              ∧ t.gantry.lanes = s.gantry.lanes ∧ t = { u with gantry := t.gantry }))

/-- CLEAR_LAMP_FAULT makes the channels of the head, or all, OK with their counters at 0 and their
reference and last M kept, clears the alternate flags, settles the displayed patterns of the heads
concerned anew, on their primaries again, which makes these heads UNPROVEN, and answers how many channels
were DRIFT or FAILED. Other channels, heads and the lanes stand, but that the heads opposite to a proving
state that changed re-test after it (log 18). The slew timer keeps its count where it goes on (log 40).
RELEARN makes the learned reference of the channel, or of every channel, 1024 and keeps the rest. -/
def Obligations.ClearLampFaultAndRelearn : Prop :=
  (∀ (o : Order) (s : State), s.Addressed o → o.body.length = 1 → s.node.mode ≠ .unconfigured →
    let u := s.received o
    let x := natAt o.body 0
    let cleared := fun c => x = 255 ∨ ∃ h : Fin 8, h.val = x ∧ c ∈ s.store.active.headChannels h
    let b := s.store.active
    let concerned := fun h : Fin 8 => b.headExists h = true ∧ (x = 255 ∨ h.val = x)
    (7 < x → x ≠ 255 → exec (.clearLampFault o) s = .next (u.replied 0x41#8 o .outOfRange []))
    ∧ (x ≤ 7 ∨ x = 255 → ∃ (t : State) (gone : List (Fin 32)) (g : Gantry),
      exec (.clearLampFault o) s = .next (t.replied 0x41#8 o .done [byteOf gone.length])
      ∧ gone.Nodup ∧ (∀ c, c ∈ gone ↔ cleared c ∧ s.gantry.channels[c].state ≠ .ok)
      ∧ (∀ c : Fin 32, cleared c → t.gantry.channels[c].state = .ok
          ∧ t.gantry.channels[c].kind = .none ∧ t.gantry.channels[c].fault = 0
          ∧ t.gantry.channels[c].stuck = 0)
      ∧ (∀ c : Fin 32, t.gantry.channels[c].ref = s.gantry.channels[c].ref
          ∧ t.gantry.channels[c].lastM = s.gantry.channels[c].lastM
          ∧ t.gantry.channels[c].target = s.gantry.channels[c].target)
      ∧ (∀ (h : Fin 8) (a : Aspect), concerned h → t.gantry.heads[h].altFlag a = false)
      ∧ (∃ wiped : Gantry,
          (∀ c : Fin 32, (cleared c → wiped.channels[c] = { s.gantry.channels[c] with
              state := .ok, kind := .none, fault := 0, stuck := 0 })
            ∧ (¬cleared c → wiped.channels[c] = s.gantry.channels[c]))
          ∧ wiped = { s.gantry with channels := wiped.channels }
          ∧ wiped.relit g (fun c => c ∈ b.litChannels s.gantry.heads)
              (fun c => c ∈ b.litChannels g.heads)
              (fun c => ∃ h : Fin 8, concerned h ∧ ∃ e ∈ b.shownPattern h g.heads[h], e.channel = c))
      ∧ (∀ h : Fin 8, concerned h → g.heads[h] = { s.gantry.heads[h] with
          altOpen := false, altMergeL := false, altMergeR := false, altClosed := false
          proving := .unproven })
      ∧ (∀ h : Fin 8, ¬concerned h → g.heads[h] = s.gantry.heads[h])
      ∧ g.lanes = s.gantry.lanes
      ∧ t.gantry = s.env.retestAll ((b.existing.filter fun h =>
          g.heads[h].proving ≠ s.gantry.heads[h].proving).filterMap b.oppositeHead) g
      ∧ t = { u with gantry := t.gantry }))
  ∧ ∀ (o : Order) (s : State), s.Addressed o → o.body.length = 1 → o.authority = 1#8 → o.key = true →
    s.node.mode ≠ .unconfigured →
    let u := s.received o
    let x := natAt o.body 0
    (31 < x → x ≠ 255 → exec (.relearn o) s = .next (u.replied 0x42#8 o .outOfRange []))
    ∧ (x ≤ 31 ∨ x = 255 → ∃ t : State, exec (.relearn o) s = .next (t.replied 0x42#8 o .done [])
      ∧ (∀ c : Fin 32, t.gantry.channels[c] = if x = 255 ∨ c.val = x then
          { s.gantry.channels[c] with ref := 1024 } else s.gantry.channels[c])
      ∧ t = { u with gantry := { u.gantry with channels := t.gantry.channels } })

/-! ## The commit -/

/-- A commit's result is the first failure of R61's eleven steps over SHADOW, with its detail. A
commit that fails leaves both banks, records its result and posts COMMIT_FAILED; one that passes
makes SHADOW the model in force in every block, drops a pending plan no longer defined and, where
the HEADS table changed, lamp tests and alternate flags. The timers whose new interval has passed
complete at it: watchdog, dwell, stall, clearance and slew; and the clear flag of a lane whose interval
it raises above the count falls. In a hold a dwell, clearance or stall completes at it only where it
lowers the interval, and stands else (R102). Before these every existing head re-tests against the
new tables and records, unless held. A watchdog that is due in IN_SERVICE makes it fallback entry after
them. The model's choices: the order at the one event (log 17), of stalls by heads (log 42);
completions in a hold at the commit and not at the RELEASE (log 38); a head whose dwell completes and that
fallback entry then sends on, which changes its displayed aspect twice at the one event (log 34), to a merge
where the plan holds one (log 39); the conflict count of a lane whose kind changes, which stands (log 35); the slew step made with the old
count where the commit's recomputation ends the only ramp and begins another, of which R141 says nothing
(log 40). -/
def Obligations.CommitCompletes : Prop :=
  (∀ s : State,
    let b := s.store.shadow
    s.commitFailure = (((((((((b.checkUnset.or (b.checkLaneHeads b.faces [])).or b.checkFitted).or
      (b.checkShared b.existing [])).or b.checkOverlap).or b.checkEssential).or
      (b.checkSelf s.line.address)).or b.checkLanes).or b.checkPlans).or b.checkFallback).or
      (checkInService s.node.mode s.store.active b)
    ∧ b.checkUnset = (if b.nodeWritten = false then some ⟨.nodeUnset, 1, 0⟩
        else if b.timingWritten = false then some ⟨.timingUnset, 5, 0⟩
        else if b.intensityWritten = false then some ⟨.intensityUnset, 6, 0⟩ else none))
  ∧ (∀ (m : Mode) (a b : Bank),
    let differs := fun (t : Table) (i : Nat) => i < t.records ∧ a.row t i ≠ b.row t i
    let kept := fun t : Table => ∀ i, ¬differs t i
    let first := fun (t : Table) (f : CommitFailure) => f.result = .commissioningInService
      ∧ f.table = t.id ∧ differs t f.index ∧ ∀ i < f.index, ¬differs t i
    (m ≠ .inService → m ≠ .fallback → checkInService m a b = none)
    ∧ (m = .inService ∨ m = .fallback →
      (kept .node → kept .lanes → kept .heads → checkInService m a b = none)
      ∧ (¬kept .node → ∃ f, checkInService m a b = some f ∧ first .node f)
      ∧ (kept .node → ¬kept .lanes → ∃ f, checkInService m a b = some f ∧ first .lanes f)
      ∧ (kept .node → kept .lanes → ¬kept .heads →
          ∃ f, checkInService m a b = some f ∧ first .heads f)))
  ∧ ∀ s : State, s.works = true → s.store.validating = true →
    (∀ f, s.commitFailure = some f → exec .commitCompletion s = .next { s with
      store := { s.store with
        validating := false, commitAge := 0, lastResult := f.result, lastTable := f.table
        lastIndex := f.index }
      events := s.events.post ⟨.commitFailed f.result, f.table, f.index, s.take.clock⟩ })
    ∧ (s.commitFailure = none → ∃ t : State, exec .commitCompletion s = .next t
      ∧ (let new := s.store.shadow
         let due := s.watchdog.armed = true ∧ ∃ w ∈ s.watchdog.start, w + new.watchdogMs ≤ s.now
         let old := s.store.active
         let sameHeads := old.heads = new.heads
         let completes := fun was is : Nat => s.node.hold = false ∨ is < was
         t.store = {
            active := new, shadow := new, validating := false, commitAge := 0, lastResult := .ok
            lastTable := 0, lastIndex := 0 }
          ∧ t.node.tablesValid = true
          ∧ t.sweep = { s.sweep with
              records := new.references.map fun r => ⟨r.address, r.head, .dark, .unproven, none, false⟩
              capture := [] }
          ∧ (∀ c : Fin 32,
              t.gantry.channels[c].target = new.targetCode true s.lamp.level s.lamp.derate c
              ∧ t.gantry.channels[c].state = s.gantry.channels[c].state
              ∧ t.gantry.channels[c].kind = s.gantry.channels[c].kind
              ∧ t.gantry.channels[c].ref = s.gantry.channels[c].ref)
          ∧ (s.store.active.heads ≠ new.heads → ∀ h : Fin 8, t.gantry.heads[h].test = none
              ∧ ∀ a, t.gantry.heads[h].altFlag a = false)
          ∧ ((∃ e ∈ t.events.queue, e.kind = .commitDone) ∨ t.events.overflow = true)
          ∧ t.lamp = s.lamp ∧ t.line.address = s.line.address
          ∧ (¬due → t.watchdog = s.watchdog
              ∧ t.take = { s.take with pendingPlan := s.take.pendingPlan.filter new.planDefined }
              ∧ t.node = { s.node with
                  tablesValid := true
                  mode := if s.node.mode = .unconfigured then .outOfService else s.node.mode })
          ∧ (due → s.node.mode = .inService →
              t.node = { s.node with tablesValid := true, mode := .fallback, hold := false }
              ∧ t.watchdog = { armed := true, start := some s.now, stream := false }
              ∧ t.take = { s.take with
                  pendingPlan := none, schedule := [], scheduleFull := false
                  currentPlan := new.fallbackPolicy })
          ∧ (due → s.node.mode = .fallback → t.node = { s.node with tablesValid := true }
              ∧ t.watchdog = { armed := true, start := some s.now, stream := false }
              ∧ t.take = { s.take with pendingPlan := s.take.pendingPlan.filter new.planDefined })
          ∧ (sameHeads →
              let e : Env := {
                bank := new, hold := s.node.hold, now := s.now, records := t.sweep.records
                mode := if s.node.mode = .unconfigured then .outOfService else s.node.mode }
              let raised : Vector Lane 4 := Vector.ofFn fun k : Fin 4 =>
                let x := s.gantry.lanes[k]
                if new.tidal k = true ∧ x.clear = true ∧ x.clearCount < new.clearanceMs k then
                  { x with clear := false }
                else x
              let code := new.targetCode true s.lamp.level s.lamp.derate
              let lowers := fun was is : Nat => !s.node.hold || decide (is < was)
              ∃ (slew : Option Nat) (coded : Gantry),
                let tested := e.retestAll (allHeads.filter new.headExists)
                  { s.gantry with lanes := raised, slew := slew }
                let done := e.completed (lowers old.dwellMs new.dwellMs)
                  (fun k => lowers (old.clearanceMs k) (new.clearanceMs k))
                  (lowers old.stallMs new.stallMs) s.take.clock coded
                  (s.events.post ⟨.commitDone, 0, 0, s.take.clock⟩)
                let ends := fun g : Gantry =>
                  t.gantry = { g with channels := t.gantry.channels, slew := t.gantry.slew }
                coded = { tested with channels := coded.channels, slew := coded.slew }
                ∧ (∀ c : Fin 32, coded.channels[c] = { tested.channels[c] with target := code c })
                ∧ (¬due ∨ s.node.mode = .fallback → ends done.1 ∧ t.events = done.2)
                ∧ (due → s.node.mode = .inService →
                    ends ({ e with mode := .fallback, hold := false }.fallenBack done.1)
                    ∧ t.events = done.2.post ⟨.fallbackEntered, 0, 0, s.take.clock⟩))
          ∧ (¬due → sameHeads → 1 ≤ new.stallMs → ∀ h : Fin 8, new.headExists h = true →
              s.gantry.heads[h].stage = some .merging → completes old.dwellMs new.dwellMs →
              new.dwellMs ≤ s.gantry.heads[h].mergeServed →
              (s.node.hold = false ∧ t.env.upstreamHolds h = true →
                t.gantry.heads[h].displayed = .closed ∧ t.gantry.heads[h].stage = some .steady)
              ∧ (¬(s.node.hold = false ∧ t.env.upstreamHolds h = true) →
                t.gantry.heads[h] = { s.gantry.heads[h] with
                  stage := some .closeWait, waitStart := some s.now, waitTime := 0
                  stalled := false }))
          ∧ (¬due → sameHeads → ∀ h : Fin 8, new.headExists h = true →
              (s.gantry.heads[h].stage = some .closeWait
                ∨ s.gantry.heads[h].stage = some .openingWait) →
              s.gantry.heads[h].stalled = false → completes old.stallMs new.stallMs →
              new.stallMs ≤ s.gantry.heads[h].waitTime →
              t.gantry.heads[h].stage = s.gantry.heads[h].stage →
              t.gantry.heads[h].stalled = true
                ∧ ((∃ e ∈ t.events.queue, e.kind = .sequenceStalled h) ∨ t.events.overflow = true))
          ∧ (¬due → sameHeads → s.node.hold = true → ∀ h : Fin 8, new.headExists h = true →
              (s.gantry.heads[h].stage = some .merging → old.dwellMs ≤ new.dwellMs →
                t.gantry.heads[h] = s.gantry.heads[h])
              ∧ (s.gantry.heads[h].stage = some .closeWait
                  ∨ s.gantry.heads[h].stage = some .openingWait → old.stallMs ≤ new.stallMs →
                t.gantry.heads[h] = s.gantry.heads[h]))
          ∧ (¬due → sameHeads → 1 ≤ new.slewTickMs →
              (∀ h : Fin 8, new.headExists h = true → s.gantry.heads[h].stage = some .steady) →
              let lit := fun c => c ∈ new.litChannels s.gantry.heads
              (s.gantry.slew ≠ none → ∃ c : Fin 32, lit c
                ∧ s.gantry.channels[c].output ≠ s.gantry.channels[c].target) →
              t.gantry.heads = s.gantry.heads
              ∧ (∀ k : Fin 4, s.gantry.lanes[k].clearSince ≠ none →
                  t.gantry.lanes[k] = if new.tidal k then { s.gantry.lanes[k] with
                    clear := decide (new.clearanceMs k ≤ s.gantry.lanes[k].clearCount
                      ∧ (s.gantry.lanes[k].clear = true
                        ∨ completes (old.clearanceMs k) (new.clearanceMs k))) }
                  else s.gantry.lanes[k])
              ∧ ∀ c : Fin 32,
                  let x : Int := s.gantry.channels[c].output
                  let y : Int := t.gantry.channels[c].target
                  (t.gantry.channels[c].output : Int) =
                    if lit c ∧ ∃ n ∈ s.gantry.slew, new.slewTickMs ≤ n then
                      (if y - x > new.slewStep then x + new.slewStep
                       else if x - y > new.slewStep then x - new.slewStep else y)
                    else x)))

/-- The commissioning checks of a commit pass exactly when the description holds together: faces and
heads correspond one to one, aspects are fitted, channels are not shared, no channel is both
permissive and restrictive, every pattern has an essential entry, no reference names the node, a
lane is present. One that fails names the first record at fault; an existing head that no face names is
found only when every face has passed. -/
def Obligations.CommissioningConstraints : Prop :=
  ∀ b : Bank,
    let firstHead := fun (r : CommitResult) (fails : Fin 8 → Prop) (x : Option CommitFailure) =>
      ∀ f, x = some f → ∃ h : Fin 8, f = ⟨r, 3, h.val⟩ ∧ b.headExists h = true ∧ fails h
        ∧ ∀ h' < h, b.headExists h' = true → ¬fails h'
    let repeated := fun h : Fin 8 => ∃ a ∈ litAspects, b.fitted h a = true ∧ ∃ p,
      ¬((b.pattern h a p).map PatternEntry.channel).Nodup
    let shares := fun h h' : Fin 8 => ∃ c, c ∈ b.headChannels h ∧ c ∈ b.headChannels h'
    (b.checkLaneHeads b.faces [] = none ↔
      (∀ kf ∈ b.faces, b.headExists (b.faceHead kf.1 kf.2) = true
        ∧ b.headLane (b.faceHead kf.1 kf.2) = kf.1 ∧ b.headFace (b.faceHead kf.1 kf.2) = kf.2)
      ∧ ∀ h, b.headExists h = true → ∃ kf ∈ b.faces, b.faceHead kf.1 kf.2 = h)
    ∧ (∀ f, b.checkLaneHeads b.faces [] = some f →
        let head := fun kf : Fin 4 × Face => b.faceHead kf.1 kf.2
        let early := fun (before : List (Fin 4 × Face)) kf =>
          b.headExists (head kf) = false ∨ ∃ x ∈ before, head x = head kf
        let amiss := fun kf => b.headLane (head kf) ≠ kf.1 ∨ b.headFace (head kf) ≠ kf.2
        (∃ before kf after, b.faces = before ++ kf :: after
          ∧ (∀ l x r, before = l ++ x :: r → ¬early l x ∧ ¬amiss x)
          ∧ ((early before kf ∧ f = ⟨.laneHeadMismatch, 2, kf.1.val⟩)
            ∨ (¬early before kf ∧ amiss kf ∧ f = ⟨.laneHeadMismatch, 3, (head kf).val⟩)))
        ∨ ∃ h : Fin 8, f = ⟨.laneHeadMismatch, 3, h.val⟩ ∧ b.headExists h = true
          ∧ (∀ l x r, b.faces = l ++ x :: r → ¬early l x ∧ ¬amiss x)
          ∧ (∀ kf ∈ b.faces, head kf ≠ h)
          ∧ ∀ h' < h, b.headExists h' = true → ∃ kf ∈ b.faces, head kf = h')
    ∧ (b.checkFitted = none ↔ ∀ h, b.headExists h = true →
        b.fitted h .open_ = true ∧ b.fitted h .closed = true ∧ b.fitted h (b.closingMerge h) = true)
    ∧ firstHead .patternNotFitted (fun h => ¬(b.fitted h .open_ = true ∧ b.fitted h .closed = true
        ∧ b.fitted h (b.closingMerge h) = true)) b.checkFitted
    ∧ (b.checkShared b.existing [] = none ↔
      (∀ h, b.headExists h = true → ¬repeated h) ∧ ∀ h h', h ≠ h' → ¬shares h h')
    ∧ firstHead .channelShared (fun h => repeated h ∨ ∃ h' < h, shares h h')
        (b.checkShared b.existing [])
    ∧ (b.checkOverlap = none ↔
      ∀ h c, c ∈ b.permissiveChannels h → c ∉ b.restrictiveChannels h)
    ∧ firstHead .channelClassOverlap (fun h => ∃ c, c ∈ b.permissiveChannels h
        ∧ c ∈ b.restrictiveChannels h) b.checkOverlap
    ∧ (b.checkEssential = none ↔ ∀ h, b.headExists h = true → ∀ a ∈ litAspects,
        b.fitted h a = true → ∀ p, b.pattern h a p ≠ [] → ∃ e ∈ b.pattern h a p, e.essential = true)
    ∧ firstHead .noEssential (fun h => ∃ a ∈ litAspects, b.fitted h a = true ∧ ∃ p,
        b.pattern h a p ≠ [] ∧ ∀ e ∈ b.pattern h a p, e.essential = false) b.checkEssential
    ∧ (∀ address,
      let self := fun kf : Fin 4 × Face => ∃ r, (b.upstream kf.1 kf.2 = some r
        ∨ b.downstream kf.1 kf.2 = some r) ∧ r.address.toNat = address
      (b.checkSelf address = none ↔ address = 0 ∨ ∀ kf ∈ b.faces, ¬self kf)
      ∧ ∀ f, b.checkSelf address = some f → ∃ kf ∈ b.faces, self kf
        ∧ f = ⟨.neighbourSelf, 2, kf.1.val⟩ ∧ ∀ x ∈ b.faces, x.1 < kf.1 → ¬self x)
    ∧ (b.checkLanes = none ↔ ∃ k, b.laneKind k ≠ .absent)
    ∧ ∀ f, b.checkLanes = some f → f = ⟨.noLanes, 2, 0⟩

/-- The plan checks of a commit pass exactly when every defined plan codes present faces alone and
all of them, with fitted aspects, never both faces of a TIDAL lane permissive, every merge pointing
to a lane that the plan holds permissive in that direction, and the fallback plan is defined and
free of OPEN. The first plan at fault is named, with the first of its four checks that fails. -/
def Obligations.PlanConstraints : Prop :=
  ∀ b : Bank,
    let faces := fun p => ∀ k f, b.facePresent k f = true ↔ b.planCode p k f ≠ 0
    let fitted := fun p => ∀ k f a, b.facePresent k f = true →
      Aspect.ofCode (b.planCode p k f) = some a → b.fitted (b.faceHead k f) a = true
    let tidal := fun p => ∀ k, b.tidal k = true →
      ¬((1 ≤ b.planCode p k .asc ∧ b.planCode p k .asc ≤ 3)
        ∧ 1 ≤ b.planCode p k .desc ∧ b.planCode p k .desc ≤ 3)
    let merges := fun p => ∀ k f, b.facePresent k f = true →
      b.planCode p k f = 2 ∨ b.planCode p k f = 3 →
      ∃ j : Fin 4, b.facePresent j f = true ∧ 1 ≤ b.planCode p j f ∧ b.planCode p j f ≤ 3
        ∧ (if (f = .asc ↔ b.planCode p k f = 2) then j.val + 1 = k.val else j.val = k.val + 1)
    let sound := fun p => faces p ∧ fitted p ∧ tidal p ∧ merges p
    (b.checkPlans = none ↔ ∀ p, b.planDefined p = true → sound p)
    ∧ (∀ x, b.checkPlans = some x → ∃ p, b.planDefined p = true ∧ x.table = 4 ∧ x.index + 1 = p
        ∧ ¬sound p ∧ (∀ q < p, b.planDefined q = true → sound q)
        ∧ (¬faces p → x.result = .planFace)
        ∧ (faces p → ¬fitted p → x.result = .planNotFitted)
        ∧ (faces p → fitted p → ¬tidal p → x.result = .planTidalConflict)
        ∧ (faces p → fitted p → tidal p → x.result = .planMergeTarget))
    ∧ (b.checkFallback = none ↔ b.fallbackPolicy = 0 ∨ (b.planDefined b.fallbackPolicy = true
        ∧ ∀ k f, b.planCode b.fallbackPolicy k f ≠ 1))
    ∧ ∀ x, b.checkFallback = some x → x = ⟨.fallbackPlan, 5, 0⟩

/-! ## Timed events -/

/-- The due test: an entry is due with less than half the clock's range passed since its due time (with
exactly half remaining it is not, where R79 and R80 differ: log 31). Every due entry leaves the schedule
and the rest stay. Each fires in list order: a take when its plan is defined and the node is IN_SERVICE or
in FALLBACK with the stream, which posts TAKEN, and from FALLBACK the first also FALLBACK_LEFT; else it
posts SCHEDULED_TAKE_FAILED and no more. The last take made gives the current plan and the targets (several
at one test: log 14). With no entry due nothing changes; outside service the schedule is empty.
SCHEDULE_FIRING brings the first entry's moment, with no timer due before it (log 2), and the test there;
every command that moves the clock ends with the test, so it leaves no entry due. -/
def Obligations.ScheduleEntryFires : Prop :=
  (∀ (e : ScheduleEntry) (clock : Clock), e.isDue clock = true ↔ (clock - e.due).toNat < 2 ^ 31)
  ∧ (∀ s : State,
    let due := s.take.schedule.filter fun e => e.isDue s.take.clock
    let rest := s.take.schedule.filter fun e => !e.isDue s.take.clock
    let left := { s with take := { s.take with schedule := rest } }
    let takes := fun e : ScheduleEntry =>
      s.store.active.planDefined e.plan && (s.node.mode == .inService || s.watchdog.stream)
    let posts := fun (es : List ScheduleEntry) (q : EventUnit) => es.foldl (fun q e => q.post
      ⟨if takes e then .taken e.plan else .scheduledTakeFailed e.plan, 0, 0, s.take.clock⟩) q
    (due = [] → s.dueTest = s)
    ∧ (s.node.mode.serving = true →
      ((∀ e ∈ due, takes e = false) → s.dueTest = { left with events := posts due s.events })
      ∧ (∀ before e after, due = before ++ e :: after → takes e = true →
          (∀ x ∈ after, takes x = false) →
          s.dueTest = { left with
            take := { left.take with currentPlan := e.plan }
            gantry := (s.takePlan e.plan).gantry
            node := { s.node with mode := .inService }
            watchdog := if s.node.mode = .fallback then { s.watchdog with start := some s.now }
              else s.watchdog
            events := s.dueTest.events })
      ∧ (s.node.mode = .inService → s.dueTest.events = posts due s.events)
      ∧ (s.node.mode = .fallback → ∀ before e after, due = before ++ e :: after → takes e = true →
          (∀ x ∈ before, takes x = false) →
          s.dueTest.events = posts after
            ((posts (before ++ [e]) s.events).post ⟨.fallbackLeft, 0, 0, s.take.clock⟩))))
  ∧ (∀ (s : State) (e : ScheduleEntry) (rest : List ScheduleEntry), s.works = true →
    s.take.schedule = e :: rest →
    let n := if e.isDue s.take.clock then 0 else (e.due - s.take.clock).toNat
    n ≤ s.untilNext → exec .scheduleFiring s = .next (s.elapse n).dueTest)
  ∧ (∀ (s : State) (e : ScheduleEntry) (rest : List ScheduleEntry), s.works = true →
    s.take.schedule = e :: rest → (s.node.mode = .inService ∨ s.node.mode = .fallback) →
    let n := if e.isDue s.take.clock then 0 else (e.due - s.take.clock).toNat
    let u := s.elapse n
    let fired := { u with take := { u.take with schedule := rest } }
    n ≤ s.untilNext → (∀ x ∈ rest, 2 ^ 31 ≤ (u.take.clock - x.due).toNat) →
    (s.store.active.planDefined e.plan = true →
      (s.node.mode = .fallback → s.watchdog.stream = true) →
      exec .scheduleFiring s = .next (fired.takePlan e.plan))
    ∧ (s.store.active.planDefined e.plan = false
        ∨ (s.node.mode = .fallback ∧ s.watchdog.stream = false) →
      exec .scheduleFiring s = .next { fired with
        events := s.events.post ⟨.scheduledTakeFailed e.plan, 0, 0, u.take.clock⟩ }))
  ∧ (∀ (c : Instr) (s t : State), s.noneDue → exec c s = .next t →
    (c = .scheduleFiring ∨ c = .watchdogExpiry ∨ c = .slewTick ∨ (∃ h, c = .mergeDwellCompletion h)
      ∨ (∃ k, c = .clearanceCompletion k) ∨ (∃ h, c = .stallTimeout h)
      ∨ (∃ a h, c = .staleExpiry a h) ∨ (∃ r, c = .temperatureSample r) ∨ (∃ m, c = .sampleEvent m)
      ∨ ∃ f, c = .sweep f) →
    t.noneDue)
  ∧ ∀ s t : State, s.noneDue → s.pending = [] → step s = .next t → t.noneDue

/-- The armed watchdog expires when its interval has passed, and no timer falls due before that (log
2; the node at that moment is u): in FALLBACK the stream is gone and the interval restarts; from
IN_SERVICE the node falls back, with nothing pending and the hold ended. The existing heads in turn are
given the policy's targets and begin their paths, and every existing head then re-tests, in FALLBACK with
the hold flag clear. Under the HOLD policy a head that was closing goes on, and any other stands as
displayed; under a plan each has its face's code, also one whose merge dwell completes at the same
moment, for which R134 says CLOSED (the model's choice: log 39). No head comes to display OPEN. A schedule
entry due at that moment in FALLBACK fires after it (log 33). -/
def Obligations.WatchdogExpires : Prop :=
  ∀ (s : State) (start : Nat), s.works = true → s.watchdog.armed = true →
    s.watchdog.start = some start →
    let b := s.store.active
    let u := s.elapse (start + b.watchdogMs - s.now)
    start + b.watchdogMs - s.now ≤ s.untilNext →
    (s.node.mode = .fallback → exec .watchdogExpiry s = .next ({ u with
      watchdog := { armed := true, start := some u.now, stream := false } } : State).dueTest)
    ∧ (s.node.mode = .inService → ∃ t : State, exec .watchdogExpiry s = .next t
      ∧ t.node = { s.node with mode := .fallback, hold := false }
      ∧ t.events = s.events.post ⟨.fallbackEntered, 0, 0, u.take.clock⟩
      ∧ t.take = { u.take with
          pendingPlan := none, schedule := [], scheduleFull := false, currentPlan := b.fallbackPolicy }
      ∧ t.watchdog = { armed := true, start := some u.now, stream := false }
      ∧ (b.fallbackPolicy = 0 → ∀ h : Fin 8, b.headExists h = true →
          if s.gantry.heads[h].stage = some .merging ∨ s.gantry.heads[h].stage = some .closeWait then
            t.gantry.heads[h].target = s.gantry.heads[h].target
          else t.gantry.heads[h].target = some s.gantry.heads[h].displayed
            ∧ t.gantry.heads[h].displayed = s.gantry.heads[h].displayed)
      ∧ (let e : Env := { u.env with mode := .fallback, hold := false };
          t.gantry = e.fallenBack u.gantry
          ∧ (b.fallbackPolicy = 0 → ∀ h : Fin 8, b.headExists h = true →
            let x := u.gantry.heads[h]
            let now := t.gantry.heads[h]
            (x.stage = some .merging → now = x)
            ∧ (x.stage = some .closeWait →
              (e.upstreamHolds h = false → now = x)
              ∧ (e.upstreamHolds h = true → now.displayed = .closed ∧ now.stage = some .steady
                ∧ now.waitStart = none ∧ now.stalled = false))
            ∧ (x.stage = some .steady → x.target = some x.displayed → now = x)
            ∧ (x.stage ≠ some .merging → x.stage ≠ some .closeWait →
              x.target ≠ some x.displayed → now = { x with
                target := some x.displayed, stage := some .steady, waitStart := none, waitTime := 0
                stalled := false })))
      ∧ (b.fallbackPolicy ≠ 0 → ∀ (h : Fin 8) (a : Aspect), b.headExists h = true →
          b.planTarget b.fallbackPolicy h = some a → t.gantry.heads[h].target = some a)
      ∧ (∀ h : Fin 8, t.gantry.heads[h].displayed = .open_ → s.gantry.heads[h].displayed = .open_)
      ∧ t = { u with
          node := t.node, events := t.events, take := t.take, watchdog := t.watchdog
          gantry := t.gantry })

/-- The sequencer's timers complete in unheld time, each when no timer falls due before it (log 2;
the node at that moment is u): a merge dwell goes on to CLOSED or CLOSE_WAIT; a clearance sets the
lane clear flag and lets the lane's faces re-test, so that a head waiting on it opens, or goes on waiting
where its other conditions fail; a wait stalls; and a record gone stale is no
longer fresh, while heads that do not refer to it stand and the others re-test. A schedule entry due at
the same moment fires after it, at the due test of the clock then reached (log 33). -/
def Obligations.SequencerTimersComplete : Prop :=
  (∀ (s : State) (h : Fin 8), s.works = true → s.node.hold = false →
    s.store.active.headExists h = true → s.gantry.heads[h].stage = some .merging →
    s.gantry.heads[h].mergeSince ≠ none →
    let n := s.store.active.dwellMs - s.gantry.heads[h].mergeServed
    let u := s.elapse n
    n ≤ s.untilNext →
    ∃ t : State, exec (.mergeDwellCompletion h) s = .next t.dueTest ∧ t = { u with gantry := t.gantry }
      ∧ (∀ i : Fin 8, i ≠ h → t.gantry.heads[i] = u.gantry.heads[i])
      ∧ if u.env.upstreamHolds h then
          t.gantry.heads[h].displayed = .closed ∧ t.gantry.heads[h].stage = some .steady
        else t.gantry.heads[h] = { u.gantry.heads[h] with
          stage := some .closeWait, waitStart := some u.now, waitTime := 0, stalled := false })
  ∧ (∀ (s : State) (k : Fin 4), s.works = true → s.node.hold = false →
    s.store.active.tidal k = true → s.gantry.lanes[k].clearSince ≠ none →
    s.gantry.lanes[k].clear = false →
    let b := s.store.active
    let n := b.clearanceMs k - s.gantry.lanes[k].clearCount
    let u := s.elapse n
    let cleared := { u.gantry with
      lanes := u.gantry.lanes.set k { u.gantry.lanes[k] with clear := true } }
    let still := fun h : Fin 8 =>
      u.gantry.heads[h].stage = some .steady ∨ u.gantry.heads[h].stage = some .merging
    n ≤ s.untilNext →
    ∃ t : State, exec (.clearanceCompletion k) s = .next t.dueTest ∧ t = { u with gantry := t.gantry }
      ∧ (∀ i : Fin 8, i ≠ b.faceHead k .asc → i ≠ b.faceHead k .desc →
          t.gantry.heads[i] = u.gantry.heads[i])
      ∧ t.gantry = u.env.retestAll [b.faceHead k .asc, b.faceHead k .desc] cleared
      ∧ (still (b.faceHead k .asc) → still (b.faceHead k .desc) → t.gantry = cleared)
      ∧ (∀ (f : Face) (a : Aspect), still (b.faceHead k f.other) →
          u.gantry.heads[b.faceHead k f].stage = some .openingWait →
          u.gantry.heads[b.faceHead k f].target = some a →
          u.env.openingHolds (b.faceHead k f) a cleared = false → t.gantry = cleared)
      ∧ ∀ (f : Face) (a : Aspect), still (b.faceHead k f.other) →
          u.gantry.heads[b.faceHead k f].stage = some .openingWait →
          u.gantry.heads[b.faceHead k f].target = some a →
          u.env.openingHolds (b.faceHead k f) a cleared = true →
          t.gantry.heads[b.faceHead k f].displayed = a
            ∧ t.gantry.heads[b.faceHead k f].stage = some .steady)
  ∧ (∀ (s : State) (h : Fin 8), s.works = true → s.node.hold = false →
    s.store.active.headExists h = true →
    (s.gantry.heads[h].stage = some .closeWait ∨ s.gantry.heads[h].stage = some .openingWait) →
    s.gantry.heads[h].stalled = false → s.gantry.heads[h].waitStart ≠ none →
    let n := s.store.active.stallMs - s.gantry.heads[h].waitTime
    let u := s.elapse n
    n ≤ s.untilNext → exec (.stallTimeout h) s = .next ({ u with
      gantry := { u.gantry with
        heads := u.gantry.heads.set h { u.gantry.heads[h] with stalled := true } }
      events := s.events.post ⟨.sequenceStalled h, 0, 0, u.take.clock⟩ } : State).dueTest)
  ∧ ∀ (s : State) (n : Neighbour) (refreshed : Nat), s.works = true →
    s.sweep.records.find? (fun r => r.address == n.address && r.head == n.head) = some n →
    n.fresh = true → n.lastRefresh = some refreshed →
    let u := s.elapse (refreshed + s.store.active.staleMs - s.now)
    refreshed + s.store.active.staleMs - s.now ≤ s.untilNext →
    ∃ t : State, exec (.staleExpiry n.address n.head) s = .next t.dueTest
      ∧ t.sweep = { s.sweep with records := s.sweep.records.map fun (r : Neighbour) =>
          if r.address = n.address ∧ r.head = n.head then { r with fresh := false } else r }
      ∧ (∀ h : Fin 8, s.store.active.refersTo h n = false → t.gantry.heads[h] = u.gantry.heads[h])
      ∧ (∀ hs : List (Fin 8), (∀ h, h ∈ hs ↔ s.store.active.headExists h = true
            ∧ s.store.active.refersTo h n = true) → hs.Pairwise (· < ·) →
          t.gantry = { u.env with records := t.sweep.records }.retestAll hs u.gantry)
      ∧ t = { u with sweep := t.sweep, gantry := t.gantry }

/-! ## The sequencer's conditions and paths -/

/-- A head may open under the conditions of its path: from CLOSED its guard (opposite head CLOSED
and not FAILED, lane clear), to OPEN the downstream condition and not in FALLBACK; the upstream and
downstream conditions hold without a reference, or on a fresh record of a proven or degraded head.
-/
def Obligations.OpeningAndClosingConditions : Prop :=
  ∀ (e : Env) (h : Fin 8) (k : Fin 4) (f : Face) (a : Aspect) (g : Gantry),
    e.bank.servedFace h = some (k, f) →
    let opposite := g.heads[e.bank.faceHead k f.other]
    let guard := e.bank.tidal k = true →
      opposite.displayed = .closed ∧ opposite.proving ≠ .failed ∧ g.lanes[k].clear = true
    let neighbour := fun (asked : List Aspect) (x : Option Reference) => ∀ r ∈ x, ∃ n,
      e.records.find? (fun n => n.address == r.address && n.head == r.head) = some n
        ∧ n.fresh = true ∧ n.aspect ∈ asked ∧ (n.proving = .proven ∨ n.proving = .degraded)
    let downstream := neighbour [.open_, .mergeL, .mergeR] (e.bank.downstream k f)
    (e.upstreamHolds h = true ↔
      neighbour [.mergeL, .mergeR, .closed] (e.bank.upstream k f))
    ∧ (e.downstreamHolds h = true ↔ downstream)
    ∧ (g.heads[h].displayed = .closed → a = .open_ →
        (e.openingHolds h a g = true ↔ guard ∧ downstream ∧ e.mode ≠ .fallback))
    ∧ (g.heads[h].displayed = .closed → a.merge = true →
        (e.openingHolds h a g = true ↔ guard))
    ∧ (g.heads[h].displayed.merge = true → a = .open_ →
        (e.openingHolds h a g = true ↔ downstream ∧ e.mode ≠ .fallback))

/-- The path from each lit aspect to each target, as far as the event at which it begins takes it,
held and unheld. A target that a head already has changes nothing; another ends its wait and begins
the new path. At a re-test, unheld, a waiting head makes its change where its conditions hold and a
head in HELD its held change; the rest, and every head while the hold flag is set, stand. A target taken
under the hold and then let go is the target taken with the flag clear. -/
def Obligations.PathsBeginAsTabled : Prop :=
  (∀ (e : Env) (h : Fin 8) (a : Aspect) (g : Gantry),
    (g.heads[h].target = some a → e.setTarget h a g = g)
    ∧ (g.heads[h].target ≠ some a → e.setTarget h a g = e.beginPath h { g with
        heads := g.heads.set h { g.heads[h] with
          target := some a, waitStart := none, waitTime := 0, stalled := false } }))
  ∧ (∀ (e : Env) (h : Fin 8) (a : Aspect) (g : Gantry),
    let unheld := { e with hold := false }
    g.heads[h].target ≠ some a → g.heads[h].displayed ≠ .dark →
    unheld.retest h ({ e with hold := true }.setTarget h a g) = unheld.setTarget h a g)
  ∧ (∀ (e : Env) (h : Fin 8) (g : Gantry),
    let row := g.heads[h].stage
    (e.hold = true ∨ row = none ∨ row = some .steady ∨ row = some .merging → e.retest h g = g)
    ∧ (e.hold = false → row = some .closeWait →
        e.retest h g = if e.upstreamHolds h then e.change h .closed .steady g else g)
    ∧ (e.hold = false → row = some .openingWait → ∀ a, g.heads[h].target = some a →
        e.retest h g = if e.openingHolds h a g then e.change h a .steady g else g)
    ∧ (e.hold = false → row = some .held → e.retest h g = e.beginPath h g)
    ∧ e.retestAll [] g = g ∧ ∀ hs, e.retestAll (h :: hs) g = e.retestAll hs (e.retest h g))
  ∧ ∀ (e : Env) (h : Fin 8) (a : Aspect) (g : Gantry), g.heads[h].target = some a → a ≠ .dark →
    let hd := g.heads[h]
    let now := (e.beginPath h g).heads[h]
    let stands := fun (st : Stage) => now = { hd with stage := some st }
    let waits := fun (st : Stage) => now = { hd with
      stage := some st, waitStart := some e.now, waitTime := 0, stalled := false }
    let shows := fun (x : Aspect) (st : Stage) (since : Option Nat) (served : Nat) =>
      now.displayed = x ∧ now.stage = some st ∧ now.target = some a ∧ now.mergeSince = since
        ∧ now.mergeServed = served ∧ now.waitStart = none ∧ now.stalled = false
    let opens := e.hold = false ∧ e.openingHolds h a g = true
    (hd.displayed = a → stands .steady)
    ∧ (hd.displayed = .open_ → a.merge = true →
        if e.hold then stands .held else shows a .steady (some e.now) 0)
    ∧ (hd.displayed = .open_ → a = .closed →
        if e.hold then stands .held else shows (e.bank.closingMerge h) .merging (some e.now) 0)
    ∧ (hd.displayed.merge = true → a.merge = true → hd.displayed ≠ a →
        if e.hold then stands .held else shows a .steady hd.mergeSince hd.mergeServed)
    ∧ (hd.displayed.merge = true → a = .open_ →
        (opens → shows .open_ .steady none 0) ∧ (¬opens → waits .openingWait))
    ∧ (hd.displayed.merge = true → a = .closed →
        (hd.mergeServed < e.bank.dwellMs → stands .merging)
        ∧ (e.bank.dwellMs ≤ hd.mergeServed →
          (e.hold = false ∧ e.upstreamHolds h = true → shows .closed .steady none 0)
          ∧ (¬(e.hold = false ∧ e.upstreamHolds h = true) → waits .closeWait)))
    ∧ (hd.displayed = .closed → a.permissive = true →
        (opens → shows a .steady (if a.merge then some e.now else none) 0)
        ∧ (¬opens → waits .openingWait))
    ∧ ∀ i : Fin 8, i ≠ h → (e.beginPath h g).heads[i] = g.heads[i]

/-! ## Lamps -/

/-- The drive arithmetic: intensity of the level, capped while derated, to the base code, and each
channel's gain and offset to its target code in 0..4095; 0 without valid tables. -/
def Obligations.DriveCodeArithmetic : Prop :=
  ∀ (b : Bank) (level : Nat) (derate : Bool) (c : Fin 32),
    let full := b.intensityAt level
    let effective := if derate = true then min full b.derateCap else full
    let base := (effective * 4095 + 500) / 1000
    let sum : Int := (base * b.gain c / 32768 : Nat) + b.offset c
    b.targetCode true level derate c
        = (if sum < 0 then 0 else if 4095 < sum then 4095 else sum.toNat)
      ∧ b.targetCode false level derate c = 0
      ∧ (50 ≤ effective → effective ≤ 1000 → 205 ≤ base ∧ base ≤ 4095)

/-- A head shows the pattern of its lamp test, or that of its displayed aspect, on its alternate where the
flag says so; the lit channels are those of the patterns shown. At a change of a head's displayed aspect
channels that join the lit set take their code at once,
those that leave it go to 0, the rest keep their output; a head whose pattern changes settles and is
UNPROVEN; on a TIDAL lane a face that leaves CLOSED ends the clearance, and one that comes to CLOSED
opposite a CLOSED face starts it. A slew tick, when no timer falls due before it (log 2; the node at
that moment is u), moves lit channels toward their code by the slew step and leaves the others, the
timer running on only while one ramps; a schedule entry due then fires after it (log 33). -/
def Obligations.OutputsFollowTheLitSet : Prop :=
  (∀ hd : Head,
    (∀ x, hd.test = some x → hd.shown = some (x.aspect, x.pattern))
    ∧ (hd.test = none → hd.displayed = .dark → hd.shown = none)
    ∧ (hd.test = none → hd.displayed ≠ .dark →
      hd.shown = some (hd.displayed, if (match hd.displayed with
        | .open_ => hd.altOpen | .mergeL => hd.altMergeL | .mergeR => hd.altMergeR
        | .closed => hd.altClosed | .dark => false) then .alternate else .primary)))
  ∧ (∀ (b : Bank) (heads : Vector Head 8),
    (∀ (h : Fin 8) (x : PatternEntry), x ∈ b.shownPattern h heads[h] ↔
      b.headExists h = true ∧ ∃ a p, heads[h].shown = some (a, p) ∧ x ∈ b.pattern h a p)
    ∧ ∀ c : Fin 32, c ∈ b.litChannels heads ↔
        ∃ h : Fin 8, ∃ x ∈ b.shownPattern h heads[h], x.channel = c)
  ∧
  (∀ (e : Env) (h : Fin 8) (a : Aspect) (st : Stage) (g : Gantry) (c : Fin 32),
    let was := c ∈ e.bank.litChannels g.heads
    let g' := e.change h a st g
    let is := c ∈ e.bank.litChannels g'.heads
    (¬was → is → g'.channels[c] = { g.channels[c] with
      output := g.channels[c].target, settle := 0, fault := 0, stuck := 0 })
    ∧ (was → ¬is → g'.channels[c] = { g.channels[c] with output := 0, settle := 0, fault := 0 })
    ∧ (was → is → g'.channels[c].output = g.channels[c].output)
    ∧ (¬was → ¬is → g'.channels[c] = g.channels[c])
    ∧ (g'.heads[h].shown ≠ g.heads[h].shown →
        (∃ x ∈ e.bank.shownPattern h g'.heads[h], x.channel = c) →
        g'.channels[c].settle = 0 ∧ g'.channels[c].fault = 0))
  ∧ (∀ (e : Env) (h : Fin 8) (a : Aspect) (st : Stage) (g : Gantry),
    let g' := e.change h a st g
    let was := g.heads[h].displayed
    (∀ i : Fin 8, g'.heads[i].proving
        = if g'.heads[i].shown = g.heads[i].shown then g.heads[i].proving else .unproven)
    ∧ (e.bank.servedFace h = none → g'.lanes = g.lanes)
    ∧ ∀ (k : Fin 4) (f : Face), e.bank.servedFace h = some (k, f) →
      (∀ j : Fin 4, j ≠ k → g'.lanes[j] = g.lanes[j])
      ∧ (e.bank.tidal k = false → g'.lanes[k] = g.lanes[k])
      ∧ (e.bank.tidal k = true →
        (was = .closed → a ≠ .closed → g'.lanes[k] = { g.lanes[k] with
          clearSince := none, clearCount := 0, clear := false })
        ∧ (was ≠ .closed → a = .closed →
          g'.lanes[k] = if g.heads[e.bank.faceHead k f.other].displayed = .closed then
            { g.lanes[k] with clearSince := some e.now, clearCount := 0, clear := false }
          else g.lanes[k])
        ∧ ((was = .closed ↔ a = .closed) → g'.lanes[k] = g.lanes[k])))
  ∧ ∀ (s : State) (n : Nat), s.works = true → s.gantry.slew = some n →
    let b := s.store.active
    let lit := fun c => c ∈ b.litChannels s.gantry.heads
    let u := s.elapse (b.slewTickMs - n)
    b.slewTickMs - n ≤ s.untilNext → ∃ t : State, exec .slewTick s = .next t.dueTest
      ∧ (∀ c : Fin 32, lit c →
          let x := s.gantry.channels[c]
          t.gantry.channels[c] = { x with output :=
            if (x.target : Int) - x.output > b.slewStep then x.output + b.slewStep
            else if (x.output : Int) - x.target > b.slewStep then x.output - b.slewStep
            else x.target })
      ∧ (∀ c : Fin 32, ¬lit c → t.gantry.channels[c] = s.gantry.channels[c])
      ∧ t.gantry.slew = (if ∃ c : Fin 32, lit c
          ∧ t.gantry.channels[c].output ≠ t.gantry.channels[c].target then some 0 else none)
      ∧ t = { u with gantry := { u.gantry with
          channels := t.gantry.channels, slew := t.gantry.slew } }

/-- A temperature reading, at the second at which it falls and with no timer due before it (the node
at that moment is u, with the count of the next second begun: logs 2 and 21), is held within
-40..125 °C and judged, with valid tables, against the threshold with 10 °C of hysteresis; a change
of the derate state posts its event and recomputes every target code, and nothing else does. A schedule
entry due then fires after it (log 33). -/
def Obligations.DerateFollowsTheTemperature : Prop :=
  ∀ (s : State) (reading : Int), s.works = true → 1000 - s.lamp.sinceReading ≤ s.untilNext →
    let v := s.elapse (1000 - s.lamp.sinceReading)
    let u := { v with lamp := { v.lamp with sinceReading := 0 } }
    let taken := max (-40) (min 125 reading)
    let threshold := s.store.active.threshold
    let withDerate := fun on => ({ u with lamp := { u.lamp with temperature := taken, derate := on } } : State)
    let stands := exec (.temperatureSample reading) s = .next (withDerate s.lamp.derate).dueTest
    let turns := fun (on : Bool) (k : EventKind) => ∃ t : State,
      exec (.temperatureSample reading) s = .next t.dueTest
        ∧ t = { withDerate on with
            gantry := t.gantry, events := s.events.post ⟨k, 0, 0, u.take.clock⟩ }
        ∧ t.gantry.heads = u.gantry.heads ∧ t.gantry.lanes = u.gantry.lanes
        ∧ ∀ c : Fin 32, t.gantry.channels[c] = { u.gantry.channels[c] with
            target := s.store.active.targetCode true s.lamp.level on c }
    (s.node.tablesValid = false → stands)
    ∧ (s.node.tablesValid = true →
      (s.lamp.derate = false → threshold ≤ taken → turns true .overTemperature)
      ∧ (s.lamp.derate = false → taken < threshold → stands)
      ∧ (s.lamp.derate = true → taken ≤ threshold - 10 → turns false .temperatureNormal)
      ∧ (s.lamp.derate = true → threshold - 10 < taken → stands))

/-- A channel at a sample: lit, it settles for two samples, is measured from 64 up by its deviation,
and fails after the fault delay; unlit, it fails as stuck on after the fault delay; FAILED is
latched. -/
def Obligations.ChannelsAreJudged : Prop :=
  ∀ (ch : Channel) (b : Bank) (c : Fin 32),
    let lit := ch.judgeLit b c
    let unlit := ch.judgeUnlit b c
    let q := min (ch.lastM * 1024 / ch.output) 2047
    let dev := ((q : Int) - ch.ref).natAbs
    let moved : Int := ch.ref + ((q : Int) - ch.ref).tdiv 16
    let measured := ch.settle = 2 ∧ ch.state ≠ .failed ∧ 64 ≤ ch.output
    (ch.settle < 2 → lit = ⟨{ ch with settle := ch.settle + 1 }, none⟩)
    ∧ (ch.settle = 2 → ch.state = .failed ∨ ch.output < 64 → lit = ⟨ch, none⟩)
    ∧ (measured → dev ≤ b.trackBand → lit = ⟨{ ch with
        ref := (if moved < 512 then 512 else if 1536 < moved then 1536 else moved).toNat
        fault := 0, state := .ok }, none⟩)
    ∧ (measured → b.trackBand < dev → dev ≤ b.faultBand → lit = ⟨{ ch with
        fault := 0, state := .drift }, if ch.state = .ok then some (.lampDrift c) else none⟩)
    ∧ (measured → b.trackBand < dev → b.faultBand < dev → ch.fault + 1 < b.faultDelay →
        lit = ⟨{ ch with fault := ch.fault + 1 }, none⟩)
    ∧ (measured → b.trackBand < dev → b.faultBand < dev → b.faultDelay ≤ ch.fault + 1 →
        lit = ⟨{ ch with state := .failed, kind := .current, fault := 0 }, some (.lampFailed c)⟩)
    ∧ (ch.state = .failed → unlit = ⟨ch, none⟩)
    ∧ (ch.state ≠ .failed → ch.lastM < 64 → unlit = ⟨{ ch with stuck := 0 }, none⟩)
    ∧ (ch.state ≠ .failed → 64 ≤ ch.lastM → ch.stuck + 1 < b.faultDelay →
        unlit = ⟨{ ch with stuck := ch.stuck + 1 }, none⟩)
    ∧ (ch.state ≠ .failed → 64 ≤ ch.lastM → b.faultDelay ≤ ch.stuck + 1 →
        unlit = ⟨{ ch with state := .failed, kind := .stuckOn, stuck := 0 },
          some (.lampStuckOn c)⟩)

/-- A sample event, at the 100 ms at which it falls and with no timer due before it (the node at
that moment is u, with the count of the next 100 ms begun: logs 2 and 21), takes nothing in
UNCONFIGURED and LOCKOUT. In the other modes every channel keeps its M and its judgement; every
existing head is judged over its displayed pattern; one newly FAILED on its primary goes to its
alternate and is UNPROVEN again, the channels of the alternate lit at their target codes and settling
anew, those of the primary alone at output 0, all others as judged; the events are those of the channels, then of the heads, then of
the lanes that trip. A TIDAL lane whose faces both show permissive current at two samples running
locks the node out; without a trip the heads opposite to a changed proving state re-test. A schedule entry
due then fires after it (log 33). -/
def Obligations.SampleEventJudgesTheGantry : Prop :=
  (∀ (p : List PatternEntry) (channels : Vector Channel 32),
    let failed := fun x : PatternEntry => channels[x.channel].state = .failed
    let settling := ∃ x ∈ p, channels[x.channel].settle < 2
    (p = [] ∨ settling → provingOf p channels = .unproven)
    ∧ (p ≠ [] → ¬settling →
      ((∃ x ∈ p, x.essential = true ∧ failed x) → provingOf p channels = .failed)
      ∧ ((∀ x ∈ p, x.essential = true → ¬failed x) → (∃ x ∈ p, failed x) →
          provingOf p channels = .degraded)
      ∧ ((∀ x ∈ p, ¬failed x) → provingOf p channels = .proven)))
  ∧ ∀ (s : State) (m : List Nat), s.works = true → 100 - s.lamp.sinceSample ≤ s.untilNext →
    let b := s.store.active
    let v := s.elapse (100 - s.lamp.sinceSample)
    let u := { v with lamp := { v.lamp with sinceSample := 0 } }
    let lit := fun c => c ∈ b.litChannels s.gantry.heads
    let sensed := fun c : Fin 32 =>
      { s.gantry.channels[c] with lastM := min (m.getD c.val 0) 4095 }
    let judged := fun c => if lit c then (sensed c).judgeLit b c else (sensed c).judgeUnlit b c
    let conflict := fun k : Fin 4 => b.tidal k = true ∧ ∀ f : Face,
      ∃ c ∈ b.permissiveChannels (b.faceHead k f), 64 ≤ (sensed c).lastM
    let trips := fun k : Fin 4 => conflict k ∧ 1 ≤ s.gantry.lanes[k].conflictCount
    let trip := ∃ k : Fin 4, trips k
    let proves := fun h : Fin 8 => provingOf (b.shownPattern h s.gantry.heads[h])
      (Vector.ofFn fun c : Fin 32 => (judged c).channel)
    let fails := fun h : Fin 8 => b.headExists h = true ∧ proves h = .failed
      ∧ s.gantry.heads[h].proving ≠ .failed
    let switches := fun (h : Fin 8) (a : Aspect) => fails h ∧ s.gantry.heads[h].test = none
      ∧ s.gantry.heads[h].shown = some (a, .primary) ∧ b.pattern h a .alternate ≠ []
    (s.node.mode = .unconfigured ∨ s.node.mode = .lockout → exec (.sampleEvent m) s = .next u.dueTest)
    ∧ (s.node.mode = .outOfService ∨ s.node.mode = .inService ∨ s.node.mode = .fallback →
      ∃ t : State, exec (.sampleEvent m) s = .next t.dueTest
        ∧ (∀ c : Fin 32, t.gantry.channels[c].lastM = min (m.getD c.val 0) 4095
            ∧ t.gantry.channels[c].state = (judged c).channel.state
            ∧ t.gantry.channels[c].kind = (judged c).channel.kind
            ∧ t.gantry.channels[c].ref = (judged c).channel.ref)
        ∧ (∀ (h : Fin 8) (a : Aspect), switches h a → t.gantry.heads[h].altFlag a = true)
        ∧ (∀ (hs : List (Fin 8)) (ks : List (Fin 4)) (posts : Fin 8 → EventKind),
            (∀ h, h ∈ hs ↔ fails h) → hs.Pairwise (· < ·) →
            (∀ k, k ∈ ks ↔ trips k) → ks.Pairwise (· < ·) →
            (∀ h ∈ hs, (∀ a, switches h a → posts h = .alternateInUse h a)
              ∧ ((∀ a, ¬switches h a) → posts h = .headFailed h)) →
            t.events = ((allChannels.filterMap fun c => (judged c).event) ++ hs.map posts
                ++ ks.map EventKind.conflictLockout).foldl
              (fun q k => q.post ⟨k, 0, 0, u.take.clock⟩) s.events)
        ∧ (¬trip → t.node = s.node ∧ t.take = u.take ∧ t.watchdog = s.watchdog ∧ t.lamp = u.lamp
            ∧ (∀ k : Fin 4, (conflict k → t.gantry.lanes[k].conflictCount = 1)
              ∧ (¬conflict k → t.gantry.lanes[k].conflictCount = 0))
            ∧ ∃ g : Gantry,
              (∀ h : Fin 8,
                let x := u.gantry.heads[h]
                (b.headExists h = false → g.heads[h] = x)
                ∧ (∀ a, switches h a → g.heads[h] = { x.setAlt a with proving := .unproven })
                ∧ (b.headExists h = true → (∀ a, ¬switches h a) →
                    g.heads[h] = { x with proving := proves h }))
              ∧ (∀ k : Fin 4, (conflict k → g.lanes[k] = { u.gantry.lanes[k] with conflictCount := 1 })
                ∧ (¬conflict k → g.lanes[k] = { u.gantry.lanes[k] with conflictCount := 0 }))
              ∧ { u.gantry with channels := Vector.ofFn fun c : Fin 32 => (judged c).channel }.relit g
                  lit (fun c => c ∈ b.litChannels g.heads)
                  (fun c => ∃ h a, switches h a ∧ ∃ x ∈ b.pattern h a .alternate, x.channel = c)
              ∧ t.gantry = u.env.retestAll ((b.existing.filter fun h =>
                  g.heads[h].proving ≠ s.gantry.heads[h].proving).filterMap b.oppositeHead) g)
        ∧ (trip → t.node = { s.node with mode := .lockout, hold := false }
            ∧ t.lamp = { u.lamp with power := false }
            ∧ t.watchdog = { armed := false, start := none, stream := false }
            ∧ t.take = { u.take with
                pendingPlan := none, schedule := [], scheduleFull := false, currentPlan := 0 }
            ∧ (∀ c : Fin 32, t.gantry.channels[c].output = 0)
            ∧ (∀ h : Fin 8, t.gantry.heads[h].displayed = .dark ∧ t.gantry.heads[h].target = none)
            ∧ (∀ k : Fin 4, t.gantry.lanes[k].conflictCount = 0)
            ∧ ∀ k : Fin 4, trips k →
                (∃ x ∈ t.events.queue, x.kind = .conflictLockout k) ∨ t.events.overflow = true)
        ∧ t.line = s.line ∧ t.store = u.store ∧ t.sweep = s.sweep)

/-! ## Events and alarms -/

/-- A post coalesces with an entry of its kind and object, else joins the end of the queue, else is
discarded with the overflow flag set. -/
def Obligations.PostsCoalesceOrOverflow : Prop :=
  ∀ (u : EventUnit) (e : Event),
    ((∃ x ∈ u.queue, x.kind = e.kind) → u.post e = u)
    ∧ ((∀ x ∈ u.queue, x.kind ≠ e.kind) → u.queue.length < 16 →
      u.post e = { u with queue := u.queue ++ [e] })
    ∧ ((∀ x ∈ u.queue, x.kind ≠ e.kind) → 16 ≤ u.queue.length →
      u.post e = { u with overflow := true })

/-- The eight alarm conditions, the summary under the mask that cannot hide A7, the ALARM output, and the
status byte. The node summary of every reply is the status byte, the current plan, the raw alarm
conditions and the number of events queued; a reply is its header with the length of its body, and the
body. -/
def Obligations.AlarmsAndStatus : Prop :=
  ∀ s : State,
    let b := s.store.active
    (s.alarm 0 = true ↔ ∃ h : Fin 8, b.headExists h = true ∧ s.gantry.heads[h].proving = .failed)
    ∧ (s.alarm 1 = true ↔ ∃ h : Fin 8, b.headExists h = true
        ∧ (s.gantry.heads[h].proving = .degraded
          ∨ ∃ a, s.gantry.heads[h].shown = some (a, .alternate)))
    ∧ (s.alarm 2 = true ↔ ∃ h : Fin 8, s.gantry.heads[h].stalled = true)
    ∧ (s.alarm 3 = true ↔ s.node.mode = .fallback)
    ∧ (s.alarm 4 = true ↔ s.lamp.derate = true)
    ∧ (s.alarm 5 = true ↔ 0 < s.line.lineErrors)
    ∧ (s.alarm 6 = true ↔ s.events.overflow = true)
    ∧ (s.alarm 7 = true ↔ s.node.mode = .lockout)
    ∧ (s.alarmSummary = true ↔ s.alarm 7 = true ∨ ∃ k : Fin 8, k.val < 7 ∧ s.alarm k = true
        ∧ (byteAt (b.row .alarmMask 0) 0).getLsbD k = false)
    ∧ s.alarmPin = (s.held || s.alarmSummary)
    ∧ (∀ k : Fin 8, s.alarmByte.getLsbD k = s.alarm k)
    ∧ s.statusByte.extractLsb' 0 3 = (match s.node.mode with
        | .unconfigured => 0#3 | .outOfService => 1#3 | .inService => 2#3 | .fallback => 3#3
        | .lockout => 4#3)
    ∧ s.statusByte.getLsbD 3 = s.node.hold ∧ s.statusByte.getLsbD 4 = s.store.validating
    ∧ s.statusByte.getLsbD 5 = s.alarmSummary
    ∧ s.statusByte.getLsbD 6 = !s.events.queue.isEmpty
    ∧ s.statusByte.getLsbD 7 = s.take.scheduleFull
    ∧ s.summary = [s.statusByte, byteOf s.take.currentPlan, s.alarmByte, byteOf s.events.queue.length]
    ∧ ∀ (source status tag code : Byte) (body : List Byte), replyBody source status tag code body
        = [0x43#8, source, status, tag, code, byteOf body.length] ++ body

/-! ## Safety -/

/-- The reset state is safe. -/
def Obligations.ResetStateIsSafe : Prop := State.reset.safe

/-- No step puts more than 16 entries in the event queue, or two with the same kind and object. -/
def Obligations.EventQueueStaysSound : Prop :=
  ∀ s t : State, s.queueSafe → step s = .next t → t.queueSafe

/-- No step parts the flags, the watchdog, the Take Unit and the lamp driver power from the mode. -/
def Obligations.ModeAgreesWithItsFlags : Prop :=
  ∀ s t : State, s.modesAgree → step s = .next t → t.modesAgree

/-- The pending plan always names a plan defined in ACTIVE. -/
def Obligations.PendingPlanStaysDefined : Prop :=
  ∀ s t : State, s.stagedPlanDefined → step s = .next t → t.stagedPlanDefined

/-- No step takes an item out of its range: line errors and address; plan numbers and the schedule
with its order; the records of both banks; the 20 ms of a commit, the second of a reading and the
100 ms of a sample; level and temperature; codes, references, settle, fault, stuck and conflict
counts; and the neighbour records, which are those of ACTIVE and fresh for no longer than the stale
limit. -/
def Obligations.ItemsStayInRange : Prop :=
  ∀ s t : State, s.rangesKept → step s = .next t → t.rangesKept

/-- A channel that belongs to no displayed pattern has output 0 after every step. -/
def Obligations.UnlitChannelsStayDark : Prop :=
  ∀ s t : State, s.unlitDark → step s = .next t → t.unlitDark

/-- After every step no TIDAL lane displays permissive aspects on both faces, and its clearance runs
exactly while both display CLOSED: a lane is clear only once that has lasted the interval. -/
def Obligations.OppositeFacesNeverBothOpen : Prop :=
  ∀ s t : State, s.lanesSafe → step s = .next t → t.lanesSafe
end

