-- ==== Sys2Proof/Laws/State.lean ====
section
/-! SUPPORT. What each operation leaves of the state: one lemma for each field it does not touch. -/

namespace Sys2Proof.Machine

@[simp] theorem State.onLine_node (s : State) (f : LinePort → LinePort) : (s.onLine f).node = s.node := by
  simp only [State.onLine]
@[simp] theorem State.onLine_store (s : State) (f : LinePort → LinePort) : (s.onLine f).store = s.store := by
  simp only [State.onLine]
@[simp] theorem State.onLine_take (s : State) (f : LinePort → LinePort) : (s.onLine f).take = s.take := by
  simp only [State.onLine]
@[simp] theorem State.onLine_gantry (s : State) (f : LinePort → LinePort) : (s.onLine f).gantry = s.gantry := by
  simp only [State.onLine]
@[simp] theorem State.onLine_sweep (s : State) (f : LinePort → LinePort) : (s.onLine f).sweep = s.sweep := by
  simp only [State.onLine]
@[simp] theorem State.onLine_watchdog (s : State) (f : LinePort → LinePort) : (s.onLine f).watchdog = s.watchdog := by
  simp only [State.onLine]
@[simp] theorem State.onLine_lamp (s : State) (f : LinePort → LinePort) : (s.onLine f).lamp = s.lamp := by
  simp only [State.onLine]
@[simp] theorem State.onLine_events (s : State) (f : LinePort → LinePort) : (s.onLine f).events = s.events := by
  simp only [State.onLine]
@[simp] theorem State.onLine_now (s : State) (f : LinePort → LinePort) : (s.onLine f).now = s.now := by
  simp only [State.onLine]
@[simp] theorem State.onLine_inputReads (s : State) (f : LinePort → LinePort) : (s.onLine f).inputReads = s.inputReads := by
  simp only [State.onLine]
@[simp] theorem State.onLine_pending (s : State) (f : LinePort → LinePort) : (s.onLine f).pending = s.pending := by
  simp only [State.onLine]
@[simp] theorem State.postDetail_line (s : State) (k : EventKind) (i j : Nat) : (s.postDetail k i j).line = s.line := by
  simp only [State.postDetail]
@[simp] theorem State.postDetail_node (s : State) (k : EventKind) (i j : Nat) : (s.postDetail k i j).node = s.node := by
  simp only [State.postDetail]
@[simp] theorem State.postDetail_store (s : State) (k : EventKind) (i j : Nat) : (s.postDetail k i j).store = s.store := by
  simp only [State.postDetail]
@[simp] theorem State.postDetail_take (s : State) (k : EventKind) (i j : Nat) : (s.postDetail k i j).take = s.take := by
  simp only [State.postDetail]
@[simp] theorem State.postDetail_gantry (s : State) (k : EventKind) (i j : Nat) : (s.postDetail k i j).gantry = s.gantry := by
  simp only [State.postDetail]
@[simp] theorem State.postDetail_sweep (s : State) (k : EventKind) (i j : Nat) : (s.postDetail k i j).sweep = s.sweep := by
  simp only [State.postDetail]
@[simp] theorem State.postDetail_watchdog (s : State) (k : EventKind) (i j : Nat) : (s.postDetail k i j).watchdog = s.watchdog := by
  simp only [State.postDetail]
@[simp] theorem State.postDetail_lamp (s : State) (k : EventKind) (i j : Nat) : (s.postDetail k i j).lamp = s.lamp := by
  simp only [State.postDetail]
@[simp] theorem State.postDetail_now (s : State) (k : EventKind) (i j : Nat) : (s.postDetail k i j).now = s.now := by
  simp only [State.postDetail]
@[simp] theorem State.postDetail_inputReads (s : State) (k : EventKind) (i j : Nat) : (s.postDetail k i j).inputReads = s.inputReads := by
  simp only [State.postDetail]
@[simp] theorem State.postDetail_pending (s : State) (k : EventKind) (i j : Nat) : (s.postDetail k i j).pending = s.pending := by
  simp only [State.postDetail]
@[simp] theorem State.post_line (s : State) (k : EventKind) : (s.post k).line = s.line := by
  simp only [State.post, State.postDetail]
@[simp] theorem State.post_node (s : State) (k : EventKind) : (s.post k).node = s.node := by
  simp only [State.post, State.postDetail]
@[simp] theorem State.post_store (s : State) (k : EventKind) : (s.post k).store = s.store := by
  simp only [State.post, State.postDetail]
@[simp] theorem State.post_take (s : State) (k : EventKind) : (s.post k).take = s.take := by
  simp only [State.post, State.postDetail]
@[simp] theorem State.post_gantry (s : State) (k : EventKind) : (s.post k).gantry = s.gantry := by
  simp only [State.post, State.postDetail]
@[simp] theorem State.post_sweep (s : State) (k : EventKind) : (s.post k).sweep = s.sweep := by
  simp only [State.post, State.postDetail]
@[simp] theorem State.post_watchdog (s : State) (k : EventKind) : (s.post k).watchdog = s.watchdog := by
  simp only [State.post, State.postDetail]
@[simp] theorem State.post_lamp (s : State) (k : EventKind) : (s.post k).lamp = s.lamp := by
  simp only [State.post, State.postDetail]
@[simp] theorem State.post_now (s : State) (k : EventKind) : (s.post k).now = s.now := by
  simp only [State.post, State.postDetail]
@[simp] theorem State.post_inputReads (s : State) (k : EventKind) : (s.post k).inputReads = s.inputReads := by
  simp only [State.post, State.postDetail]
@[simp] theorem State.post_pending (s : State) (k : EventKind) : (s.post k).pending = s.pending := by
  simp only [State.post, State.postDetail]
@[simp] theorem State.elapse_line (s : State) (n : Nat) : (s.elapse n).line = s.line := by
  simp only [State.elapse]
@[simp] theorem State.elapse_node (s : State) (n : Nat) : (s.elapse n).node = s.node := by
  simp only [State.elapse]
@[simp] theorem State.elapse_sweep (s : State) (n : Nat) : (s.elapse n).sweep = s.sweep := by
  simp only [State.elapse]
@[simp] theorem State.elapse_watchdog (s : State) (n : Nat) : (s.elapse n).watchdog = s.watchdog := by
  simp only [State.elapse]
@[simp] theorem State.elapse_events (s : State) (n : Nat) : (s.elapse n).events = s.events := by
  simp only [State.elapse]
@[simp] theorem State.elapse_inputReads (s : State) (n : Nat) : (s.elapse n).inputReads = s.inputReads := by
  simp only [State.elapse]
@[simp] theorem State.elapse_pending (s : State) (n : Nat) : (s.elapse n).pending = s.pending := by
  simp only [State.elapse]
@[simp] theorem State.seq_line (s : State) (f : Env → Gantry → Gantry) : (s.seq f).line = s.line := by
  simp only [State.seq]
@[simp] theorem State.seq_node (s : State) (f : Env → Gantry → Gantry) : (s.seq f).node = s.node := by
  simp only [State.seq]
@[simp] theorem State.seq_store (s : State) (f : Env → Gantry → Gantry) : (s.seq f).store = s.store := by
  simp only [State.seq]
@[simp] theorem State.seq_take (s : State) (f : Env → Gantry → Gantry) : (s.seq f).take = s.take := by
  simp only [State.seq]
@[simp] theorem State.seq_sweep (s : State) (f : Env → Gantry → Gantry) : (s.seq f).sweep = s.sweep := by
  simp only [State.seq]
@[simp] theorem State.seq_watchdog (s : State) (f : Env → Gantry → Gantry) : (s.seq f).watchdog = s.watchdog := by
  simp only [State.seq]
@[simp] theorem State.seq_lamp (s : State) (f : Env → Gantry → Gantry) : (s.seq f).lamp = s.lamp := by
  simp only [State.seq]
@[simp] theorem State.seq_events (s : State) (f : Env → Gantry → Gantry) : (s.seq f).events = s.events := by
  simp only [State.seq]
@[simp] theorem State.seq_now (s : State) (f : Env → Gantry → Gantry) : (s.seq f).now = s.now := by
  simp only [State.seq]
@[simp] theorem State.seq_inputReads (s : State) (f : Env → Gantry → Gantry) : (s.seq f).inputReads = s.inputReads := by
  simp only [State.seq]
@[simp] theorem State.seq_pending (s : State) (f : Env → Gantry → Gantry) : (s.seq f).pending = s.pending := by
  simp only [State.seq]
@[simp] theorem State.retarget_line (s : State) : (s.retarget).line = s.line := by
  simp only [State.retarget]
@[simp] theorem State.retarget_node (s : State) : (s.retarget).node = s.node := by
  simp only [State.retarget]
@[simp] theorem State.retarget_store (s : State) : (s.retarget).store = s.store := by
  simp only [State.retarget]
@[simp] theorem State.retarget_take (s : State) : (s.retarget).take = s.take := by
  simp only [State.retarget]
@[simp] theorem State.retarget_sweep (s : State) : (s.retarget).sweep = s.sweep := by
  simp only [State.retarget]
@[simp] theorem State.retarget_watchdog (s : State) : (s.retarget).watchdog = s.watchdog := by
  simp only [State.retarget]
@[simp] theorem State.retarget_lamp (s : State) : (s.retarget).lamp = s.lamp := by
  simp only [State.retarget]
@[simp] theorem State.retarget_events (s : State) : (s.retarget).events = s.events := by
  simp only [State.retarget]
@[simp] theorem State.retarget_now (s : State) : (s.retarget).now = s.now := by
  simp only [State.retarget]
@[simp] theorem State.retarget_inputReads (s : State) : (s.retarget).inputReads = s.inputReads := by
  simp only [State.retarget]
@[simp] theorem State.retarget_pending (s : State) : (s.retarget).pending = s.pending := by
  simp only [State.retarget]
@[simp] theorem State.dropCapture_line (s : State) : (s.dropCapture).line = s.line := by
  simp only [State.dropCapture]
@[simp] theorem State.dropCapture_node (s : State) : (s.dropCapture).node = s.node := by
  simp only [State.dropCapture]
@[simp] theorem State.dropCapture_store (s : State) : (s.dropCapture).store = s.store := by
  simp only [State.dropCapture]
@[simp] theorem State.dropCapture_take (s : State) : (s.dropCapture).take = s.take := by
  simp only [State.dropCapture]
@[simp] theorem State.dropCapture_gantry (s : State) : (s.dropCapture).gantry = s.gantry := by
  simp only [State.dropCapture]
@[simp] theorem State.dropCapture_watchdog (s : State) : (s.dropCapture).watchdog = s.watchdog := by
  simp only [State.dropCapture]
@[simp] theorem State.dropCapture_lamp (s : State) : (s.dropCapture).lamp = s.lamp := by
  simp only [State.dropCapture]
@[simp] theorem State.dropCapture_events (s : State) : (s.dropCapture).events = s.events := by
  simp only [State.dropCapture]
@[simp] theorem State.dropCapture_now (s : State) : (s.dropCapture).now = s.now := by
  simp only [State.dropCapture]
@[simp] theorem State.dropCapture_inputReads (s : State) : (s.dropCapture).inputReads = s.inputReads := by
  simp only [State.dropCapture]
@[simp] theorem State.dropCapture_pending (s : State) : (s.dropCapture).pending = s.pending := by
  simp only [State.dropCapture]
@[simp] theorem State.captureSlots_line (s : State) (f : SweepFrame) (c : Bool) : (s.captureSlots f c).line = s.line := by
  simp only [State.captureSlots]
@[simp] theorem State.captureSlots_node (s : State) (f : SweepFrame) (c : Bool) : (s.captureSlots f c).node = s.node := by
  simp only [State.captureSlots]
@[simp] theorem State.captureSlots_store (s : State) (f : SweepFrame) (c : Bool) : (s.captureSlots f c).store = s.store := by
  simp only [State.captureSlots]
@[simp] theorem State.captureSlots_take (s : State) (f : SweepFrame) (c : Bool) : (s.captureSlots f c).take = s.take := by
  simp only [State.captureSlots]
@[simp] theorem State.captureSlots_gantry (s : State) (f : SweepFrame) (c : Bool) : (s.captureSlots f c).gantry = s.gantry := by
  simp only [State.captureSlots]
@[simp] theorem State.captureSlots_watchdog (s : State) (f : SweepFrame) (c : Bool) : (s.captureSlots f c).watchdog = s.watchdog := by
  simp only [State.captureSlots]
@[simp] theorem State.captureSlots_lamp (s : State) (f : SweepFrame) (c : Bool) : (s.captureSlots f c).lamp = s.lamp := by
  simp only [State.captureSlots]
@[simp] theorem State.captureSlots_events (s : State) (f : SweepFrame) (c : Bool) : (s.captureSlots f c).events = s.events := by
  simp only [State.captureSlots]
@[simp] theorem State.captureSlots_now (s : State) (f : SweepFrame) (c : Bool) : (s.captureSlots f c).now = s.now := by
  simp only [State.captureSlots]
@[simp] theorem State.captureSlots_inputReads (s : State) (f : SweepFrame) (c : Bool) : (s.captureSlots f c).inputReads = s.inputReads := by
  simp only [State.captureSlots]
@[simp] theorem State.captureSlots_pending (s : State) (f : SweepFrame) (c : Bool) : (s.captureSlots f c).pending = s.pending := by
  simp only [State.captureSlots]
@[simp] theorem State.refreshNeighbours_line (s : State) (k : Byte) : (s.refreshNeighbours k).line = s.line := by
  simp only [State.refreshNeighbours, State.seq]
@[simp] theorem State.refreshNeighbours_node (s : State) (k : Byte) : (s.refreshNeighbours k).node = s.node := by
  simp only [State.refreshNeighbours, State.seq]
@[simp] theorem State.refreshNeighbours_store (s : State) (k : Byte) : (s.refreshNeighbours k).store = s.store := by
  simp only [State.refreshNeighbours, State.seq]
@[simp] theorem State.refreshNeighbours_take (s : State) (k : Byte) : (s.refreshNeighbours k).take = s.take := by
  simp only [State.refreshNeighbours, State.seq]
@[simp] theorem State.refreshNeighbours_watchdog (s : State) (k : Byte) : (s.refreshNeighbours k).watchdog = s.watchdog := by
  simp only [State.refreshNeighbours, State.seq]
@[simp] theorem State.refreshNeighbours_lamp (s : State) (k : Byte) : (s.refreshNeighbours k).lamp = s.lamp := by
  simp only [State.refreshNeighbours, State.seq]
@[simp] theorem State.refreshNeighbours_events (s : State) (k : Byte) : (s.refreshNeighbours k).events = s.events := by
  simp only [State.refreshNeighbours, State.seq]
@[simp] theorem State.refreshNeighbours_now (s : State) (k : Byte) : (s.refreshNeighbours k).now = s.now := by
  simp only [State.refreshNeighbours, State.seq]
@[simp] theorem State.refreshNeighbours_inputReads (s : State) (k : Byte) : (s.refreshNeighbours k).inputReads = s.inputReads := by
  simp only [State.refreshNeighbours, State.seq]
@[simp] theorem State.refreshNeighbours_pending (s : State) (k : Byte) : (s.refreshNeighbours k).pending = s.pending := by
  simp only [State.refreshNeighbours, State.seq]
@[simp] theorem State.readKey_line (s : State) (b : Bool) : (s.readKey b).line = s.line := by
  simp only [State.readKey]
@[simp] theorem State.readKey_store (s : State) (b : Bool) : (s.readKey b).store = s.store := by
  simp only [State.readKey]
@[simp] theorem State.readKey_take (s : State) (b : Bool) : (s.readKey b).take = s.take := by
  simp only [State.readKey]
@[simp] theorem State.readKey_gantry (s : State) (b : Bool) : (s.readKey b).gantry = s.gantry := by
  simp only [State.readKey]
@[simp] theorem State.readKey_sweep (s : State) (b : Bool) : (s.readKey b).sweep = s.sweep := by
  simp only [State.readKey]
@[simp] theorem State.readKey_watchdog (s : State) (b : Bool) : (s.readKey b).watchdog = s.watchdog := by
  simp only [State.readKey]
@[simp] theorem State.readKey_lamp (s : State) (b : Bool) : (s.readKey b).lamp = s.lamp := by
  simp only [State.readKey]
@[simp] theorem State.readKey_events (s : State) (b : Bool) : (s.readKey b).events = s.events := by
  simp only [State.readKey]
@[simp] theorem State.readKey_now (s : State) (b : Bool) : (s.readKey b).now = s.now := by
  simp only [State.readKey]
@[simp] theorem State.readKey_inputReads (s : State) (b : Bool) : (s.readKey b).inputReads = s.inputReads := by
  simp only [State.readKey]
@[simp] theorem State.readKey_pending (s : State) (b : Bool) : (s.readKey b).pending = s.pending := by
  simp only [State.readKey]
@[simp] theorem State.setPending_line (s : State) (p : Option Nat) : (s.setPending p).line = s.line := by
  simp only [State.setPending]
@[simp] theorem State.setPending_node (s : State) (p : Option Nat) : (s.setPending p).node = s.node := by
  simp only [State.setPending]
@[simp] theorem State.setPending_store (s : State) (p : Option Nat) : (s.setPending p).store = s.store := by
  simp only [State.setPending]
@[simp] theorem State.setPending_gantry (s : State) (p : Option Nat) : (s.setPending p).gantry = s.gantry := by
  simp only [State.setPending]
@[simp] theorem State.setPending_sweep (s : State) (p : Option Nat) : (s.setPending p).sweep = s.sweep := by
  simp only [State.setPending]
@[simp] theorem State.setPending_watchdog (s : State) (p : Option Nat) : (s.setPending p).watchdog = s.watchdog := by
  simp only [State.setPending]
@[simp] theorem State.setPending_lamp (s : State) (p : Option Nat) : (s.setPending p).lamp = s.lamp := by
  simp only [State.setPending]
@[simp] theorem State.setPending_events (s : State) (p : Option Nat) : (s.setPending p).events = s.events := by
  simp only [State.setPending]
@[simp] theorem State.setPending_now (s : State) (p : Option Nat) : (s.setPending p).now = s.now := by
  simp only [State.setPending]
@[simp] theorem State.setPending_inputReads (s : State) (p : Option Nat) : (s.setPending p).inputReads = s.inputReads := by
  simp only [State.setPending]
@[simp] theorem State.setPending_pending (s : State) (p : Option Nat) : (s.setPending p).pending = s.pending := by
  simp only [State.setPending]
@[simp] theorem State.scheduleTake_line (s : State) (due : Clock) (p : Nat) : (s.scheduleTake due p).line = s.line := by
  simp only [State.scheduleTake]
@[simp] theorem State.scheduleTake_node (s : State) (due : Clock) (p : Nat) : (s.scheduleTake due p).node = s.node := by
  simp only [State.scheduleTake]
@[simp] theorem State.scheduleTake_store (s : State) (due : Clock) (p : Nat) : (s.scheduleTake due p).store = s.store := by
  simp only [State.scheduleTake]
@[simp] theorem State.scheduleTake_gantry (s : State) (due : Clock) (p : Nat) : (s.scheduleTake due p).gantry = s.gantry := by
  simp only [State.scheduleTake]
@[simp] theorem State.scheduleTake_sweep (s : State) (due : Clock) (p : Nat) : (s.scheduleTake due p).sweep = s.sweep := by
  simp only [State.scheduleTake]
@[simp] theorem State.scheduleTake_watchdog (s : State) (due : Clock) (p : Nat) : (s.scheduleTake due p).watchdog = s.watchdog := by
  simp only [State.scheduleTake]
@[simp] theorem State.scheduleTake_lamp (s : State) (due : Clock) (p : Nat) : (s.scheduleTake due p).lamp = s.lamp := by
  simp only [State.scheduleTake]
@[simp] theorem State.scheduleTake_events (s : State) (due : Clock) (p : Nat) : (s.scheduleTake due p).events = s.events := by
  simp only [State.scheduleTake]
@[simp] theorem State.scheduleTake_now (s : State) (due : Clock) (p : Nat) : (s.scheduleTake due p).now = s.now := by
  simp only [State.scheduleTake]
@[simp] theorem State.scheduleTake_inputReads (s : State) (due : Clock) (p : Nat) : (s.scheduleTake due p).inputReads = s.inputReads := by
  simp only [State.scheduleTake]
@[simp] theorem State.scheduleTake_pending (s : State) (due : Clock) (p : Nat) : (s.scheduleTake due p).pending = s.pending := by
  simp only [State.scheduleTake]
@[simp] theorem State.withSchedule_line (s : State) (l : List ScheduleEntry) : (s.withSchedule l).line = s.line := by
  simp only [State.withSchedule]
@[simp] theorem State.withSchedule_node (s : State) (l : List ScheduleEntry) : (s.withSchedule l).node = s.node := by
  simp only [State.withSchedule]
@[simp] theorem State.withSchedule_store (s : State) (l : List ScheduleEntry) : (s.withSchedule l).store = s.store := by
  simp only [State.withSchedule]
@[simp] theorem State.withSchedule_gantry (s : State) (l : List ScheduleEntry) : (s.withSchedule l).gantry = s.gantry := by
  simp only [State.withSchedule]
@[simp] theorem State.withSchedule_sweep (s : State) (l : List ScheduleEntry) : (s.withSchedule l).sweep = s.sweep := by
  simp only [State.withSchedule]
@[simp] theorem State.withSchedule_watchdog (s : State) (l : List ScheduleEntry) : (s.withSchedule l).watchdog = s.watchdog := by
  simp only [State.withSchedule]
@[simp] theorem State.withSchedule_lamp (s : State) (l : List ScheduleEntry) : (s.withSchedule l).lamp = s.lamp := by
  simp only [State.withSchedule]
@[simp] theorem State.withSchedule_events (s : State) (l : List ScheduleEntry) : (s.withSchedule l).events = s.events := by
  simp only [State.withSchedule]
@[simp] theorem State.withSchedule_now (s : State) (l : List ScheduleEntry) : (s.withSchedule l).now = s.now := by
  simp only [State.withSchedule]
@[simp] theorem State.withSchedule_inputReads (s : State) (l : List ScheduleEntry) : (s.withSchedule l).inputReads = s.inputReads := by
  simp only [State.withSchedule]
@[simp] theorem State.withSchedule_pending (s : State) (l : List ScheduleEntry) : (s.withSchedule l).pending = s.pending := by
  simp only [State.withSchedule]
@[simp] theorem State.setHold_line (s : State) (b : Bool) : (s.setHold b).line = s.line := by
  simp only [State.setHold]
@[simp] theorem State.setHold_store (s : State) (b : Bool) : (s.setHold b).store = s.store := by
  simp only [State.setHold]
@[simp] theorem State.setHold_take (s : State) (b : Bool) : (s.setHold b).take = s.take := by
  simp only [State.setHold]
@[simp] theorem State.setHold_gantry (s : State) (b : Bool) : (s.setHold b).gantry = s.gantry := by
  simp only [State.setHold]
@[simp] theorem State.setHold_sweep (s : State) (b : Bool) : (s.setHold b).sweep = s.sweep := by
  simp only [State.setHold]
@[simp] theorem State.setHold_watchdog (s : State) (b : Bool) : (s.setHold b).watchdog = s.watchdog := by
  simp only [State.setHold]
@[simp] theorem State.setHold_lamp (s : State) (b : Bool) : (s.setHold b).lamp = s.lamp := by
  simp only [State.setHold]
@[simp] theorem State.setHold_events (s : State) (b : Bool) : (s.setHold b).events = s.events := by
  simp only [State.setHold]
@[simp] theorem State.setHold_now (s : State) (b : Bool) : (s.setHold b).now = s.now := by
  simp only [State.setHold]
@[simp] theorem State.setHold_inputReads (s : State) (b : Bool) : (s.setHold b).inputReads = s.inputReads := by
  simp only [State.setHold]
@[simp] theorem State.setHold_pending (s : State) (b : Bool) : (s.setHold b).pending = s.pending := by
  simp only [State.setHold]
@[simp] theorem State.setShadow_line (s : State) (b : Bank) : (s.setShadow b).line = s.line := by
  simp only [State.setShadow]
@[simp] theorem State.setShadow_node (s : State) (b : Bank) : (s.setShadow b).node = s.node := by
  simp only [State.setShadow]
@[simp] theorem State.setShadow_take (s : State) (b : Bank) : (s.setShadow b).take = s.take := by
  simp only [State.setShadow]
@[simp] theorem State.setShadow_gantry (s : State) (b : Bank) : (s.setShadow b).gantry = s.gantry := by
  simp only [State.setShadow]
@[simp] theorem State.setShadow_sweep (s : State) (b : Bank) : (s.setShadow b).sweep = s.sweep := by
  simp only [State.setShadow]
@[simp] theorem State.setShadow_watchdog (s : State) (b : Bank) : (s.setShadow b).watchdog = s.watchdog := by
  simp only [State.setShadow]
@[simp] theorem State.setShadow_lamp (s : State) (b : Bank) : (s.setShadow b).lamp = s.lamp := by
  simp only [State.setShadow]
@[simp] theorem State.setShadow_events (s : State) (b : Bank) : (s.setShadow b).events = s.events := by
  simp only [State.setShadow]
@[simp] theorem State.setShadow_now (s : State) (b : Bank) : (s.setShadow b).now = s.now := by
  simp only [State.setShadow]
@[simp] theorem State.setShadow_inputReads (s : State) (b : Bank) : (s.setShadow b).inputReads = s.inputReads := by
  simp only [State.setShadow]
@[simp] theorem State.setShadow_pending (s : State) (b : Bank) : (s.setShadow b).pending = s.pending := by
  simp only [State.setShadow]
@[simp] theorem State.setHead_line (s : State) (h : Fin 8) (hd : Head) (b : Bool) : (s.setHead h hd b).line = s.line := by
  simp only [State.setHead]
@[simp] theorem State.setHead_node (s : State) (h : Fin 8) (hd : Head) (b : Bool) : (s.setHead h hd b).node = s.node := by
  simp only [State.setHead]
@[simp] theorem State.setHead_store (s : State) (h : Fin 8) (hd : Head) (b : Bool) : (s.setHead h hd b).store = s.store := by
  simp only [State.setHead]
@[simp] theorem State.setHead_take (s : State) (h : Fin 8) (hd : Head) (b : Bool) : (s.setHead h hd b).take = s.take := by
  simp only [State.setHead]
@[simp] theorem State.setHead_sweep (s : State) (h : Fin 8) (hd : Head) (b : Bool) : (s.setHead h hd b).sweep = s.sweep := by
  simp only [State.setHead]
@[simp] theorem State.setHead_watchdog (s : State) (h : Fin 8) (hd : Head) (b : Bool) : (s.setHead h hd b).watchdog = s.watchdog := by
  simp only [State.setHead]
@[simp] theorem State.setHead_lamp (s : State) (h : Fin 8) (hd : Head) (b : Bool) : (s.setHead h hd b).lamp = s.lamp := by
  simp only [State.setHead]
@[simp] theorem State.setHead_events (s : State) (h : Fin 8) (hd : Head) (b : Bool) : (s.setHead h hd b).events = s.events := by
  simp only [State.setHead]
@[simp] theorem State.setHead_now (s : State) (h : Fin 8) (hd : Head) (b : Bool) : (s.setHead h hd b).now = s.now := by
  simp only [State.setHead]
@[simp] theorem State.setHead_inputReads (s : State) (h : Fin 8) (hd : Head) (b : Bool) : (s.setHead h hd b).inputReads = s.inputReads := by
  simp only [State.setHead]
@[simp] theorem State.setHead_pending (s : State) (h : Fin 8) (hd : Head) (b : Bool) : (s.setHead h hd b).pending = s.pending := by
  simp only [State.setHead]
@[simp] theorem State.slewTick_line (s : State) : (s.slewTick).line = s.line := by
  simp only [State.slewTick]
@[simp] theorem State.slewTick_node (s : State) : (s.slewTick).node = s.node := by
  simp only [State.slewTick]
@[simp] theorem State.slewTick_store (s : State) : (s.slewTick).store = s.store := by
  simp only [State.slewTick]
@[simp] theorem State.slewTick_take (s : State) : (s.slewTick).take = s.take := by
  simp only [State.slewTick]
@[simp] theorem State.slewTick_sweep (s : State) : (s.slewTick).sweep = s.sweep := by
  simp only [State.slewTick]
@[simp] theorem State.slewTick_watchdog (s : State) : (s.slewTick).watchdog = s.watchdog := by
  simp only [State.slewTick]
@[simp] theorem State.slewTick_lamp (s : State) : (s.slewTick).lamp = s.lamp := by
  simp only [State.slewTick]
@[simp] theorem State.slewTick_events (s : State) : (s.slewTick).events = s.events := by
  simp only [State.slewTick]
@[simp] theorem State.slewTick_now (s : State) : (s.slewTick).now = s.now := by
  simp only [State.slewTick]
@[simp] theorem State.slewTick_inputReads (s : State) : (s.slewTick).inputReads = s.inputReads := by
  simp only [State.slewTick]
@[simp] theorem State.slewTick_pending (s : State) : (s.slewTick).pending = s.pending := by
  simp only [State.slewTick]
@[simp] theorem State.stallHead_line (s : State) (h : Fin 8) : (s.stallHead h).line = s.line := by
  simp only [State.stallHead, State.post, State.postDetail]
@[simp] theorem State.stallHead_node (s : State) (h : Fin 8) : (s.stallHead h).node = s.node := by
  simp only [State.stallHead, State.post, State.postDetail]
@[simp] theorem State.stallHead_store (s : State) (h : Fin 8) : (s.stallHead h).store = s.store := by
  simp only [State.stallHead, State.post, State.postDetail]
@[simp] theorem State.stallHead_take (s : State) (h : Fin 8) : (s.stallHead h).take = s.take := by
  simp only [State.stallHead, State.post, State.postDetail]
@[simp] theorem State.stallHead_sweep (s : State) (h : Fin 8) : (s.stallHead h).sweep = s.sweep := by
  simp only [State.stallHead, State.post, State.postDetail]
@[simp] theorem State.stallHead_watchdog (s : State) (h : Fin 8) : (s.stallHead h).watchdog = s.watchdog := by
  simp only [State.stallHead, State.post, State.postDetail]
@[simp] theorem State.stallHead_lamp (s : State) (h : Fin 8) : (s.stallHead h).lamp = s.lamp := by
  simp only [State.stallHead, State.post, State.postDetail]
@[simp] theorem State.stallHead_now (s : State) (h : Fin 8) : (s.stallHead h).now = s.now := by
  simp only [State.stallHead, State.post, State.postDetail]
@[simp] theorem State.stallHead_inputReads (s : State) (h : Fin 8) : (s.stallHead h).inputReads = s.inputReads := by
  simp only [State.stallHead, State.post, State.postDetail]
@[simp] theorem State.stallHead_pending (s : State) (h : Fin 8) : (s.stallHead h).pending = s.pending := by
  simp only [State.stallHead, State.post, State.postDetail]
@[simp] theorem State.takeTargets_line (s : State) (p : Nat) (b : Bool) : (s.takeTargets p b).line = s.line := by
  unfold State.takeTargets; simp only; split <;> simp
@[simp] theorem State.takeTargets_node (s : State) (p : Nat) (b : Bool) : (s.takeTargets p b).node = s.node := by
  unfold State.takeTargets; simp only; split <;> simp
@[simp] theorem State.takeTargets_store (s : State) (p : Nat) (b : Bool) : (s.takeTargets p b).store = s.store := by
  unfold State.takeTargets; simp only; split <;> simp
@[simp] theorem State.takeTargets_take (s : State) (p : Nat) (b : Bool) : (s.takeTargets p b).take = s.take := by
  unfold State.takeTargets; simp only; split <;> simp
@[simp] theorem State.takeTargets_sweep (s : State) (p : Nat) (b : Bool) : (s.takeTargets p b).sweep = s.sweep := by
  unfold State.takeTargets; simp only; split <;> simp
@[simp] theorem State.takeTargets_watchdog (s : State) (p : Nat) (b : Bool) : (s.takeTargets p b).watchdog = s.watchdog := by
  unfold State.takeTargets; simp only; split <;> simp
@[simp] theorem State.takeTargets_lamp (s : State) (p : Nat) (b : Bool) : (s.takeTargets p b).lamp = s.lamp := by
  unfold State.takeTargets; simp only; split <;> simp
@[simp] theorem State.takeTargets_events (s : State) (p : Nat) (b : Bool) : (s.takeTargets p b).events = s.events := by
  unfold State.takeTargets; simp only; split <;> simp
@[simp] theorem State.takeTargets_now (s : State) (p : Nat) (b : Bool) : (s.takeTargets p b).now = s.now := by
  unfold State.takeTargets; simp only; split <;> simp
@[simp] theorem State.takeTargets_inputReads (s : State) (p : Nat) (b : Bool) : (s.takeTargets p b).inputReads = s.inputReads := by
  unfold State.takeTargets; simp only; split <;> simp
@[simp] theorem State.takeTargets_pending (s : State) (p : Nat) (b : Bool) : (s.takeTargets p b).pending = s.pending := by
  unfold State.takeTargets; simp only; split <;> simp
@[simp] theorem State.takeRecord_line (s : State) (p : Nat) : (s.takeRecord p).line = s.line := by
  unfold State.takeRecord; simp only; split <;> simp
@[simp] theorem State.takeRecord_store (s : State) (p : Nat) : (s.takeRecord p).store = s.store := by
  unfold State.takeRecord; simp only; split <;> simp
@[simp] theorem State.takeRecord_gantry (s : State) (p : Nat) : (s.takeRecord p).gantry = s.gantry := by
  unfold State.takeRecord; simp only; split <;> simp
@[simp] theorem State.takeRecord_sweep (s : State) (p : Nat) : (s.takeRecord p).sweep = s.sweep := by
  unfold State.takeRecord; simp only; split <;> simp
@[simp] theorem State.takeRecord_lamp (s : State) (p : Nat) : (s.takeRecord p).lamp = s.lamp := by
  unfold State.takeRecord; simp only; split <;> simp
@[simp] theorem State.takeRecord_now (s : State) (p : Nat) : (s.takeRecord p).now = s.now := by
  unfold State.takeRecord; simp only; split <;> simp
@[simp] theorem State.takeRecord_inputReads (s : State) (p : Nat) : (s.takeRecord p).inputReads = s.inputReads := by
  unfold State.takeRecord; simp only; split <;> simp
@[simp] theorem State.takeRecord_pending (s : State) (p : Nat) : (s.takeRecord p).pending = s.pending := by
  unfold State.takeRecord; simp only; split <;> simp
@[simp] theorem State.applyPolicy_line (s : State) : (s.applyPolicy).line = s.line := by
  simp only [State.applyPolicy, State.seq]
@[simp] theorem State.applyPolicy_node (s : State) : (s.applyPolicy).node = s.node := by
  simp only [State.applyPolicy, State.seq]
@[simp] theorem State.applyPolicy_store (s : State) : (s.applyPolicy).store = s.store := by
  simp only [State.applyPolicy, State.seq]
@[simp] theorem State.applyPolicy_sweep (s : State) : (s.applyPolicy).sweep = s.sweep := by
  simp only [State.applyPolicy, State.seq]
@[simp] theorem State.applyPolicy_watchdog (s : State) : (s.applyPolicy).watchdog = s.watchdog := by
  simp only [State.applyPolicy, State.seq]
@[simp] theorem State.applyPolicy_lamp (s : State) : (s.applyPolicy).lamp = s.lamp := by
  simp only [State.applyPolicy, State.seq]
@[simp] theorem State.applyPolicy_events (s : State) : (s.applyPolicy).events = s.events := by
  simp only [State.applyPolicy, State.seq]
@[simp] theorem State.applyPolicy_now (s : State) : (s.applyPolicy).now = s.now := by
  simp only [State.applyPolicy, State.seq]
@[simp] theorem State.applyPolicy_inputReads (s : State) : (s.applyPolicy).inputReads = s.inputReads := by
  simp only [State.applyPolicy, State.seq]
@[simp] theorem State.applyPolicy_pending (s : State) : (s.applyPolicy).pending = s.pending := by
  simp only [State.applyPolicy, State.seq]
@[simp] theorem State.enterService_line (s : State) : (s.enterService).line = s.line := by
  simp only [State.enterService]
@[simp] theorem State.enterService_store (s : State) : (s.enterService).store = s.store := by
  simp only [State.enterService]
@[simp] theorem State.enterService_sweep (s : State) : (s.enterService).sweep = s.sweep := by
  simp only [State.enterService]
@[simp] theorem State.enterService_lamp (s : State) : (s.enterService).lamp = s.lamp := by
  simp only [State.enterService]
@[simp] theorem State.enterService_events (s : State) : (s.enterService).events = s.events := by
  simp only [State.enterService]
@[simp] theorem State.enterService_now (s : State) : (s.enterService).now = s.now := by
  simp only [State.enterService]
@[simp] theorem State.enterService_inputReads (s : State) : (s.enterService).inputReads = s.inputReads := by
  simp only [State.enterService]
@[simp] theorem State.enterService_pending (s : State) : (s.enterService).pending = s.pending := by
  simp only [State.enterService]
@[simp] theorem State.leaveService_line (s : State) : (s.leaveService).line = s.line := by
  simp only [State.leaveService]
@[simp] theorem State.leaveService_store (s : State) : (s.leaveService).store = s.store := by
  simp only [State.leaveService]
@[simp] theorem State.leaveService_sweep (s : State) : (s.leaveService).sweep = s.sweep := by
  simp only [State.leaveService]
@[simp] theorem State.leaveService_lamp (s : State) : (s.leaveService).lamp = s.lamp := by
  simp only [State.leaveService]
@[simp] theorem State.leaveService_events (s : State) : (s.leaveService).events = s.events := by
  simp only [State.leaveService]
@[simp] theorem State.leaveService_now (s : State) : (s.leaveService).now = s.now := by
  simp only [State.leaveService]
@[simp] theorem State.leaveService_inputReads (s : State) : (s.leaveService).inputReads = s.inputReads := by
  simp only [State.leaveService]
@[simp] theorem State.leaveService_pending (s : State) : (s.leaveService).pending = s.pending := by
  simp only [State.leaveService]
@[simp] theorem State.lockout_line (s : State) : (s.lockout).line = s.line := by
  simp only [State.lockout]
@[simp] theorem State.lockout_store (s : State) : (s.lockout).store = s.store := by
  simp only [State.lockout]
@[simp] theorem State.lockout_sweep (s : State) : (s.lockout).sweep = s.sweep := by
  simp only [State.lockout]
@[simp] theorem State.lockout_events (s : State) : (s.lockout).events = s.events := by
  simp only [State.lockout]
@[simp] theorem State.lockout_now (s : State) : (s.lockout).now = s.now := by
  simp only [State.lockout]
@[simp] theorem State.lockout_inputReads (s : State) : (s.lockout).inputReads = s.inputReads := by
  simp only [State.lockout]
@[simp] theorem State.lockout_pending (s : State) : (s.lockout).pending = s.pending := by
  simp only [State.lockout]
@[simp] theorem State.rebuildNeighbours_node (s : State) : (s.rebuildNeighbours).node = s.node := by
  simp only [State.rebuildNeighbours]
@[simp] theorem State.rebuildNeighbours_store (s : State) : (s.rebuildNeighbours).store = s.store := by
  simp only [State.rebuildNeighbours]
@[simp] theorem State.rebuildNeighbours_take (s : State) : (s.rebuildNeighbours).take = s.take := by
  simp only [State.rebuildNeighbours]
@[simp] theorem State.rebuildNeighbours_gantry (s : State) : (s.rebuildNeighbours).gantry = s.gantry := by
  simp only [State.rebuildNeighbours]
@[simp] theorem State.rebuildNeighbours_watchdog (s : State) : (s.rebuildNeighbours).watchdog = s.watchdog := by
  simp only [State.rebuildNeighbours]
@[simp] theorem State.rebuildNeighbours_lamp (s : State) : (s.rebuildNeighbours).lamp = s.lamp := by
  simp only [State.rebuildNeighbours]
@[simp] theorem State.rebuildNeighbours_events (s : State) : (s.rebuildNeighbours).events = s.events := by
  simp only [State.rebuildNeighbours]
@[simp] theorem State.rebuildNeighbours_now (s : State) : (s.rebuildNeighbours).now = s.now := by
  simp only [State.rebuildNeighbours]
@[simp] theorem State.rebuildNeighbours_inputReads (s : State) : (s.rebuildNeighbours).inputReads = s.inputReads := by
  simp only [State.rebuildNeighbours]
@[simp] theorem State.rebuildNeighbours_pending (s : State) : (s.rebuildNeighbours).pending = s.pending := by
  simp only [State.rebuildNeighbours]
@[simp] theorem State.goStale_line (s : State) (n : Neighbour) : (s.goStale n).line = s.line := by
  simp only [State.goStale, State.seq]
@[simp] theorem State.goStale_node (s : State) (n : Neighbour) : (s.goStale n).node = s.node := by
  simp only [State.goStale, State.seq]
@[simp] theorem State.goStale_store (s : State) (n : Neighbour) : (s.goStale n).store = s.store := by
  simp only [State.goStale, State.seq]
@[simp] theorem State.goStale_take (s : State) (n : Neighbour) : (s.goStale n).take = s.take := by
  simp only [State.goStale, State.seq]
@[simp] theorem State.goStale_watchdog (s : State) (n : Neighbour) : (s.goStale n).watchdog = s.watchdog := by
  simp only [State.goStale, State.seq]
@[simp] theorem State.goStale_lamp (s : State) (n : Neighbour) : (s.goStale n).lamp = s.lamp := by
  simp only [State.goStale, State.seq]
@[simp] theorem State.goStale_events (s : State) (n : Neighbour) : (s.goStale n).events = s.events := by
  simp only [State.goStale, State.seq]
@[simp] theorem State.goStale_now (s : State) (n : Neighbour) : (s.goStale n).now = s.now := by
  simp only [State.goStale, State.seq]
@[simp] theorem State.goStale_inputReads (s : State) (n : Neighbour) : (s.goStale n).inputReads = s.inputReads := by
  simp only [State.goStale, State.seq]
@[simp] theorem State.goStale_pending (s : State) (n : Neighbour) : (s.goStale n).pending = s.pending := by
  simp only [State.goStale, State.seq]
@[simp] theorem State.activate_line (s : State) : (s.activate).line = s.line := by
  simp only [State.activate]
@[simp] theorem State.activate_sweep (s : State) : (s.activate).sweep = s.sweep := by
  simp only [State.activate]
@[simp] theorem State.activate_watchdog (s : State) : (s.activate).watchdog = s.watchdog := by
  simp only [State.activate]
@[simp] theorem State.activate_lamp (s : State) : (s.activate).lamp = s.lamp := by
  simp only [State.activate]
@[simp] theorem State.activate_events (s : State) : (s.activate).events = s.events := by
  simp only [State.activate]
@[simp] theorem State.activate_now (s : State) : (s.activate).now = s.now := by
  simp only [State.activate]
@[simp] theorem State.activate_inputReads (s : State) : (s.activate).inputReads = s.inputReads := by
  simp only [State.activate]
@[simp] theorem State.activate_pending (s : State) : (s.activate).pending = s.pending := by
  simp only [State.activate]
@[simp] theorem State.commitFailed_line (s : State) (f : CommitFailure) : (s.commitFailed f).line = s.line := by
  simp only [State.commitFailed, State.postDetail]
@[simp] theorem State.commitFailed_node (s : State) (f : CommitFailure) : (s.commitFailed f).node = s.node := by
  simp only [State.commitFailed, State.postDetail]
@[simp] theorem State.commitFailed_take (s : State) (f : CommitFailure) : (s.commitFailed f).take = s.take := by
  simp only [State.commitFailed, State.postDetail]
@[simp] theorem State.commitFailed_gantry (s : State) (f : CommitFailure) : (s.commitFailed f).gantry = s.gantry := by
  simp only [State.commitFailed, State.postDetail]
@[simp] theorem State.commitFailed_sweep (s : State) (f : CommitFailure) : (s.commitFailed f).sweep = s.sweep := by
  simp only [State.commitFailed, State.postDetail]
@[simp] theorem State.commitFailed_watchdog (s : State) (f : CommitFailure) : (s.commitFailed f).watchdog = s.watchdog := by
  simp only [State.commitFailed, State.postDetail]
@[simp] theorem State.commitFailed_lamp (s : State) (f : CommitFailure) : (s.commitFailed f).lamp = s.lamp := by
  simp only [State.commitFailed, State.postDetail]
@[simp] theorem State.commitFailed_now (s : State) (f : CommitFailure) : (s.commitFailed f).now = s.now := by
  simp only [State.commitFailed, State.postDetail]
@[simp] theorem State.commitFailed_inputReads (s : State) (f : CommitFailure) : (s.commitFailed f).inputReads = s.inputReads := by
  simp only [State.commitFailed, State.postDetail]
@[simp] theorem State.commitFailed_pending (s : State) (f : CommitFailure) : (s.commitFailed f).pending = s.pending := by
  simp only [State.commitFailed, State.postDetail]
@[simp] theorem State.nextRead_line (s : State) : (s.nextRead).line = s.line := by
  simp only [State.nextRead]
@[simp] theorem State.nextRead_node (s : State) : (s.nextRead).node = s.node := by
  simp only [State.nextRead]
@[simp] theorem State.nextRead_store (s : State) : (s.nextRead).store = s.store := by
  simp only [State.nextRead]
@[simp] theorem State.nextRead_take (s : State) : (s.nextRead).take = s.take := by
  simp only [State.nextRead]
@[simp] theorem State.nextRead_gantry (s : State) : (s.nextRead).gantry = s.gantry := by
  simp only [State.nextRead]
@[simp] theorem State.nextRead_sweep (s : State) : (s.nextRead).sweep = s.sweep := by
  simp only [State.nextRead]
@[simp] theorem State.nextRead_watchdog (s : State) : (s.nextRead).watchdog = s.watchdog := by
  simp only [State.nextRead]
@[simp] theorem State.nextRead_lamp (s : State) : (s.nextRead).lamp = s.lamp := by
  simp only [State.nextRead]
@[simp] theorem State.nextRead_events (s : State) : (s.nextRead).events = s.events := by
  simp only [State.nextRead]
@[simp] theorem State.nextRead_now (s : State) : (s.nextRead).now = s.now := by
  simp only [State.nextRead]
@[simp] theorem State.nextRead_pending (s : State) : (s.nextRead).pending = s.pending := by
  simp only [State.nextRead]
@[simp] theorem State.atReading_line (s : State) : (s.atReading).line = s.line := by
  simp only [State.atReading]
@[simp] theorem State.atReading_node (s : State) : (s.atReading).node = s.node := by
  simp only [State.atReading]
@[simp] theorem State.atReading_store (s : State) : (s.atReading).store = s.store := by
  simp only [State.atReading]
@[simp] theorem State.atReading_take (s : State) : (s.atReading).take = s.take := by
  simp only [State.atReading]
@[simp] theorem State.atReading_gantry (s : State) : (s.atReading).gantry = s.gantry := by
  simp only [State.atReading]
@[simp] theorem State.atReading_sweep (s : State) : (s.atReading).sweep = s.sweep := by
  simp only [State.atReading]
@[simp] theorem State.atReading_watchdog (s : State) : (s.atReading).watchdog = s.watchdog := by
  simp only [State.atReading]
@[simp] theorem State.atReading_events (s : State) : (s.atReading).events = s.events := by
  simp only [State.atReading]
@[simp] theorem State.atReading_now (s : State) : (s.atReading).now = s.now := by
  simp only [State.atReading]
@[simp] theorem State.atReading_inputReads (s : State) : (s.atReading).inputReads = s.inputReads := by
  simp only [State.atReading]
@[simp] theorem State.atReading_pending (s : State) : (s.atReading).pending = s.pending := by
  simp only [State.atReading]
@[simp] theorem State.atSample_line (s : State) : (s.atSample).line = s.line := by
  simp only [State.atSample]
@[simp] theorem State.atSample_node (s : State) : (s.atSample).node = s.node := by
  simp only [State.atSample]
@[simp] theorem State.atSample_store (s : State) : (s.atSample).store = s.store := by
  simp only [State.atSample]
@[simp] theorem State.atSample_take (s : State) : (s.atSample).take = s.take := by
  simp only [State.atSample]
@[simp] theorem State.atSample_gantry (s : State) : (s.atSample).gantry = s.gantry := by
  simp only [State.atSample]
@[simp] theorem State.atSample_sweep (s : State) : (s.atSample).sweep = s.sweep := by
  simp only [State.atSample]
@[simp] theorem State.atSample_watchdog (s : State) : (s.atSample).watchdog = s.watchdog := by
  simp only [State.atSample]
@[simp] theorem State.atSample_events (s : State) : (s.atSample).events = s.events := by
  simp only [State.atSample]
@[simp] theorem State.atSample_now (s : State) : (s.atSample).now = s.now := by
  simp only [State.atSample]
@[simp] theorem State.atSample_inputReads (s : State) : (s.atSample).inputReads = s.inputReads := by
  simp only [State.atSample]
@[simp] theorem State.atSample_pending (s : State) : (s.atSample).pending = s.pending := by
  simp only [State.atSample]
@[simp] theorem State.holdInReset_store (s : State) : (s.holdInReset).store = s.store := by
  simp only [State.holdInReset]
@[simp] theorem State.holdInReset_take (s : State) : (s.holdInReset).take = s.take := by
  simp only [State.holdInReset]
@[simp] theorem State.holdInReset_sweep (s : State) : (s.holdInReset).sweep = s.sweep := by
  simp only [State.holdInReset]
@[simp] theorem State.holdInReset_watchdog (s : State) : (s.holdInReset).watchdog = s.watchdog := by
  simp only [State.holdInReset]
@[simp] theorem State.holdInReset_events (s : State) : (s.holdInReset).events = s.events := by
  simp only [State.holdInReset]
@[simp] theorem State.holdInReset_now (s : State) : (s.holdInReset).now = s.now := by
  simp only [State.holdInReset]
@[simp] theorem State.holdInReset_inputReads (s : State) : (s.holdInReset).inputReads = s.inputReads := by
  simp only [State.holdInReset]
@[simp] theorem State.holdInReset_pending (s : State) : (s.holdInReset).pending = s.pending := by
  simp only [State.holdInReset]

end Sys2Proof.Machine
end

