-- ==== Sys2Proof/Laws/Frames.lean ====
section
/-! SUPPORT. What the operations made of several others leave of the state. -/

namespace Sys2Proof.Machine

@[simp] theorem State.postAll_line (s : State) (ks : List EventKind) : (s.postAll ks).line = s.line := by
  unfold State.postAll; induction ks generalizing s with
  | nil => simp
  | cons k ks ih => simp only [List.foldl_cons]; rw [ih]; simp
@[simp] theorem State.postAll_node (s : State) (ks : List EventKind) : (s.postAll ks).node = s.node := by
  unfold State.postAll; induction ks generalizing s with
  | nil => simp
  | cons k ks ih => simp only [List.foldl_cons]; rw [ih]; simp
@[simp] theorem State.postAll_store (s : State) (ks : List EventKind) : (s.postAll ks).store = s.store := by
  unfold State.postAll; induction ks generalizing s with
  | nil => simp
  | cons k ks ih => simp only [List.foldl_cons]; rw [ih]; simp
@[simp] theorem State.postAll_take (s : State) (ks : List EventKind) : (s.postAll ks).take = s.take := by
  unfold State.postAll; induction ks generalizing s with
  | nil => simp
  | cons k ks ih => simp only [List.foldl_cons]; rw [ih]; simp
@[simp] theorem State.postAll_gantry (s : State) (ks : List EventKind) : (s.postAll ks).gantry = s.gantry := by
  unfold State.postAll; induction ks generalizing s with
  | nil => simp
  | cons k ks ih => simp only [List.foldl_cons]; rw [ih]; simp
@[simp] theorem State.postAll_sweep (s : State) (ks : List EventKind) : (s.postAll ks).sweep = s.sweep := by
  unfold State.postAll; induction ks generalizing s with
  | nil => simp
  | cons k ks ih => simp only [List.foldl_cons]; rw [ih]; simp
@[simp] theorem State.postAll_watchdog (s : State) (ks : List EventKind) : (s.postAll ks).watchdog = s.watchdog := by
  unfold State.postAll; induction ks generalizing s with
  | nil => simp
  | cons k ks ih => simp only [List.foldl_cons]; rw [ih]; simp
@[simp] theorem State.postAll_lamp (s : State) (ks : List EventKind) : (s.postAll ks).lamp = s.lamp := by
  unfold State.postAll; induction ks generalizing s with
  | nil => simp
  | cons k ks ih => simp only [List.foldl_cons]; rw [ih]; simp
@[simp] theorem State.postAll_now (s : State) (ks : List EventKind) : (s.postAll ks).now = s.now := by
  unfold State.postAll; induction ks generalizing s with
  | nil => simp
  | cons k ks ih => simp only [List.foldl_cons]; rw [ih]; simp
@[simp] theorem State.postAll_inputReads (s : State) (ks : List EventKind) : (s.postAll ks).inputReads = s.inputReads := by
  unfold State.postAll; induction ks generalizing s with
  | nil => simp
  | cons k ks ih => simp only [List.foldl_cons]; rw [ih]; simp
@[simp] theorem State.postAll_pending (s : State) (ks : List EventKind) : (s.postAll ks).pending = s.pending := by
  unfold State.postAll; induction ks generalizing s with
  | nil => simp
  | cons k ks ih => simp only [List.foldl_cons]; rw [ih]; simp
@[simp] theorem State.takeLevel_line (s : State) (l : Nat) : (s.takeLevel l).line = s.line := by
  unfold State.takeLevel; split <;> simp
@[simp] theorem State.takeLevel_node (s : State) (l : Nat) : (s.takeLevel l).node = s.node := by
  unfold State.takeLevel; split <;> simp
@[simp] theorem State.takeLevel_store (s : State) (l : Nat) : (s.takeLevel l).store = s.store := by
  unfold State.takeLevel; split <;> simp
@[simp] theorem State.takeLevel_take (s : State) (l : Nat) : (s.takeLevel l).take = s.take := by
  unfold State.takeLevel; split <;> simp
@[simp] theorem State.takeLevel_sweep (s : State) (l : Nat) : (s.takeLevel l).sweep = s.sweep := by
  unfold State.takeLevel; split <;> simp
@[simp] theorem State.takeLevel_watchdog (s : State) (l : Nat) : (s.takeLevel l).watchdog = s.watchdog := by
  unfold State.takeLevel; split <;> simp
@[simp] theorem State.takeLevel_events (s : State) (l : Nat) : (s.takeLevel l).events = s.events := by
  unfold State.takeLevel; split <;> simp
@[simp] theorem State.takeLevel_now (s : State) (l : Nat) : (s.takeLevel l).now = s.now := by
  unfold State.takeLevel; split <;> simp
@[simp] theorem State.takeLevel_inputReads (s : State) (l : Nat) : (s.takeLevel l).inputReads = s.inputReads := by
  unfold State.takeLevel; split <;> simp
@[simp] theorem State.takeLevel_pending (s : State) (l : Nat) : (s.takeLevel l).pending = s.pending := by
  unfold State.takeLevel; split <;> simp
@[simp] theorem State.takePlan_line (s : State) (p : Nat) : (s.takePlan p).line = s.line := by
  simp [State.takePlan]
@[simp] theorem State.takePlan_store (s : State) (p : Nat) : (s.takePlan p).store = s.store := by
  simp [State.takePlan]
@[simp] theorem State.takePlan_sweep (s : State) (p : Nat) : (s.takePlan p).sweep = s.sweep := by
  simp [State.takePlan]
@[simp] theorem State.takePlan_lamp (s : State) (p : Nat) : (s.takePlan p).lamp = s.lamp := by
  simp [State.takePlan]
@[simp] theorem State.takePlan_now (s : State) (p : Nat) : (s.takePlan p).now = s.now := by
  simp [State.takePlan]
@[simp] theorem State.takePlan_inputReads (s : State) (p : Nat) : (s.takePlan p).inputReads = s.inputReads := by
  simp [State.takePlan]
@[simp] theorem State.takePlan_pending (s : State) (p : Nat) : (s.takePlan p).pending = s.pending := by
  simp [State.takePlan]
theorem fireEntry_line (acc : State × Option Nat) (e : ScheduleEntry) :
    (fireEntry acc e).1.line = acc.1.line := by
  cases hp : acc.1.store.active.planDefined e.plan <;> cases hm : acc.1.node.mode <;>
    cases hw : acc.1.watchdog.stream <;> simp [fireEntry, hp, hm, hw]
theorem fireEntries_line (l : List ScheduleEntry) (acc : State × Option Nat) :
    (l.foldl fireEntry acc).1.line = acc.1.line := by
  induction l generalizing acc with
  | nil => rfl
  | cons e l ih => rw [List.foldl_cons, ih, fireEntry_line]
theorem fireEntry_store (acc : State × Option Nat) (e : ScheduleEntry) :
    (fireEntry acc e).1.store = acc.1.store := by
  cases hp : acc.1.store.active.planDefined e.plan <;> cases hm : acc.1.node.mode <;>
    cases hw : acc.1.watchdog.stream <;> simp [fireEntry, hp, hm, hw]
theorem fireEntries_store (l : List ScheduleEntry) (acc : State × Option Nat) :
    (l.foldl fireEntry acc).1.store = acc.1.store := by
  induction l generalizing acc with
  | nil => rfl
  | cons e l ih => rw [List.foldl_cons, ih, fireEntry_store]
theorem fireEntry_gantry (acc : State × Option Nat) (e : ScheduleEntry) :
    (fireEntry acc e).1.gantry = acc.1.gantry := by
  cases hp : acc.1.store.active.planDefined e.plan <;> cases hm : acc.1.node.mode <;>
    cases hw : acc.1.watchdog.stream <;> simp [fireEntry, hp, hm, hw]
theorem fireEntries_gantry (l : List ScheduleEntry) (acc : State × Option Nat) :
    (l.foldl fireEntry acc).1.gantry = acc.1.gantry := by
  induction l generalizing acc with
  | nil => rfl
  | cons e l ih => rw [List.foldl_cons, ih, fireEntry_gantry]
theorem fireEntry_sweep (acc : State × Option Nat) (e : ScheduleEntry) :
    (fireEntry acc e).1.sweep = acc.1.sweep := by
  cases hp : acc.1.store.active.planDefined e.plan <;> cases hm : acc.1.node.mode <;>
    cases hw : acc.1.watchdog.stream <;> simp [fireEntry, hp, hm, hw]
theorem fireEntries_sweep (l : List ScheduleEntry) (acc : State × Option Nat) :
    (l.foldl fireEntry acc).1.sweep = acc.1.sweep := by
  induction l generalizing acc with
  | nil => rfl
  | cons e l ih => rw [List.foldl_cons, ih, fireEntry_sweep]
theorem fireEntry_lamp (acc : State × Option Nat) (e : ScheduleEntry) :
    (fireEntry acc e).1.lamp = acc.1.lamp := by
  cases hp : acc.1.store.active.planDefined e.plan <;> cases hm : acc.1.node.mode <;>
    cases hw : acc.1.watchdog.stream <;> simp [fireEntry, hp, hm, hw]
theorem fireEntries_lamp (l : List ScheduleEntry) (acc : State × Option Nat) :
    (l.foldl fireEntry acc).1.lamp = acc.1.lamp := by
  induction l generalizing acc with
  | nil => rfl
  | cons e l ih => rw [List.foldl_cons, ih, fireEntry_lamp]
theorem fireEntry_now (acc : State × Option Nat) (e : ScheduleEntry) :
    (fireEntry acc e).1.now = acc.1.now := by
  cases hp : acc.1.store.active.planDefined e.plan <;> cases hm : acc.1.node.mode <;>
    cases hw : acc.1.watchdog.stream <;> simp [fireEntry, hp, hm, hw]
theorem fireEntries_now (l : List ScheduleEntry) (acc : State × Option Nat) :
    (l.foldl fireEntry acc).1.now = acc.1.now := by
  induction l generalizing acc with
  | nil => rfl
  | cons e l ih => rw [List.foldl_cons, ih, fireEntry_now]
theorem fireEntry_inputReads (acc : State × Option Nat) (e : ScheduleEntry) :
    (fireEntry acc e).1.inputReads = acc.1.inputReads := by
  cases hp : acc.1.store.active.planDefined e.plan <;> cases hm : acc.1.node.mode <;>
    cases hw : acc.1.watchdog.stream <;> simp [fireEntry, hp, hm, hw]
theorem fireEntries_inputReads (l : List ScheduleEntry) (acc : State × Option Nat) :
    (l.foldl fireEntry acc).1.inputReads = acc.1.inputReads := by
  induction l generalizing acc with
  | nil => rfl
  | cons e l ih => rw [List.foldl_cons, ih, fireEntry_inputReads]
theorem fireEntry_pending (acc : State × Option Nat) (e : ScheduleEntry) :
    (fireEntry acc e).1.pending = acc.1.pending := by
  cases hp : acc.1.store.active.planDefined e.plan <;> cases hm : acc.1.node.mode <;>
    cases hw : acc.1.watchdog.stream <;> simp [fireEntry, hp, hm, hw]
theorem fireEntries_pending (l : List ScheduleEntry) (acc : State × Option Nat) :
    (l.foldl fireEntry acc).1.pending = acc.1.pending := by
  induction l generalizing acc with
  | nil => rfl
  | cons e l ih => rw [List.foldl_cons, ih, fireEntry_pending]
@[simp] theorem State.dueTest_line (s : State) : (s.dueTest).line = s.line := by
  unfold State.dueTest; simp only; split <;> simp [fireEntries_line]
@[simp] theorem State.dueTest_store (s : State) : (s.dueTest).store = s.store := by
  unfold State.dueTest; simp only; split <;> simp [fireEntries_store]
@[simp] theorem State.dueTest_sweep (s : State) : (s.dueTest).sweep = s.sweep := by
  unfold State.dueTest; simp only; split <;> simp [fireEntries_sweep]
@[simp] theorem State.dueTest_lamp (s : State) : (s.dueTest).lamp = s.lamp := by
  unfold State.dueTest; simp only; split <;> simp [fireEntries_lamp]
@[simp] theorem State.dueTest_now (s : State) : (s.dueTest).now = s.now := by
  unfold State.dueTest; simp only; split <;> simp [fireEntries_now]
@[simp] theorem State.dueTest_inputReads (s : State) : (s.dueTest).inputReads = s.inputReads := by
  unfold State.dueTest; simp only; split <;> simp [fireEntries_inputReads]
@[simp] theorem State.dueTest_pending (s : State) : (s.dueTest).pending = s.pending := by
  unfold State.dueTest; simp only; split <;> simp [fireEntries_pending]
@[simp] theorem State.syncClock_line (s : State) (m : Clock) : (s.syncClock m).line = s.line := by
  unfold State.syncClock; simp only; split <;> simp
@[simp] theorem State.syncClock_store (s : State) (m : Clock) : (s.syncClock m).store = s.store := by
  unfold State.syncClock; simp only; split <;> simp
@[simp] theorem State.syncClock_sweep (s : State) (m : Clock) : (s.syncClock m).sweep = s.sweep := by
  unfold State.syncClock; simp only; split <;> simp
@[simp] theorem State.syncClock_lamp (s : State) (m : Clock) : (s.syncClock m).lamp = s.lamp := by
  unfold State.syncClock; simp only; split <;> simp
@[simp] theorem State.syncClock_now (s : State) (m : Clock) : (s.syncClock m).now = s.now := by
  unfold State.syncClock; simp only; split <;> simp
@[simp] theorem State.syncClock_inputReads (s : State) (m : Clock) : (s.syncClock m).inputReads = s.inputReads := by
  unfold State.syncClock; simp only; split <;> simp
@[simp] theorem State.syncClock_pending (s : State) (m : Clock) : (s.syncClock m).pending = s.pending := by
  unfold State.syncClock; simp only; split <;> simp
@[simp] theorem State.fallbackEntry_line (s : State) : (s.fallbackEntry).line = s.line := by
  simp [State.fallbackEntry]
@[simp] theorem State.fallbackEntry_store (s : State) : (s.fallbackEntry).store = s.store := by
  simp [State.fallbackEntry]
@[simp] theorem State.fallbackEntry_sweep (s : State) : (s.fallbackEntry).sweep = s.sweep := by
  simp [State.fallbackEntry]
@[simp] theorem State.fallbackEntry_lamp (s : State) : (s.fallbackEntry).lamp = s.lamp := by
  simp [State.fallbackEntry]
@[simp] theorem State.fallbackEntry_now (s : State) : (s.fallbackEntry).now = s.now := by
  simp [State.fallbackEntry]
@[simp] theorem State.fallbackEntry_inputReads (s : State) : (s.fallbackEntry).inputReads = s.inputReads := by
  simp [State.fallbackEntry]
@[simp] theorem State.fallbackEntry_pending (s : State) : (s.fallbackEntry).pending = s.pending := by
  simp [State.fallbackEntry]
@[simp] theorem State.watchdogExpire_line (s : State) : (s.watchdogExpire).line = s.line := by
  unfold State.watchdogExpire; split <;> simp
@[simp] theorem State.watchdogExpire_store (s : State) : (s.watchdogExpire).store = s.store := by
  unfold State.watchdogExpire; split <;> simp
@[simp] theorem State.watchdogExpire_sweep (s : State) : (s.watchdogExpire).sweep = s.sweep := by
  unfold State.watchdogExpire; split <;> simp
@[simp] theorem State.watchdogExpire_lamp (s : State) : (s.watchdogExpire).lamp = s.lamp := by
  unfold State.watchdogExpire; split <;> simp
@[simp] theorem State.watchdogExpire_now (s : State) : (s.watchdogExpire).now = s.now := by
  unfold State.watchdogExpire; split <;> simp
@[simp] theorem State.watchdogExpire_inputReads (s : State) : (s.watchdogExpire).inputReads = s.inputReads := by
  unfold State.watchdogExpire; split <;> simp
@[simp] theorem State.watchdogExpire_pending (s : State) : (s.watchdogExpire).pending = s.pending := by
  unfold State.watchdogExpire; split <;> simp
@[simp] theorem State.readTemperature_line (s : State) (r : Int) : (s.readTemperature r).line = s.line := by
  unfold State.readTemperature; simp only; split; · simp
  split; · simp
  split <;> simp
@[simp] theorem State.readTemperature_node (s : State) (r : Int) : (s.readTemperature r).node = s.node := by
  unfold State.readTemperature; simp only; split; · simp
  split; · simp
  split <;> simp
@[simp] theorem State.readTemperature_store (s : State) (r : Int) : (s.readTemperature r).store = s.store := by
  unfold State.readTemperature; simp only; split; · simp
  split; · simp
  split <;> simp
@[simp] theorem State.readTemperature_take (s : State) (r : Int) : (s.readTemperature r).take = s.take := by
  unfold State.readTemperature; simp only; split; · simp
  split; · simp
  split <;> simp
@[simp] theorem State.readTemperature_sweep (s : State) (r : Int) : (s.readTemperature r).sweep = s.sweep := by
  unfold State.readTemperature; simp only; split; · simp
  split; · simp
  split <;> simp
@[simp] theorem State.readTemperature_watchdog (s : State) (r : Int) : (s.readTemperature r).watchdog = s.watchdog := by
  unfold State.readTemperature; simp only; split; · simp
  split; · simp
  split <;> simp
@[simp] theorem State.readTemperature_now (s : State) (r : Int) : (s.readTemperature r).now = s.now := by
  unfold State.readTemperature; simp only; split; · simp
  split; · simp
  split <;> simp
@[simp] theorem State.readTemperature_inputReads (s : State) (r : Int) : (s.readTemperature r).inputReads = s.inputReads := by
  unfold State.readTemperature; simp only; split; · simp
  split; · simp
  split <;> simp
@[simp] theorem State.readTemperature_pending (s : State) (r : Int) : (s.readTemperature r).pending = s.pending := by
  unfold State.readTemperature; simp only; split; · simp
  split; · simp
  split <;> simp
@[simp] theorem State.dueStalls_line (s : State) : s.dueStalls.line = s.line := by
  unfold State.dueStalls; induction allHeads generalizing s with
  | nil => rfl
  | cons h l ih => simp only [List.foldl_cons]; rw [ih]; split <;> simp
@[simp] theorem State.dueStalls_node (s : State) : s.dueStalls.node = s.node := by
  unfold State.dueStalls; induction allHeads generalizing s with
  | nil => rfl
  | cons h l ih => simp only [List.foldl_cons]; rw [ih]; split <;> simp
@[simp] theorem State.dueStalls_store (s : State) : s.dueStalls.store = s.store := by
  unfold State.dueStalls; induction allHeads generalizing s with
  | nil => rfl
  | cons h l ih => simp only [List.foldl_cons]; rw [ih]; split <;> simp
@[simp] theorem State.dueStalls_take (s : State) : s.dueStalls.take = s.take := by
  unfold State.dueStalls; induction allHeads generalizing s with
  | nil => rfl
  | cons h l ih => simp only [List.foldl_cons]; rw [ih]; split <;> simp
@[simp] theorem State.dueStalls_sweep (s : State) : s.dueStalls.sweep = s.sweep := by
  unfold State.dueStalls; induction allHeads generalizing s with
  | nil => rfl
  | cons h l ih => simp only [List.foldl_cons]; rw [ih]; split <;> simp
@[simp] theorem State.dueStalls_watchdog (s : State) : s.dueStalls.watchdog = s.watchdog := by
  unfold State.dueStalls; induction allHeads generalizing s with
  | nil => rfl
  | cons h l ih => simp only [List.foldl_cons]; rw [ih]; split <;> simp
@[simp] theorem State.dueStalls_lamp (s : State) : s.dueStalls.lamp = s.lamp := by
  unfold State.dueStalls; induction allHeads generalizing s with
  | nil => rfl
  | cons h l ih => simp only [List.foldl_cons]; rw [ih]; split <;> simp
@[simp] theorem State.dueStalls_now (s : State) : s.dueStalls.now = s.now := by
  unfold State.dueStalls; induction allHeads generalizing s with
  | nil => rfl
  | cons h l ih => simp only [List.foldl_cons]; rw [ih]; split <;> simp
@[simp] theorem State.dueStalls_inputReads (s : State) : s.dueStalls.inputReads = s.inputReads := by
  unfold State.dueStalls; induction allHeads generalizing s with
  | nil => rfl
  | cons h l ih => simp only [List.foldl_cons]; rw [ih]; split <;> simp
@[simp] theorem State.dueStalls_pending (s : State) : s.dueStalls.pending = s.pending := by
  unfold State.dueStalls; induction allHeads generalizing s with
  | nil => rfl
  | cons h l ih => simp only [List.foldl_cons]; rw [ih]; split <;> simp
@[simp] theorem State.dueSequencer_line (s : State) : (s.dueSequencer).line = s.line := by
  simp [State.dueSequencer]
@[simp] theorem State.dueSequencer_node (s : State) : (s.dueSequencer).node = s.node := by
  simp [State.dueSequencer]
@[simp] theorem State.dueSequencer_store (s : State) : (s.dueSequencer).store = s.store := by
  simp [State.dueSequencer]
@[simp] theorem State.dueSequencer_take (s : State) : (s.dueSequencer).take = s.take := by
  simp [State.dueSequencer]
@[simp] theorem State.dueSequencer_sweep (s : State) : (s.dueSequencer).sweep = s.sweep := by
  simp [State.dueSequencer]
@[simp] theorem State.dueSequencer_watchdog (s : State) : (s.dueSequencer).watchdog = s.watchdog := by
  simp [State.dueSequencer]
@[simp] theorem State.dueSequencer_lamp (s : State) : (s.dueSequencer).lamp = s.lamp := by
  simp [State.dueSequencer]
@[simp] theorem State.dueSequencer_now (s : State) : (s.dueSequencer).now = s.now := by
  simp [State.dueSequencer]
@[simp] theorem State.dueSequencer_inputReads (s : State) : (s.dueSequencer).inputReads = s.inputReads := by
  simp [State.dueSequencer]
@[simp] theorem State.dueSequencer_pending (s : State) : (s.dueSequencer).pending = s.pending := by
  simp [State.dueSequencer]
@[simp] theorem State.dueLowered_line (s : State) (old : Bank) : (s.dueLowered old).line = s.line := by
  unfold State.dueLowered; simp only; split <;> split <;> simp
@[simp] theorem State.dueLowered_node (s : State) (old : Bank) : (s.dueLowered old).node = s.node := by
  unfold State.dueLowered; simp only; split <;> split <;> simp
@[simp] theorem State.dueLowered_store (s : State) (old : Bank) : (s.dueLowered old).store = s.store := by
  unfold State.dueLowered; simp only; split <;> split <;> simp
@[simp] theorem State.dueLowered_take (s : State) (old : Bank) : (s.dueLowered old).take = s.take := by
  unfold State.dueLowered; simp only; split <;> split <;> simp
@[simp] theorem State.dueLowered_sweep (s : State) (old : Bank) : (s.dueLowered old).sweep = s.sweep := by
  unfold State.dueLowered; simp only; split <;> split <;> simp
@[simp] theorem State.dueLowered_watchdog (s : State) (old : Bank) : (s.dueLowered old).watchdog = s.watchdog := by
  unfold State.dueLowered; simp only; split <;> split <;> simp
@[simp] theorem State.dueLowered_lamp (s : State) (old : Bank) : (s.dueLowered old).lamp = s.lamp := by
  unfold State.dueLowered; simp only; split <;> split <;> simp
@[simp] theorem State.dueLowered_now (s : State) (old : Bank) : (s.dueLowered old).now = s.now := by
  unfold State.dueLowered; simp only; split <;> split <;> simp
@[simp] theorem State.dueLowered_inputReads (s : State) (old : Bank) : (s.dueLowered old).inputReads = s.inputReads := by
  unfold State.dueLowered; simp only; split <;> split <;> simp
@[simp] theorem State.dueLowered_pending (s : State) (old : Bank) : (s.dueLowered old).pending = s.pending := by
  unfold State.dueLowered; simp only; split <;> split <;> simp
@[simp] theorem State.releaseHold_line (s : State) : (s.releaseHold).line = s.line := by
  unfold State.releaseHold; split <;> simp
@[simp] theorem State.releaseHold_store (s : State) : (s.releaseHold).store = s.store := by
  unfold State.releaseHold; split <;> simp
@[simp] theorem State.releaseHold_take (s : State) : (s.releaseHold).take = s.take := by
  unfold State.releaseHold; split <;> simp
@[simp] theorem State.releaseHold_sweep (s : State) : (s.releaseHold).sweep = s.sweep := by
  unfold State.releaseHold; split <;> simp
@[simp] theorem State.releaseHold_watchdog (s : State) : (s.releaseHold).watchdog = s.watchdog := by
  unfold State.releaseHold; split <;> simp
@[simp] theorem State.releaseHold_lamp (s : State) : (s.releaseHold).lamp = s.lamp := by
  unfold State.releaseHold; split <;> simp
@[simp] theorem State.releaseHold_now (s : State) : (s.releaseHold).now = s.now := by
  unfold State.releaseHold; split <;> simp
@[simp] theorem State.releaseHold_inputReads (s : State) : (s.releaseHold).inputReads = s.inputReads := by
  unfold State.releaseHold; split <;> simp
@[simp] theorem State.releaseHold_pending (s : State) : (s.releaseHold).pending = s.pending := by
  unfold State.releaseHold; split <;> simp
@[simp] theorem State.dueAtCommit_line (s : State) (old : Bank) : (s.dueAtCommit old).line = s.line := by
  unfold State.dueAtCommit; simp only; repeat' split
  all_goals simp
@[simp] theorem State.dueAtCommit_store (s : State) (old : Bank) : (s.dueAtCommit old).store = s.store := by
  unfold State.dueAtCommit; simp only; repeat' split
  all_goals simp
@[simp] theorem State.dueAtCommit_sweep (s : State) (old : Bank) : (s.dueAtCommit old).sweep = s.sweep := by
  unfold State.dueAtCommit; simp only; repeat' split
  all_goals simp
@[simp] theorem State.dueAtCommit_lamp (s : State) (old : Bank) : (s.dueAtCommit old).lamp = s.lamp := by
  unfold State.dueAtCommit; simp only; repeat' split
  all_goals simp
@[simp] theorem State.dueAtCommit_now (s : State) (old : Bank) : (s.dueAtCommit old).now = s.now := by
  unfold State.dueAtCommit; simp only; repeat' split
  all_goals simp
@[simp] theorem State.dueAtCommit_inputReads (s : State) (old : Bank) : (s.dueAtCommit old).inputReads = s.inputReads := by
  unfold State.dueAtCommit; simp only; repeat' split
  all_goals simp
@[simp] theorem State.dueAtCommit_pending (s : State) (old : Bank) : (s.dueAtCommit old).pending = s.pending := by
  unfold State.dueAtCommit; simp only; repeat' split
  all_goals simp
@[simp] theorem State.commitOk_lamp (s : State) : (s.commitOk).lamp = s.lamp := by
  simp [State.commitOk]
@[simp] theorem State.commitOk_now (s : State) : (s.commitOk).now = s.now := by
  simp [State.commitOk]
@[simp] theorem State.commitOk_inputReads (s : State) : (s.commitOk).inputReads = s.inputReads := by
  simp [State.commitOk]
@[simp] theorem State.commitOk_pending (s : State) : (s.commitOk).pending = s.pending := by
  simp [State.commitOk]
@[simp] theorem State.commitComplete_lamp (s : State) : (s.commitComplete).lamp = s.lamp := by
  unfold State.commitComplete; split <;> simp
@[simp] theorem State.commitComplete_now (s : State) : (s.commitComplete).now = s.now := by
  unfold State.commitComplete; split <;> simp
@[simp] theorem State.commitComplete_inputReads (s : State) : (s.commitComplete).inputReads = s.inputReads := by
  unfold State.commitComplete; split <;> simp
@[simp] theorem State.commitComplete_pending (s : State) : (s.commitComplete).pending = s.pending := by
  unfold State.commitComplete; split <;> simp
@[simp] theorem State.sample_line (s : State) (m : List Nat) : (s.sample m).line = s.line := by
  unfold State.sample; split; · rfl
  simp only; split <;> simp
@[simp] theorem State.sample_store (s : State) (m : List Nat) : (s.sample m).store = s.store := by
  unfold State.sample; split; · rfl
  simp only; split <;> simp
@[simp] theorem State.sample_sweep (s : State) (m : List Nat) : (s.sample m).sweep = s.sweep := by
  unfold State.sample; split; · rfl
  simp only; split <;> simp
@[simp] theorem State.sample_now (s : State) (m : List Nat) : (s.sample m).now = s.now := by
  unfold State.sample; split; · rfl
  simp only; split <;> simp
@[simp] theorem State.sample_inputReads (s : State) (m : List Nat) : (s.sample m).inputReads = s.inputReads := by
  unfold State.sample; split; · rfl
  simp only; split <;> simp
@[simp] theorem State.sample_pending (s : State) (m : List Nat) : (s.sample m).pending = s.pending := by
  unfold State.sample; split; · rfl
  simp only; split <;> simp
@[simp] theorem State.sweepEvent_line (s : State) (fr : SweepFrame) : (s.sweepEvent fr).line = s.line := by
  unfold State.sweepEvent; split <;> simp
@[simp] theorem State.sweepEvent_store (s : State) (fr : SweepFrame) : (s.sweepEvent fr).store = s.store := by
  unfold State.sweepEvent; split <;> simp
@[simp] theorem State.sweepEvent_now (s : State) (fr : SweepFrame) : (s.sweepEvent fr).now = s.now := by
  unfold State.sweepEvent; split <;> simp
@[simp] theorem State.sweepEvent_inputReads (s : State) (fr : SweepFrame) : (s.sweepEvent fr).inputReads = s.inputReads := by
  unfold State.sweepEvent; split <;> simp
@[simp] theorem State.sweepEvent_pending (s : State) (fr : SweepFrame) : (s.sweepEvent fr).pending = s.pending := by
  unfold State.sweepEvent; split <;> simp
@[simp] theorem State.dueCommit_lamp (s : State) : (s.dueCommit).lamp = s.lamp := by
  unfold State.dueCommit; split <;> simp
@[simp] theorem State.dueCommit_now (s : State) : (s.dueCommit).now = s.now := by
  unfold State.dueCommit; split <;> simp
@[simp] theorem State.dueCommit_inputReads (s : State) : (s.dueCommit).inputReads = s.inputReads := by
  unfold State.dueCommit; split <;> simp
@[simp] theorem State.dueCommit_pending (s : State) : (s.dueCommit).pending = s.pending := by
  unfold State.dueCommit; split <;> simp
@[simp] theorem State.dueReading_line (s : State) : (s.dueReading).line = s.line := by
  unfold State.dueReading; split <;> simp
@[simp] theorem State.dueReading_node (s : State) : (s.dueReading).node = s.node := by
  unfold State.dueReading; split <;> simp
@[simp] theorem State.dueReading_store (s : State) : (s.dueReading).store = s.store := by
  unfold State.dueReading; split <;> simp
@[simp] theorem State.dueReading_take (s : State) : (s.dueReading).take = s.take := by
  unfold State.dueReading; split <;> simp
@[simp] theorem State.dueReading_sweep (s : State) : (s.dueReading).sweep = s.sweep := by
  unfold State.dueReading; split <;> simp
@[simp] theorem State.dueReading_watchdog (s : State) : (s.dueReading).watchdog = s.watchdog := by
  unfold State.dueReading; split <;> simp
@[simp] theorem State.dueReading_now (s : State) : (s.dueReading).now = s.now := by
  unfold State.dueReading; split <;> simp
@[simp] theorem State.dueReading_pending (s : State) : (s.dueReading).pending = s.pending := by
  unfold State.dueReading; split <;> simp
@[simp] theorem State.dueSample_line (s : State) : (s.dueSample).line = s.line := by
  unfold State.dueSample; split <;> simp
@[simp] theorem State.dueSample_store (s : State) : (s.dueSample).store = s.store := by
  unfold State.dueSample; split <;> simp
@[simp] theorem State.dueSample_sweep (s : State) : (s.dueSample).sweep = s.sweep := by
  unfold State.dueSample; split <;> simp
@[simp] theorem State.dueSample_now (s : State) : (s.dueSample).now = s.now := by
  unfold State.dueSample; split <;> simp
@[simp] theorem State.dueSample_pending (s : State) : (s.dueSample).pending = s.pending := by
  unfold State.dueSample; split <;> simp
@[simp] theorem State.powerUp_inputReads (s : State) (c : Cause) (p : ResetInputs) : (s.powerUp c p).inputReads = s.inputReads := by
  simp only [State.powerUp]
@[simp] theorem State.powerUp_pending (s : State) (c : Cause) (p : ResetInputs) : (s.powerUp c p).pending = s.pending := by
  simp only [State.powerUp]
@[simp] theorem State.keepRestart_inputReads (s : State) (p : ResetInputs) : (s.keepRestart p).inputReads = s.inputReads := by
  simp [State.keepRestart]
@[simp] theorem State.keepRestart_pending (s : State) (p : ResetInputs) : (s.keepRestart p).pending = s.pending := by
  simp [State.keepRestart]
@[simp] theorem State.restartEffect_inputReads (s : State) (k : RestartKind) (p : ResetInputs) : (s.restartEffect k p).inputReads = s.inputReads := by
  unfold State.restartEffect; split <;> simp
@[simp] theorem State.restartEffect_pending (s : State) (k : RestartKind) (p : ResetInputs) : (s.restartEffect k p).pending = s.pending := by
  unfold State.restartEffect; split <;> simp
@[simp] theorem State.dueRestart_pending (s : State) : s.dueRestart.pending = s.pending := by
  unfold State.dueRestart; split <;> simp
@[simp] theorem State.dueWatchdog_line (s : State) : s.dueWatchdog.line = s.line := by
  unfold State.dueWatchdog; split <;> simp
@[simp] theorem State.dueWatchdog_store (s : State) : s.dueWatchdog.store = s.store := by
  unfold State.dueWatchdog; split <;> simp
@[simp] theorem State.dueWatchdog_sweep (s : State) : s.dueWatchdog.sweep = s.sweep := by
  unfold State.dueWatchdog; split <;> simp
@[simp] theorem State.dueWatchdog_lamp (s : State) : s.dueWatchdog.lamp = s.lamp := by
  unfold State.dueWatchdog; split <;> simp
@[simp] theorem State.dueWatchdog_now (s : State) : s.dueWatchdog.now = s.now := by
  unfold State.dueWatchdog; split <;> simp
@[simp] theorem State.dueWatchdog_inputReads (s : State) : s.dueWatchdog.inputReads = s.inputReads := by
  unfold State.dueWatchdog; split <;> simp
@[simp] theorem State.dueWatchdog_pending (s : State) : s.dueWatchdog.pending = s.pending := by
  unfold State.dueWatchdog; split <;> simp
@[simp] theorem State.dueUnheld_line (s : State) : s.dueUnheld.line = s.line := by
  unfold State.dueUnheld; split <;> simp
@[simp] theorem State.dueUnheld_node (s : State) : s.dueUnheld.node = s.node := by
  unfold State.dueUnheld; split <;> simp
@[simp] theorem State.dueUnheld_store (s : State) : s.dueUnheld.store = s.store := by
  unfold State.dueUnheld; split <;> simp
@[simp] theorem State.dueUnheld_take (s : State) : s.dueUnheld.take = s.take := by
  unfold State.dueUnheld; split <;> simp
@[simp] theorem State.dueUnheld_sweep (s : State) : s.dueUnheld.sweep = s.sweep := by
  unfold State.dueUnheld; split <;> simp
@[simp] theorem State.dueUnheld_watchdog (s : State) : s.dueUnheld.watchdog = s.watchdog := by
  unfold State.dueUnheld; split <;> simp
@[simp] theorem State.dueUnheld_lamp (s : State) : s.dueUnheld.lamp = s.lamp := by
  unfold State.dueUnheld; split <;> simp
@[simp] theorem State.dueUnheld_now (s : State) : s.dueUnheld.now = s.now := by
  unfold State.dueUnheld; split <;> simp
@[simp] theorem State.dueUnheld_inputReads (s : State) : s.dueUnheld.inputReads = s.inputReads := by
  unfold State.dueUnheld; split <;> simp
@[simp] theorem State.dueUnheld_pending (s : State) : s.dueUnheld.pending = s.pending := by
  unfold State.dueUnheld; split <;> simp
@[simp] theorem State.dueSlew_line (s : State) : s.dueSlew.line = s.line := by
  unfold State.dueSlew; split <;> simp
@[simp] theorem State.dueSlew_node (s : State) : s.dueSlew.node = s.node := by
  unfold State.dueSlew; split <;> simp
@[simp] theorem State.dueSlew_store (s : State) : s.dueSlew.store = s.store := by
  unfold State.dueSlew; split <;> simp
@[simp] theorem State.dueSlew_take (s : State) : s.dueSlew.take = s.take := by
  unfold State.dueSlew; split <;> simp
@[simp] theorem State.dueSlew_sweep (s : State) : s.dueSlew.sweep = s.sweep := by
  unfold State.dueSlew; split <;> simp
@[simp] theorem State.dueSlew_watchdog (s : State) : s.dueSlew.watchdog = s.watchdog := by
  unfold State.dueSlew; split <;> simp
@[simp] theorem State.dueSlew_lamp (s : State) : s.dueSlew.lamp = s.lamp := by
  unfold State.dueSlew; split <;> simp
@[simp] theorem State.dueSlew_events (s : State) : s.dueSlew.events = s.events := by
  unfold State.dueSlew; split <;> simp
@[simp] theorem State.dueSlew_now (s : State) : s.dueSlew.now = s.now := by
  unfold State.dueSlew; split <;> simp
@[simp] theorem State.dueSlew_inputReads (s : State) : s.dueSlew.inputReads = s.inputReads := by
  unfold State.dueSlew; split <;> simp
@[simp] theorem State.dueSlew_pending (s : State) : s.dueSlew.pending = s.pending := by
  unfold State.dueSlew; split <;> simp
@[simp] theorem State.goStales_line (l : List Neighbour) (s : State) :
    (l.foldl State.goStale s).line = s.line := by
  induction l generalizing s with
  | nil => rfl
  | cons n l ih => rw [List.foldl_cons, ih]; simp
@[simp] theorem State.dueStales_line (s : State) : s.dueStales.line = s.line := by
  simp [State.dueStales]
@[simp] theorem State.goStales_node (l : List Neighbour) (s : State) :
    (l.foldl State.goStale s).node = s.node := by
  induction l generalizing s with
  | nil => rfl
  | cons n l ih => rw [List.foldl_cons, ih]; simp
@[simp] theorem State.dueStales_node (s : State) : s.dueStales.node = s.node := by
  simp [State.dueStales]
@[simp] theorem State.goStales_store (l : List Neighbour) (s : State) :
    (l.foldl State.goStale s).store = s.store := by
  induction l generalizing s with
  | nil => rfl
  | cons n l ih => rw [List.foldl_cons, ih]; simp
@[simp] theorem State.dueStales_store (s : State) : s.dueStales.store = s.store := by
  simp [State.dueStales]
@[simp] theorem State.goStales_take (l : List Neighbour) (s : State) :
    (l.foldl State.goStale s).take = s.take := by
  induction l generalizing s with
  | nil => rfl
  | cons n l ih => rw [List.foldl_cons, ih]; simp
@[simp] theorem State.dueStales_take (s : State) : s.dueStales.take = s.take := by
  simp [State.dueStales]
@[simp] theorem State.goStales_watchdog (l : List Neighbour) (s : State) :
    (l.foldl State.goStale s).watchdog = s.watchdog := by
  induction l generalizing s with
  | nil => rfl
  | cons n l ih => rw [List.foldl_cons, ih]; simp
@[simp] theorem State.dueStales_watchdog (s : State) : s.dueStales.watchdog = s.watchdog := by
  simp [State.dueStales]
@[simp] theorem State.goStales_lamp (l : List Neighbour) (s : State) :
    (l.foldl State.goStale s).lamp = s.lamp := by
  induction l generalizing s with
  | nil => rfl
  | cons n l ih => rw [List.foldl_cons, ih]; simp
@[simp] theorem State.dueStales_lamp (s : State) : s.dueStales.lamp = s.lamp := by
  simp [State.dueStales]
@[simp] theorem State.goStales_events (l : List Neighbour) (s : State) :
    (l.foldl State.goStale s).events = s.events := by
  induction l generalizing s with
  | nil => rfl
  | cons n l ih => rw [List.foldl_cons, ih]; simp
@[simp] theorem State.dueStales_events (s : State) : s.dueStales.events = s.events := by
  simp [State.dueStales]
@[simp] theorem State.goStales_now (l : List Neighbour) (s : State) :
    (l.foldl State.goStale s).now = s.now := by
  induction l generalizing s with
  | nil => rfl
  | cons n l ih => rw [List.foldl_cons, ih]; simp
@[simp] theorem State.dueStales_now (s : State) : s.dueStales.now = s.now := by
  simp [State.dueStales]
@[simp] theorem State.goStales_inputReads (l : List Neighbour) (s : State) :
    (l.foldl State.goStale s).inputReads = s.inputReads := by
  induction l generalizing s with
  | nil => rfl
  | cons n l ih => rw [List.foldl_cons, ih]; simp
@[simp] theorem State.dueStales_inputReads (s : State) : s.dueStales.inputReads = s.inputReads := by
  simp [State.dueStales]
@[simp] theorem State.goStales_pending (l : List Neighbour) (s : State) :
    (l.foldl State.goStale s).pending = s.pending := by
  induction l generalizing s with
  | nil => rfl
  | cons n l ih => rw [List.foldl_cons, ih]; simp
@[simp] theorem State.dueStales_pending (s : State) : s.dueStales.pending = s.pending := by
  simp [State.dueStales]
@[simp] theorem State.due_pending (s : State) : s.due.pending = s.pending := by
  simp [State.due]
@[simp] theorem State.settled_pending (s : State) : s.settled.pending = s.pending := by
  unfold State.settled; split <;> simp
@[simp] theorem State.run_pending (fuel n : Nat) (s : State) : (s.run fuel n).pending = s.pending := by
  induction fuel generalizing n s with
  | zero => rfl
  | succ fuel ih =>
    simp only [State.run]
    split
    · simp
    · rw [ih]; simp
@[simp] theorem State.reach_pending (s : State) (n : Nat) : (s.reach n).pending = s.pending := by
  unfold State.reach; split <;> simp
@[simp] theorem State.effectOf_pending (s : State) (k : RestartKind) (p : ResetInputs) :
    (s.effectOf k p).pending = s.pending := by
  unfold State.effectOf; repeat' split
  all_goals simp
@[simp] theorem State.tick_pending (s : State) : s.tick.pending = s.pending := by
  unfold State.tick; split <;> simp

end Sys2Proof.Machine
end

