-- ==== Sys2Proof/Laws/Sequencer.lean ====
section
/-! SUPPORT. A condition on the gantry that every act of the Lane Sequencer keeps. -/

namespace Sys2Proof.Machine

/-! ## Keeping a condition through the sequencer -/

/-- A condition on the gantry that the sequencer keeps, told act by act: what the lemmas below ask
for. -/
structure Env.Walks (e : Env) (Q : Gantry → Prop) : Prop where
  /-- CLOSED is shown -/
  close : ∀ h g, Q g → Q (e.change h .closed .steady g)
  /-- a merge is shown by a head that shows a permissive aspect -/
  merge : ∀ h a st g, g.heads[h].displayed.permissive = true → a.merge = true →
    (st = .steady ∨ st = .merging) → Q g → Q (e.change h a st g)
  /-- the target is shown when the conditions of the opening path hold -/
  opening : ∀ h t g, g.heads[h].target = some t →
    (g.heads[h].displayed ≠ .dark ∨ g.heads[h].stage = some .openingWait) →
    e.openingHolds h t g = true → Q g → Q (e.change h t .steady g)
  stand : ∀ h st g, (g.heads[h].displayed ≠ .dark ∨ st = .steady) → Q g → Q (g.stand h st)
  wait : ∀ h st g, (g.heads[h].displayed ≠ .dark ∨ g.heads[h].stage = some .merging) → Q g →
    Q (e.wait h st g)
  target : ∀ (h : Fin 8) t g, Q g → Q { g with
    heads := g.heads.set h
      { g.heads[h] with target := some t, waitStart := none, waitTime := 0, stalled := false } }
  clear : ∀ (k : Fin 4) g, e.clearanceDue k g = true → Q g →
    Q { g with lanes := g.lanes.set k { g.lanes[k] with clear := true } }

variable {e : Env} {Q : Gantry → Prop}

theorem Env.Walks.reachCloseWait (W : e.Walks Q) (h : Fin 8) (g : Gantry)
    (hd : g.heads[h].displayed ≠ .dark ∨ g.heads[h].stage = some .merging) (hq : Q g) :
    Q (e.reachCloseWait h g) := by
  unfold Env.reachCloseWait
  split
  · exact W.close h g hq
  · exact W.wait h _ g hd hq

theorem Env.Walks.reachOpeningWait (W : e.Walks Q) (h : Fin 8) (t : Aspect) (g : Gantry)
    (ht : g.heads[h].target = some t) (hd : g.heads[h].displayed ≠ .dark) (hq : Q g) :
    Q (e.reachOpeningWait h t g) := by
  unfold Env.reachOpeningWait
  split
  · rename_i hc
    simp only [Bool.and_eq_true] at hc
    exact W.opening h t g ht (.inl hd) hc.2 hq
  · exact W.wait h _ g (.inl hd) hq

theorem Env.Walks.atOnce (W : e.Walks Q) (h : Fin 8) (a : Aspect) (st : Stage) (g : Gantry)
    (hd : g.heads[h].displayed.permissive = true) (ha : a.merge = true)
    (hst : st = .steady ∨ st = .merging) (hq : Q g) : Q (e.atOnce h a st g) := by
  unfold Env.atOnce
  split
  · refine W.stand h _ g (.inl ?_) hq
    intro hc
    rw [hc] at hd
    cases hd
  · exact W.merge h a st g hd ha hst hq

theorem Bank.closingMerge_merge (b : Bank) (h : Fin 8) : (b.closingMerge h).merge = true := by
  unfold Bank.closingMerge
  split <;> rfl

theorem Env.Walks.beginPath (W : e.Walks Q) (h : Fin 8) (g : Gantry) (hq : Q g) :
    Q (e.beginPath h g) := by
  have hm := e.bank.closingMerge_merge h
  unfold Env.beginPath
  split
  · exact hq
  · rename_i t ht
    split
    · exact W.stand h _ g (.inr rfl) hq
    · split
      · exact hq
      · rename_i hd
        split
        · exact W.atOnce h t _ g (by rw [hd]; rfl) ‹_› (.inl rfl) hq
        · exact W.atOnce h _ _ g (by rw [hd]; rfl) hm (.inr rfl) hq
      · rename_i hd
        exact W.reachOpeningWait h t g ht (by rw [hd]; decide) hq
      all_goals
        rename_i hd
        split
        · exact W.atOnce h t _ g (by rw [hd]; rfl) ‹_› (.inl rfl) hq
        · split
          · exact W.reachOpeningWait h t g ht (by rw [hd]; decide) hq
          · split
            · exact W.stand h _ g (.inl (by rw [hd]; decide)) hq
            · exact W.reachCloseWait h g (.inl (by rw [hd]; decide)) hq

theorem Env.Walks.unheld (W : e.Walks Q) : Env.Walks { e with hold := false } Q :=
  ⟨W.close, W.merge, W.opening, W.stand, W.wait, W.target, W.clear⟩

theorem Env.Walks.heldChange (W : e.Walks Q) (h : Fin 8) (g : Gantry) (hq : Q g) :
    Q (e.heldChange h g) := W.unheld.beginPath h g hq

theorem Env.Walks.setTarget (W : e.Walks Q) (h : Fin 8) (t : Aspect) (g : Gantry) (hq : Q g) :
    Q (e.setTarget h t g) := by
  unfold Env.setTarget
  split
  · exact hq
  · exact W.beginPath h _ (W.target h t g hq)

theorem Env.Walks.retest (W : e.Walks Q) (h : Fin 8) (g : Gantry) (hq : Q g) :
    Q (e.retest h g) := by
  unfold Env.retest
  split
  · exact hq
  · split
    · split
      · exact W.close h g hq
      · exact hq
    · rename_i hs
      split
      · rename_i t ht
        split
        · exact W.opening h t g ht (.inr hs) ‹_› hq
        · exact hq
      · exact hq
    · exact W.heldChange h g hq
    all_goals exact hq

theorem Env.Walks.retestAll (W : e.Walks Q) (hs : List (Fin 8)) (g : Gantry) (hq : Q g) :
    Q (e.retestAll hs g) := by
  unfold Env.retestAll
  induction hs generalizing g with
  | nil => exact hq
  | cons h hs ih => exact ih _ (W.retest h g hq)

theorem Env.Walks.retestExisting (W : e.Walks Q) (g : Gantry) (hq : Q g) : Q (e.retestExisting g) :=
  W.retestAll _ g hq

theorem Env.Walks.retestOpposites (W : e.Walks Q) (before g : Gantry) (hq : Q g) :
    Q (e.retestOpposites before g) := W.retestAll _ g hq

theorem Env.Walks.stepHead (W : e.Walks Q) (h : Fin 8) (g : Gantry) (hq : Q g) :
    Q (e.stepHead h g) := by
  unfold Env.stepHead
  split
  · exact W.heldChange h g hq
  · split
    · exact W.close h g hq
    · exact hq
  · split
    · exact W.close h g hq
    · exact hq
  · rename_i hs
    split
    · rename_i t ht
      split
      · exact W.opening h t g ht (.inr hs) ‹_› hq
      · exact hq
    · exact hq
  all_goals exact hq

theorem Env.Walks.stepExisting (W : e.Walks Q) (g : Gantry) (hq : Q g) : Q (e.stepExisting g) := by
  unfold Env.stepExisting
  induction e.bank.existing generalizing g with
  | nil => exact hq
  | cons h hs ih => exact ih _ (W.stepHead h g hq)

theorem Env.Walks.takeTargets (W : e.Walks Q) (p : Nat) (g : Gantry) (hq : Q g) :
    Q (e.takeTargets p g) := by
  unfold Env.takeTargets
  induction e.bank.existing generalizing g with
  | nil => exact hq
  | cons h hs ih =>
    refine ih _ ?_
    simp only
    split
    · exact W.setTarget h _ g hq
    · exact hq

theorem Env.Walks.holdTargets (W : e.Walks Q) (g : Gantry) (hq : Q g) : Q (e.holdTargets g) := by
  unfold Env.holdTargets
  induction e.bank.existing generalizing g with
  | nil => exact hq
  | cons h hs ih =>
    refine ih _ ?_
    simp only
    split
    · exact hq
    · exact hq
    · exact W.setTarget h _ g hq

theorem Env.Walks.dwellComplete (W : e.Walks Q) (h : Fin 8) (g : Gantry) (hq : Q g) :
    Q (e.dwellComplete h g) := by
  unfold Env.dwellComplete
  split
  · exact W.reachCloseWait h g (.inr ‹_›) hq
  · exact hq

theorem Env.Walks.clearanceComplete (W : e.Walks Q) (k : Fin 4) (g : Gantry)
    (hd : e.clearanceDue k g = true) (hq : Q g) : Q (e.clearanceComplete k g) :=
  W.retestAll _ _ (W.clear k g hd hq)

theorem Env.Walks.dueDwells (W : e.Walks Q) (g : Gantry) (hq : Q g) : Q (e.dueDwells g) := by
  unfold Env.dueDwells
  induction allHeads generalizing g with
  | nil => exact hq
  | cons h hs ih =>
    refine ih _ ?_
    simp only
    split
    · exact W.dwellComplete h g hq
    · exact hq

theorem Env.Walks.dueClearances (W : e.Walks Q) (ks : List (Fin 4)) (g : Gantry) (hq : Q g) :
    Q (e.dueClearances ks g) := by
  unfold Env.dueClearances
  induction ks generalizing g with
  | nil => exact hq
  | cons k ks ih =>
    refine ih _ ?_
    simp only
    split
    · exact W.clearanceComplete k g ‹_› hq
    · exact hq

/-- A walk: an act of the sequencer that keeps whatever its acts keep. -/
def Env.Walk (f : Env → Gantry → Gantry) : Prop :=
  ∀ (e : Env) (Q : Gantry → Prop), e.Walks Q → ∀ g, Q g → Q (f e g)

theorem Env.walk_retestExisting : Env.Walk Env.retestExisting := fun _ _ W g => W.retestExisting g

theorem Env.walk_retestAll (hs : Env → List (Fin 8)) : Env.Walk fun e => e.retestAll (hs e) :=
  fun _ _ W g => W.retestAll _ g

theorem Env.walk_retestOpposites (before : Gantry) :
    Env.Walk fun e g => e.retestOpposites before g := fun _ _ W g => W.retestOpposites before g

theorem Env.walk_stepExisting : Env.Walk Env.stepExisting := fun _ _ W g => W.stepExisting g

theorem Env.walk_takeTargets (p : Nat) : Env.Walk fun e => e.takeTargets p :=
  fun _ _ W g => W.takeTargets p g

theorem Env.walk_policy (p : Nat) :
    Env.Walk fun e => if p = 0 then e.holdTargets else e.takeTargets p := by
  intro e Q W g hq
  simp only
  split
  · exact W.holdTargets g hq
  · exact W.takeTargets p g hq

theorem Env.walk_dwellComplete (h : Fin 8) : Env.Walk fun e => e.dwellComplete h :=
  fun _ _ W g => W.dwellComplete h g

/-- A clearance completes when it is due. -/
theorem Env.walk_clearanceComplete (k : Fin 4) :
    Env.Walk fun e g => if e.clearanceDue k g then e.clearanceComplete k g else g := by
  intro e Q W g hq
  simp only
  split
  · exact W.clearanceComplete k g ‹_› hq
  · exact hq

theorem Env.walk_dueDwells : Env.Walk Env.dueDwells := fun _ _ W g => W.dueDwells g

theorem Env.walk_dueClearances (ks : List (Fin 4)) : Env.Walk fun e => e.dueClearances ks :=
  fun _ _ W g => W.dueClearances ks g

/-! ## The completions of one event, in the words of the statements -/

/-- The due stalls of all heads at the gantry and the event queue. -/
def Env.stallAll (e : Env) (clock : Clock) (r : Gantry × EventUnit) : Gantry × EventUnit :=
  allHeads.foldl (fun (r : Gantry × EventUnit) h =>
    if e.stallDue h r.1 then (r.1.stall h, r.2.post ⟨.sequenceStalled h, 0, 0, clock⟩) else r) r

theorem State.dueStalls_eq (s : State) : s.dueStalls =
    let r := s.env.stallAll s.take.clock (s.gantry, s.events)
    { s with gantry := r.1, events := r.2 } := by
  unfold State.dueStalls Env.stallAll
  induction allHeads generalizing s with
  | nil => rfl
  | cons h hs ih =>
    simp only [List.foldl_cons]
    rw [ih]
    split <;> rfl

theorem Env.completed_eq (e : Env) (dwells : Bool) (lanes : Fin 4 → Bool) (stalls : Bool) (clock : Clock)
    (g : Gantry) (q : EventUnit) :
    e.completed dwells lanes stalls clock g q =
      let dwelt := if dwells then e.dueDwells g else g
      let cleared := e.dueClearances (allLanes.filter lanes) dwelt
      if stalls then e.stallAll clock (cleared, q) else (cleared, q) := by
  have hd : ∀ g : Gantry, allHeads.foldl (fun (g : Gantry) (h : Fin 8) =>
      let x := g.heads[h]
      if dwells = true ∧ e.bank.headExists h = true ∧ x.stage = some .merging
          ∧ e.bank.dwellMs ≤ x.mergeServed then
        if e.hold = false ∧ e.upstreamHolds h = true then e.change h .closed .steady g
        else { g with heads := g.heads.set h { x with
          stage := some .closeWait, waitStart := some e.now, waitTime := 0, stalled := false } }
      else g) g = if dwells then e.dueDwells g else g := by
    unfold Env.dueDwells
    induction allHeads with
    | nil => intro g; cases dwells <;> rfl
    | cons h hs ih =>
      intro g
      rw [List.foldl_cons, ih]
      cases dwells
      · simp
      · simp only [if_true, List.foldl_cons]
        congr 1
        by_cases hx : e.dwellDue h g = true
        · rw [if_pos hx]
          simp only [Env.dwellDue, Bool.and_eq_true, beq_iff_eq, decide_eq_true_eq] at hx
          rw [if_pos ⟨trivial, hx.1.1, hx.1.2, hx.2⟩]
          simp only [Env.dwellComplete, hx.1.2, if_true, Env.reachCloseWait, Env.wait, Bool.and_eq_true,
            Bool.not_eq_true']
        · rw [if_neg hx, if_neg]
          simp only [Env.dwellDue, Bool.and_eq_true, beq_iff_eq, decide_eq_true_eq] at hx
          tauto
  have hc : ∀ g : Gantry, allLanes.foldl (fun (g : Gantry) (k : Fin 4) =>
      let x := g.lanes[k]
      if lanes k = true ∧ e.bank.tidal k = true ∧ x.clearSince ≠ none ∧ x.clear = false
          ∧ e.bank.clearanceMs k ≤ x.clearCount then
        e.retestAll [e.bank.faceHead k .asc, e.bank.faceHead k .desc]
          { g with lanes := g.lanes.set k { x with clear := true } }
      else g) g = e.dueClearances (allLanes.filter lanes) g := by
    unfold Env.dueClearances
    induction allLanes with
    | nil => intro g; rfl
    | cons k ks ih =>
      intro g
      rw [List.foldl_cons, ih, List.filter_cons]
      have hx : e.clearanceDue k g = true ↔ e.bank.tidal k = true ∧ g.lanes[k].clearSince ≠ none
          ∧ g.lanes[k].clear = false ∧ e.bank.clearanceMs k ≤ g.lanes[k].clearCount := by
        simp only [Env.clearanceDue, Bool.and_eq_true, decide_eq_true_eq, Bool.not_eq_true',
          Option.isSome_iff_ne_none]
        tauto
      cases hl : lanes k
      · simp
      · simp only [if_true, List.foldl_cons]
        congr 1
        by_cases hy : e.clearanceDue k g = true
        · rw [if_pos hy, if_pos ⟨trivial, hx.1 hy⟩]
          rfl
        · rw [if_neg hy, if_neg (fun h => hy (hx.2 h.2))]
  have hs : ∀ r : Gantry × EventUnit, allHeads.foldl (fun (r : Gantry × EventUnit) (h : Fin 8) =>
      let x := r.1.heads[h]
      if stalls = true ∧ e.bank.headExists h = true
          ∧ (x.stage = some .closeWait ∨ x.stage = some .openingWait)
          ∧ x.stalled = false ∧ e.bank.stallMs ≤ x.waitTime then
        ({ r.1 with heads := r.1.heads.set h { x with stalled := true } },
          r.2.post ⟨.sequenceStalled h, 0, 0, clock⟩)
      else r) r = if stalls then e.stallAll clock r else r := by
    unfold Env.stallAll
    induction allHeads with
    | nil => intro r; cases stalls <;> rfl
    | cons h hs ih =>
      intro r
      rw [List.foldl_cons, ih]
      have hx : e.stallDue h r.1 = true ↔ e.bank.headExists h = true
          ∧ (r.1.heads[h].stage = some .closeWait ∨ r.1.heads[h].stage = some .openingWait)
          ∧ r.1.heads[h].stalled = false ∧ e.bank.stallMs ≤ r.1.heads[h].waitTime := by
        simp only [Env.stallDue, Head.waiting, Bool.and_eq_true, Bool.or_eq_true, decide_eq_true_eq,
          Bool.not_eq_true', beq_iff_eq]
        tauto
      cases stalls
      · simp
      · simp only [if_true, List.foldl_cons]
        congr 1
        by_cases hy : e.stallDue h r.1 = true
        · rw [if_pos hy, if_pos ⟨trivial, hx.1 hy⟩]
          rfl
        · rw [if_neg hy, if_neg (fun h => hy (hx.2 h.2))]
  unfold Env.completed
  simp only
  rw [hd, hc, hs]

/-- Every timer of the sequencer that has reached its interval completes. -/
theorem State.dueSequencer_completed (s : State) : s.dueSequencer =
    let done := s.env.completed true (fun _ => true) true s.take.clock s.gantry s.events
    { s with gantry := done.1, events := done.2 } := by
  unfold State.dueSequencer
  rw [State.dueStalls_eq, Env.completed_eq, List.filter_true]
  rfl

/-- Those complete whose interval a commit lowers. -/
theorem State.dueLowered_completed (s : State) (old : Bank) : s.dueLowered old =
    let b := s.store.active
    let done := s.env.completed (decide (b.dwellMs < old.dwellMs))
      (fun k => decide (b.clearanceMs k < old.clearanceMs k)) (decide (b.stallMs < old.stallMs))
      s.take.clock s.gantry s.events
    { s with gantry := done.1, events := done.2 } := by
  unfold State.dueLowered
  simp only [Env.completed_eq, decide_eq_true_eq]
  split <;> split
  · rw [State.dueStalls_eq]
    rfl
  · rw [State.dueStalls_eq]
    rfl
  · rfl
  · rfl

/-! ## Fallback entry (R128) -/

theorem State.applyPolicy_eq (s : State) : s.applyPolicy =
    let p := s.store.active.fallbackPolicy
    { s with
      gantry := if p = 0 then s.env.holdTargets s.gantry else s.env.takeTargets p s.gantry
      take := { s.take with currentPlan := p } } := by
  unfold State.applyPolicy State.seq
  simp only
  split <;> rfl

theorem Env.holdTargets_eq (e : Env) (g : Gantry) : e.holdTargets g =
    (allHeads.filter e.bank.headExists).foldl (fun (g : Gantry) (h : Fin 8) =>
      if g.heads[h].stage = some .merging ∨ g.heads[h].stage = some .closeWait then g
      else e.setTarget h g.heads[h].displayed g) g := by
  unfold Env.holdTargets Bank.existing
  congr 1
  funext g h
  cases hs : g.heads[h].stage with
  | none => simp
  | some x => cases x <;> simp

/-- The gantry after fallback entry. -/
theorem State.fallbackEntry_gantry (s : State) : s.fallbackEntry.gantry =
    ({ s.env with mode := .fallback, hold := false } : Env).fallenBack s.gantry := by
  unfold State.fallbackEntry Env.fallenBack
  simp only [State.applyPolicy_eq, ← Env.holdTargets_eq]
  rfl

end Sys2Proof.Machine
end

