-- ==== Sys2Proof/Laws/Gantry.lean ====
section
/-! SUPPORT. What a change of the displayed patterns does to heads and channels. -/

namespace Sys2Proof.Machine

/-! ## What relight does: the heads are those given, but for the proving state; a channel follows the
lit set -/

/-- A head with another proving state. -/
def Head.SameBut (a b : Head) : Prop := a = { b with proving := a.proving }

theorem Gantry.relight_heads (g : Gantry) (old new : Bank) (forced : Fin 8 → Bool)
    (heads : Vector Head 8) (h : Fin 8) :
    ((g.relight old new forced heads).heads[h]).SameBut heads[h] := by
  unfold Head.SameBut
  simp only [Gantry.relight, Fin.getElem_fin, Vector.getElem_ofFn]
  split <;> rfl

theorem Head.SameBut.displayed {a b : Head} (h : a.SameBut b) : a.displayed = b.displayed := by
  rw [h]

theorem Head.SameBut.stage {a b : Head} (h : a.SameBut b) : a.stage = b.stage := by rw [h]

theorem Head.SameBut.target {a b : Head} (h : a.SameBut b) : a.target = b.target := by rw [h]

theorem Head.SameBut.test {a b : Head} (h : a.SameBut b) : a.test = b.test := by rw [h]

theorem Head.SameBut.shown {a b : Head} (h : a.SameBut b) : a.shown = b.shown := by rw [h]; rfl

@[simp] theorem Gantry.relight_lanes (g : Gantry) (old new : Bank) (forced : Fin 8 → Bool)
    (heads : Vector Head 8) : (g.relight old new forced heads).lanes = g.lanes := by
  simp only [Gantry.relight]

/-- The lit set follows from what the heads show. -/
theorem Bank.litChannels_congr (b : Bank) {x y : Vector Head 8}
    (h : ∀ i : Fin 8, x[i].shown = y[i].shown) : b.litChannels x = b.litChannels y := by
  unfold Bank.litChannels Bank.shownPattern
  congr 1
  funext i
  rw [h i]

theorem Gantry.relight_lit (g : Gantry) (old new : Bank) (forced : Fin 8 → Bool)
    (heads : Vector Head 8) (b : Bank) :
    b.litChannels (g.relight old new forced heads).heads = b.litChannels heads :=
  b.litChannels_congr fun h => (g.relight_heads old new forced heads h).shown

/-- A channel across an event, by its place before and after it. -/
theorem Gantry.relight_channel (g : Gantry) (old new : Bank) (forced : Fin 8 → Bool)
    (heads : Vector Head 8) (c : Fin 32) :
    ∃ restart, (g.relight old new forced heads).channels[c]
      = g.channels[c].relight ((old.litChannels g.heads).contains c)
          ((new.litChannels heads).contains c) restart := by
  simp only [Gantry.relight, Fin.getElem_fin, Vector.getElem_ofFn]
  exact ⟨_, rfl⟩

/-- What one event does to channels and slew timer: the lit set goes from that of the heads before it to
that of the heads given, and the displayed patterns of the heads moved settle anew. -/
theorem Gantry.relit_relight (g : Gantry) (old new : Bank) (forced : Fin 8 → Bool)
    (heads : Vector Head 8) :
    g.relit (g.relight old new forced heads) (fun c => c ∈ old.litChannels g.heads)
      (fun c => c ∈ new.litChannels heads)
      (fun c => ∃ h : Fin 8, (forced h = true ∨ heads[h].shown ≠ g.heads[h].shown)
        ∧ ∃ x ∈ new.shownPattern h heads[h], x.channel = c) := by
  have anew : ∀ c : Fin 32,
      (((allHeads.filter fun h => forced h || heads[h].shown != g.heads[h].shown).flatMap fun h =>
        (new.shownPattern h heads[h]).map PatternEntry.channel).contains c = true
      ↔ ∃ h : Fin 8, (forced h = true ∨ heads[h].shown ≠ g.heads[h].shown)
        ∧ ∃ x ∈ new.shownPattern h heads[h], x.channel = c) := by
    intro c
    have mem : ∀ i : Fin 8, i ∈ allHeads := by decide
    simp only [List.contains_iff_mem, List.mem_flatMap, List.mem_filter, List.mem_map, mem, true_and,
      Bool.or_eq_true, bne_iff_ne]
  refine ⟨fun c => ?_, fun ⟨c, hc, ho⟩ => ?_, fun h => ?_⟩
  · simp only [Gantry.relight, Fin.getElem_fin, Vector.getElem_ofFn, Fin.eta]
    have ha := anew c
    simp only [Fin.getElem_fin] at ha
    refine ⟨fun h1 h2 => ?_, fun h1 h2 => ?_, fun h1 h2 h3 => ?_, fun h1 h2 h3 => ?_, fun h1 h2 => ?_⟩
    · simp [Channel.relight, h1, h2]
    · simp [Channel.relight, h1, h2]
    · rw [ha.2 h3]
      simp [Channel.relight, h1, h2]
    · rw [Bool.eq_false_iff.2 fun h => h3 (ha.1 h)]
      simp [Channel.relight, h1, h2]
    · simp [Channel.relight, h1, h2]
  · exact if_pos (List.any_eq_true.2 ⟨c, hc, by simpa [Gantry.relight] using ho⟩)
  · refine if_neg fun hx => ?_
    obtain ⟨c, hc, ho⟩ := List.any_eq_true.1 hx
    exact absurd (h c hc) (by simpa [Gantry.relight] using ho)

/-- A channel is lit when the displayed pattern of some head has it. -/
theorem Bank.mem_litChannels (b : Bank) (heads : Vector Head 8) (c : Fin 32) :
    c ∈ b.litChannels heads ↔
      ∃ h : Fin 8, ∃ x ∈ b.shownPattern h heads[h], x.channel = c := by
  have mem : ∀ i : Fin 8, i ∈ allHeads := by decide
  simp only [Bank.litChannels, List.mem_flatMap, List.mem_map, mem, true_and]

/-- Only the channels and the slew timer before the event count. -/
theorem Gantry.relit.of_eq {g₁ g₂ g' : Gantry} {was is anew : Fin 32 → Prop}
    (h : g₁.relit g' was is anew) (hc : g₁.channels = g₂.channels) (hs : g₁.slew = g₂.slew) :
    g₂.relit g' was is anew := by
  unfold Gantry.relit at h ⊢
  rw [← hc, ← hs]
  exact h

/-- Only the channels and the slew timer after it count. -/
theorem Gantry.relit.after_eq {g g₁ g₂ : Gantry} {was is anew : Fin 32 → Prop}
    (h : g.relit g₁ was is anew) (hc : g₁.channels = g₂.channels) (hs : g₁.slew = g₂.slew) :
    g.relit g₂ was is anew := by
  unfold Gantry.relit at h ⊢
  rw [← hc, ← hs]
  exact h

/-- The same lit sets, and the same channels to settle anew among those that stay lit. -/
theorem Gantry.relit.congr {g g' : Gantry} {was is anew was' is' anew' : Fin 32 → Prop}
    (h : g.relit g' was is anew) (hw : ∀ c, was c ↔ was' c) (hi : ∀ c, is c ↔ is' c)
    (ha : ∀ c, was' c → is' c → (anew c ↔ anew' c)) : g.relit g' was' is' anew' := by
  obtain rfl : was = was' := funext fun c => propext (hw c)
  obtain rfl : is = is' := funext fun c => propext (hi c)
  refine ⟨fun c => ?_, h.2⟩
  obtain ⟨h1, h2, h3, h4, h5⟩ := h.1 c
  exact ⟨h1, h2, fun p q r => h3 p q ((ha c p q).2 r), fun p q r => h4 p q fun y => r ((ha c p q).1 y), h5⟩

theorem Gantry.relight_unlitDark (g : Gantry) (old new : Bank) (forced : Fin 8 → Bool)
    (heads : Vector Head 8) (hg : g.unlitDark old) :
    (g.relight old new forced heads).unlitDark new := by
  intro c hc
  rw [g.relight_lit] at hc
  obtain ⟨restart, h⟩ := g.relight_channel old new forced heads c
  rw [h]
  have hi : (new.litChannels heads).contains c = false := by simpa using hc
  rw [hi]
  cases hw : (old.litChannels g.heads).contains c
  · exact hg c (by simpa using hw)
  · rfl

/-- Heads that show the same patterns, with the same outputs, keep it. -/
theorem Gantry.unlitDark_of {g g' : Gantry} {b : Bank}
    (hh : ∀ h : Fin 8, g'.heads[h].shown = g.heads[h].shown)
    (hc : ∀ c : Fin 32, g'.channels[c].output = g.channels[c].output) (hg : g.unlitDark b) :
    g'.unlitDark b := by
  intro c h
  rw [b.litChannels_congr hh] at h
  rw [hc]
  exact hg c h

theorem Gantry.set_shown (g : Gantry) (h : Fin 8) (hd : Head) (hs : hd.shown = g.heads[h].shown)
    (i : Fin 8) : (g.heads.set h hd)[i].shown = g.heads[i].shown := by
  simp only [Fin.getElem_fin, Vector.getElem_set]
  split
  · rename_i hi
    have : i = h := Fin.ext hi.symm
    subst this
    exact hs
  · rfl

/-- The sequencer keeps R139. -/
theorem Env.unlitDark_walks (e : Env) : e.Walks fun g => g.unlitDark e.bank where
  close _ _ hg := Gantry.relight_unlitDark _ _ _ _ _ hg
  merge _ _ _ _ _ _ _ hg := Gantry.relight_unlitDark _ _ _ _ _ hg
  opening _ _ _ _ _ _ hg := Gantry.relight_unlitDark _ _ _ _ _ hg
  stand h _ g _ hg := Gantry.unlitDark_of (g.set_shown h _ rfl) (fun _ => rfl) hg
  wait h _ g _ hg := Gantry.unlitDark_of (g.set_shown h _ rfl) (fun _ => rfl) hg
  target h _ g hg := Gantry.unlitDark_of (g.set_shown h _ rfl) (fun _ => rfl) hg
  clear _ _ _ hg := Gantry.unlitDark_of (fun _ => rfl) (fun _ => rfl) hg

/-! ## Ranges of channels -/

theorem Channel.relight_inRanges {ch : Channel} (h : ch.inRanges) (was is restart : Bool) :
    (ch.relight was is restart).inRanges := by
  obtain ⟨h1, h2, h3, h4, h5, h6, h7, h8⟩ := h
  unfold Channel.relight
  split
  · exact ⟨h1, h1, h3, h4, h5, by simp⟩
  · exact ⟨h1, by simp, h3, h4, h5, by simp, by simp, h8⟩
  · split
    · exact ⟨h1, h2, h3, h4, h5, by simp, by simp, h8⟩
    · exact ⟨h1, h2, h3, h4, h5, h6, h7, h8⟩
  · exact ⟨h1, h2, h3, h4, h5, h6, h7, h8⟩

theorem Gantry.relight_inRanges {g : Gantry} (hg : g.inRanges) (old new : Bank)
    (forced : Fin 8 → Bool) (heads : Vector Head 8) :
    (g.relight old new forced heads).inRanges := by
  refine ⟨fun c => ?_, fun k => ?_⟩
  · obtain ⟨restart, h⟩ := g.relight_channel old new forced heads c
    rw [h]
    exact Channel.relight_inRanges (hg.1 c) _ _ _
  · rw [g.relight_lanes]
    exact hg.2 k

/-- Lanes whose conflict counts stand keep the ranges. -/
theorem Gantry.inRanges_lanes {g : Gantry} (hg : g.inRanges) (k : Fin 4) (l : Lane)
    (hl : l.conflictCount = g.lanes[k].conflictCount) (j : Fin 4) :
    (g.lanes.set k l)[j].conflictCount ≤ 2 := by
  simp only [Fin.getElem_fin, Vector.getElem_set]
  split
  · rw [hl]
    exact hg.2 k
  · exact hg.2 j

theorem Env.lanesAfter_conflictCount (e : Env) (h : Fin 8) (a : Aspect) {g : Gantry}
    (hg : g.inRanges) (j : Fin 4) : (e.lanesAfter h a g)[j].conflictCount ≤ 2 := by
  unfold Env.lanesAfter
  split
  · exact hg.2 j
  · split
    · split
      · exact Gantry.inRanges_lanes hg _ _ (by rfl) j
      · split
        · exact Gantry.inRanges_lanes hg _ _ (by rfl) j
        · exact hg.2 j
    · exact hg.2 j

theorem Env.change_inRanges (e : Env) (h : Fin 8) (a : Aspect) (st : Stage) {g : Gantry}
    (hg : g.inRanges) : (e.change h a st g).inRanges := by
  unfold Env.change
  exact Gantry.relight_inRanges (g := { g with lanes := e.lanesAfter h a g })
    ⟨hg.1, e.lanesAfter_conflictCount h a hg⟩ _ _ _ _

/-- The sequencer keeps the ranges. -/
theorem Env.inRanges_walks (e : Env) : e.Walks Gantry.inRanges where
  close _ _ hg := e.change_inRanges _ _ _ hg
  merge _ _ _ _ _ _ _ hg := e.change_inRanges _ _ _ hg
  opening _ _ _ _ _ _ hg := e.change_inRanges _ _ _ hg
  stand _ _ _ _ hg := hg
  wait _ _ _ _ hg := hg
  target _ _ _ hg := hg
  clear k _ _ hg := ⟨hg.1, Gantry.inRanges_lanes hg k _ rfl⟩

end Sys2Proof.Machine
end

