-- ==== Sys2Proof/Laws/Heads.lean ====
section
/-! SUPPORT. What the sequencer's acts do to the head they act on, and that every other head stands. -/

namespace Sys2Proof.Machine

theorem mem_allHeads : ∀ i : Fin 8, i ∈ allHeads := by decide

theorem Bank.mem_existing (b : Bank) (h : Fin 8) : h ∈ b.existing ↔ b.headExists h = true := by
  unfold Bank.existing
  rw [List.mem_filter]
  exact ⟨fun x => x.2, fun x => ⟨mem_allHeads h, x⟩⟩

theorem Bank.existing_nodup (b : Bank) : b.existing.Nodup := List.Nodup.filter _ (by decide)

theorem heads_set_ne (v : Vector Head 8) (h i : Fin 8) (x : Head) (hi : i ≠ h) :
    (v.set h x)[i] = v[i] := by
  simp only [Fin.getElem_fin, Vector.getElem_set]
  rw [if_neg]
  exact fun hc => hi (Fin.ext hc.symm)

theorem heads_set_self (v : Vector Head 8) (h : Fin 8) (x : Head) : (v.set h x)[h] = x := by
  simp [Fin.getElem_fin]

/-! ## A change of the displayed aspects (R139, R150, R153) -/

/-- The head is the one given, with a proving state: the recomputed one where the head is forced. -/
theorem Gantry.relight_head (g : Gantry) (old new : Bank) (f : Fin 8 → Bool) (hs : Vector Head 8)
    (h : Fin 8) : ∃ p, (g.relight old new f hs).heads[h] = { hs[h] with proving := p }
      ∧ (f h = true →
        p = provingOf (new.shownPattern h hs[h]) (g.relight old new f hs).channels) := by
  simp only [Gantry.relight, Fin.getElem_fin, Vector.getElem_ofFn]
  split
  · exact ⟨_, rfl, fun _ => rfl⟩
  · rename_i hx
    refine ⟨_, rfl, fun hf => ?_⟩
    simp [hf] at hx

/-- A head that is not forced and whose record stands is left alone. -/
theorem Gantry.relight_other (g : Gantry) (old new : Bank) (f : Fin 8 → Bool) (hs : Vector Head 8)
    (i : Fin 8) (hf : f i = false) (he : hs[i] = g.heads[i]) :
    (g.relight old new f hs).heads[i] = g.heads[i] := by
  simp only [Fin.getElem_fin] at he
  simp only [Gantry.relight, Fin.getElem_fin, Vector.getElem_ofFn]
  rw [he]
  simp [hf]

/-- Every channel of the pattern that a forced head shows begins to settle. -/
theorem Gantry.relight_settle (g : Gantry) (b : Bank) (f : Fin 8 → Bool) (hs : Vector Head 8)
    (h : Fin 8) (hf : f h = true) (e : PatternEntry) (he : e ∈ b.shownPattern h hs[h]) :
    (g.relight b b f hs).channels[e.channel].settle = 0 := by
  have hlit : (b.litChannels hs).contains e.channel = true := by
    rw [List.contains_iff_mem]
    simp only [Bank.litChannels, List.mem_flatMap, List.mem_map]
    exact ⟨h, mem_allHeads h, e, he, rfl⟩
  have hrestart : (((allHeads.filter fun i : Fin 8 => f i || hs[i].shown != g.heads[i].shown).flatMap
      fun i => (b.shownPattern i hs[i]).map PatternEntry.channel).contains e.channel) = true := by
    rw [List.contains_iff_mem, List.mem_flatMap]
    exact ⟨h, List.mem_filter.2 ⟨mem_allHeads h, by simp [hf]⟩, List.mem_map.2 ⟨e, he, rfl⟩⟩
  have hch : (g.relight b b f hs).channels[e.channel] = g.channels[e.channel].relight
      ((b.litChannels g.heads).contains e.channel) ((b.litChannels hs).contains e.channel)
      (((allHeads.filter fun i : Fin 8 => f i || hs[i].shown != g.heads[i].shown).flatMap
        fun i => (b.shownPattern i hs[i]).map PatternEntry.channel).contains e.channel) := by
    simp only [Gantry.relight, Fin.getElem_fin, Vector.getElem_ofFn]
  rw [hch, hlit, hrestart]
  cases (b.litChannels g.heads).contains e.channel <;> rfl

/-! ## The head acted on -/

theorem Env.change_head (e : Env) (h : Fin 8) (a : Aspect) (st : Stage) (g : Gantry) :
    ∃ p, (e.change h a st g).heads[h] = { g.heads[h].showing e.now a st with proving := p } := by
  unfold Env.change
  obtain ⟨p, hp, -⟩ := Gantry.relight_head { g with lanes := e.lanesAfter h a g } e.bank e.bank
    (fun _ => false) (g.heads.set h (g.heads[h].showing e.now a st)) h
  refine ⟨p, hp.trans ?_⟩
  rw [heads_set_self]

theorem Gantry.stand_head (g : Gantry) (h : Fin 8) (st : Stage) :
    (g.stand h st).heads[h] = { g.heads[h] with stage := some st } := by
  unfold Gantry.stand
  exact heads_set_self _ _ _

theorem Env.wait_head (e : Env) (h : Fin 8) (st : Stage) (g : Gantry) :
    (e.wait h st g).heads[h] = { g.heads[h] with
      stage := some st, waitStart := some e.now, waitTime := 0, stalled := false } := by
  unfold Env.wait
  exact heads_set_self _ _ _

/-! ## The others stand -/

/-- No head but `h` changes. -/
structure Gantry.OnlyHead (g g' : Gantry) (h : Fin 8) : Prop where
  other : ∀ i : Fin 8, i ≠ h → g'.heads[i] = g.heads[i]

theorem Gantry.OnlyHead.refl (g : Gantry) (h : Fin 8) : g.OnlyHead g h := ⟨fun _ _ => rfl⟩

theorem Gantry.OnlyHead.trans {a b c : Gantry} {h : Fin 8} (x : a.OnlyHead b h)
    (y : b.OnlyHead c h) : a.OnlyHead c h := ⟨fun i hi => (y.other i hi).trans (x.other i hi)⟩

theorem Env.change_onlyHead (e : Env) (h : Fin 8) (a : Aspect) (st : Stage) (g : Gantry) :
    g.OnlyHead (e.change h a st g) h := by
  refine ⟨fun i hi => ?_⟩
  unfold Env.change
  exact Gantry.relight_other { g with lanes := e.lanesAfter h a g } _ _ _ _ i rfl
    (heads_set_ne _ _ _ _ hi)

theorem Gantry.stand_onlyHead (g : Gantry) (h : Fin 8) (st : Stage) :
    g.OnlyHead (g.stand h st) h := ⟨fun _ hi => heads_set_ne _ _ _ _ hi⟩

theorem Env.wait_onlyHead (e : Env) (h : Fin 8) (st : Stage) (g : Gantry) :
    g.OnlyHead (e.wait h st g) h := ⟨fun _ hi => heads_set_ne _ _ _ _ hi⟩

theorem Env.reachCloseWait_onlyHead (e : Env) (h : Fin 8) (g : Gantry) :
    g.OnlyHead (e.reachCloseWait h g) h := by
  unfold Env.reachCloseWait
  split
  · exact e.change_onlyHead ..
  · exact e.wait_onlyHead ..

theorem Env.reachOpeningWait_onlyHead (e : Env) (h : Fin 8) (t : Aspect) (g : Gantry) :
    g.OnlyHead (e.reachOpeningWait h t g) h := by
  unfold Env.reachOpeningWait
  split
  · exact e.change_onlyHead ..
  · exact e.wait_onlyHead ..

theorem Env.atOnce_onlyHead (e : Env) (h : Fin 8) (a : Aspect) (st : Stage) (g : Gantry) :
    g.OnlyHead (e.atOnce h a st g) h := by
  unfold Env.atOnce
  split
  · exact g.stand_onlyHead ..
  · exact e.change_onlyHead ..

theorem Env.beginPath_onlyHead (e : Env) (h : Fin 8) (g : Gantry) :
    g.OnlyHead (e.beginPath h g) h := by
  unfold Env.beginPath
  repeat' split
  all_goals first
    | exact .refl .. | exact g.stand_onlyHead .. | exact e.atOnce_onlyHead ..
    | exact e.reachOpeningWait_onlyHead .. | exact e.reachCloseWait_onlyHead ..

theorem Env.setTarget_onlyHead (e : Env) (h : Fin 8) (t : Aspect) (g : Gantry) :
    g.OnlyHead (e.setTarget h t g) h := by
  unfold Env.setTarget
  split
  · exact .refl ..
  · exact .trans ⟨fun _ hi => heads_set_ne _ _ _ _ hi⟩ (e.beginPath_onlyHead ..)

theorem Env.retest_onlyHead (e : Env) (h : Fin 8) (g : Gantry) : g.OnlyHead (e.retest h g) h := by
  unfold Env.retest Env.heldChange
  repeat' split
  all_goals first
    | exact .refl .. | exact e.change_onlyHead .. | exact Env.beginPath_onlyHead ..

theorem Env.stepHead_onlyHead (e : Env) (h : Fin 8) (g : Gantry) :
    g.OnlyHead (e.stepHead h g) h := by
  unfold Env.stepHead Env.heldChange
  repeat' split
  all_goals first
    | exact .refl .. | exact e.change_onlyHead .. | exact Env.beginPath_onlyHead ..

/-- A re-test of some heads leaves the rest alone. -/
theorem Env.retestAll_other (e : Env) (hs : List (Fin 8)) (g : Gantry) (i : Fin 8) (hi : i ∉ hs) :
    (e.retestAll hs g).heads[i] = g.heads[i] := by
  unfold Env.retestAll
  induction hs generalizing g with
  | nil => rfl
  | cons h hs ih =>
    rw [List.mem_cons, not_or] at hi
    exact (ih _ hi.2).trans ((e.retest_onlyHead h g).other i hi.1)

/-! ## Targets -/

theorem Env.change_target (e : Env) (h : Fin 8) (a : Aspect) (st : Stage) (g : Gantry) :
    (e.change h a st g).heads[h].target = g.heads[h].target := by
  obtain ⟨p, hp⟩ := e.change_head h a st g
  rw [hp]
  rfl

theorem Gantry.stand_target (g : Gantry) (h : Fin 8) (st : Stage) :
    (g.stand h st).heads[h].target = g.heads[h].target := by rw [g.stand_head]

theorem Env.wait_target (e : Env) (h : Fin 8) (st : Stage) (g : Gantry) :
    (e.wait h st g).heads[h].target = g.heads[h].target := by rw [e.wait_head]

theorem Env.beginPath_target (e : Env) (h : Fin 8) (g : Gantry) :
    (e.beginPath h g).heads[h].target = g.heads[h].target := by
  unfold Env.beginPath Env.atOnce Env.reachOpeningWait Env.reachCloseWait
  repeat' split
  all_goals first
    | rfl | exact g.stand_target .. | exact e.change_target .. | exact e.wait_target ..

/-- A head given a target has it. -/
theorem Env.setTarget_target (e : Env) (h : Fin 8) (t : Aspect) (g : Gantry) :
    (e.setTarget h t g).heads[h].target = some t := by
  unfold Env.setTarget
  split
  · assumption
  · rw [e.beginPath_target]
    simp only
    rw [heads_set_self]

/-- A re-test gives no head another target. -/
theorem Env.retest_target (e : Env) (h i : Fin 8) (g : Gantry) :
    (e.retest h g).heads[i].target = g.heads[i].target := by
  by_cases hi : i = h
  · subst hi
    unfold Env.retest Env.heldChange
    repeat' split
    all_goals first | rfl | exact e.change_target .. | exact Env.beginPath_target ..
  · rw [(e.retest_onlyHead h g).other i hi]

theorem Env.retestAll_target (e : Env) (hs : List (Fin 8)) (i : Fin 8) (g : Gantry) :
    (e.retestAll hs g).heads[i].target = g.heads[i].target := by
  unfold Env.retestAll
  induction hs generalizing g with
  | nil => rfl
  | cons h hs ih => exact (ih _).trans (e.retest_target h i g)

end Sys2Proof.Machine
end

