-- ==== Sys2Proof/Laws/Line.lean ====
section
/-! SUPPORT. The lengths of the frames of R20, and what a frame end on IN comes to. -/

namespace Sys2Proof.Machine

theorem length_fcsBytes (c : Fcs) : (fcsBytes c).length = 2 := rfl

theorem length_withFcs (bytes : List Byte) : (withFcs bytes).length = bytes.length + 2 := by
  simp [withFcs, length_fcsBytes]

/-! ## Headers (R20) -/

theorem headerAt_of_inRange {frame : List Byte} {i lo hi unit : Nat} (hl : i < frame.length)
    (h : lo ≤ natAt frame i ∧ natAt frame i ≤ hi) :
    headerAt frame i lo hi unit = .expects (i + 1 + unit * natAt frame i + 2) := by
  unfold headerAt
  rw [if_neg (by omega), if_pos (by simp [inRange, h.1, h.2])]

theorem headerAt_of_not_inRange {frame : List Byte} {i lo hi unit : Nat} (hl : i < frame.length)
    (h : natAt frame i < lo ∨ hi < natAt frame i) : headerAt frame i lo hi unit = .unknown := by
  unfold headerAt
  rw [if_neg (by omega), if_neg]
  simp only [inRange, Bool.and_eq_true, decide_eq_true_eq]
  omega

theorem headerOf_cons_order (rest : List Byte) :
    headerOf (orderKind :: rest) = headerAt (orderKind :: rest) 5 0 240 1 := rfl

theorem headerOf_cons_sweep (rest : List Byte) :
    headerOf (sweepKind :: rest) = headerAt (sweepKind :: rest) 7 1 200 12 := rfl

theorem headerOf_cons_reply (rest : List Byte) :
    headerOf (replyKind :: rest) = headerAt (replyKind :: rest) 5 4 244 1 := rfl

/-- A kind byte that is none of the four makes an unknown frame. -/
theorem headerOf_unknownKind {kind : Byte} (rest : List Byte) (h : knownKind kind = false) :
    headerOf (kind :: rest) = .unknown := by
  simp only [knownKind, List.contains_cons, List.contains_nil, Bool.or_false, Bool.or_eq_false_iff,
    beq_eq_false_iff_ne] at h
  have h0 : byteAt (kind :: rest) 0 = kind := rfl
  simp only [headerOf, h0, reduceCtorEq, if_false, h.1, h.2.1, h.2.2.1, h.2.2.2]

theorem natAt_frame_length (o : Order) (code : Byte) (rest : List Byte) :
    natAt (o.frame code ++ rest) 5 = o.body.length % 256 := by
  simp [natAt, byteAt, Order.frame, byteOf]

/-- An ORDER whose body is in range ends with its two FCS bytes. -/
theorem headerOf_order {o : Order} (h : o.wf = true) (code : Byte) (c : Fcs) :
    headerOf (o.frame code ++ fcsBytes c) = .expects (o.frame code ++ fcsBytes c).length := by
  have hl : o.body.length ≤ 240 := by simpa [Order.wf] using h
  have hn := natAt_frame_length o code (fcsBytes c)
  rw [Nat.mod_eq_of_lt (by omega)] at hn
  have e : headerOf (o.frame code ++ fcsBytes c)
      = headerAt (o.frame code ++ fcsBytes c) 5 0 240 1 := rfl
  rw [e, headerAt_of_inRange (by simp [Order.frame, length_fcsBytes])
    (by rw [hn]; omega), hn]
  simp [Order.frame, length_fcsBytes]
  omega

/-- An ORDER with a body of 241 to 255 bytes is malformed. -/
theorem headerOf_order_malformed {o : Order} (h : 240 < o.body.length) (k : o.body.length < 256)
    (code : Byte) (c : Fcs) : headerOf (o.frame code ++ fcsBytes c) = .unknown := by
  have hn := natAt_frame_length o code (fcsBytes c)
  rw [Nat.mod_eq_of_lt k] at hn
  have e : headerOf (o.frame code ++ fcsBytes c)
      = headerAt (o.frame code ++ fcsBytes c) 5 0 240 1 := rfl
  rw [e]
  exact headerAt_of_not_inRange (by simp [Order.frame, length_fcsBytes]) (by omega)

theorem length_flatten_slots {l : List (List Byte)} (h : l.all (fun x => x.length == 12) = true) :
    l.flatten.length = 12 * l.length := by
  induction l with
  | nil => rfl
  | cons x l ih =>
    simp only [List.all_cons, Bool.and_eq_true, beq_iff_eq] at h
    rw [List.flatten_cons, List.length_append, ih h.2, h.1, List.length_cons]
    omega

theorem natAt_bytes_slotCount (f : SweepFrame) : natAt f.bytes 7 = f.slots.length % 256 := by
  simp [natAt, byteAt, SweepFrame.bytes, withFcs, be32, byteOf]

/-- A SWEEP of 1 to 200 slots ends with its two FCS bytes. -/
theorem headerOf_sweep {f : SweepFrame} (h : f.wf = true) :
    headerOf f.bytes = .expects f.bytes.length := by
  simp only [SweepFrame.wf, Bool.and_eq_true, decide_eq_true_eq] at h
  obtain ⟨⟨h1, h2⟩, h3⟩ := h
  have hn := natAt_bytes_slotCount f
  rw [Nat.mod_eq_of_lt (by omega)] at hn
  have e : headerOf f.bytes = headerAt f.bytes 7 1 200 12 := rfl
  have hl : f.bytes.length = 8 + 12 * f.slots.length + 2 := by
    rw [SweepFrame.bytes, length_withFcs]
    simp only [List.length_append, length_flatten_slots h3, be32, List.length_cons, List.length_nil]
  rw [e, headerAt_of_inRange (by omega) (by omega), hn, hl]

theorem natAt_bytes_bodyLength (f : ReplyFrame) : natAt f.bytes 5 = f.body.length % 256 := by
  simp [natAt, byteAt, ReplyFrame.bytes, replyBody, withFcs, byteOf]

/-- A REPLY with a body of 4 to 244 bytes ends with its two FCS bytes. -/
theorem headerOf_reply {f : ReplyFrame} (h : f.wf = true) :
    headerOf f.bytes = .expects f.bytes.length := by
  simp only [ReplyFrame.wf, Bool.and_eq_true, decide_eq_true_eq] at h
  have hn := natAt_bytes_bodyLength f
  rw [Nat.mod_eq_of_lt (by omega)] at hn
  have e : headerOf f.bytes = headerAt f.bytes 5 4 244 1 := rfl
  have hl : f.bytes.length = 6 + f.body.length + 2 := by
    rw [ReplyFrame.bytes, length_withFcs]
    simp [replyBody]
    omega
  rw [e, headerAt_of_inRange (by omega) (by omega), hn, hl]
  congr 1
  omega

/-- An ENUMERATE has five bytes. -/
theorem headerOf_enumerate (next flags : Byte) :
    headerOf (enumerateBytes next flags) = .expects (enumerateBytes next flags).length := rfl

/-- Byte `i` of the slot of an address is byte `i` of that slot. -/
theorem SweepFrame.slotByte_eq {f : SweepFrame} (h : f.wf = true) {a i : Nat} (ha : 1 ≤ a)
    (hn : a ≤ f.slots.length) (hi : i < 12) :
    f.slotByte a i = byteAt (f.slots.getD (a - 1) []) i := by
  simp only [SweepFrame.wf, Bool.and_eq_true] at h
  have key : ∀ (l : List (List Byte)) (k : Nat), l.all (fun x => x.length == 12) = true →
      k < l.length → ∀ rest : List Byte,
      (l.flatten ++ rest).getD (12 * k + i) 0#8 = (l.getD k []).getD i 0#8 := by
    intro l
    induction l with
    | nil => intro k _ hk; simp at hk
    | cons x l ih =>
      intro k hl hk rest
      simp only [List.all_cons, Bool.and_eq_true, beq_iff_eq] at hl
      rw [List.flatten_cons, List.append_assoc]
      cases k with
      | zero =>
        rw [List.getD_append _ _ _ _ (by omega)]
        simp
      | succ k =>
        rw [List.getD_append_right _ _ _ _ (by omega),
          show 12 * (k + 1) + i - x.length = 12 * k + i by omega,
          ih k hl.2 (by simpa using hk) rest]
        simp
  have hb : f.bytes = [sweepKind, f.number, f.control] ++ be32 f.masterTime
      ++ [byteOf f.slots.length] ++ (f.slots.flatten
        ++ fcsBytes (crc ([sweepKind, f.number, f.control] ++ be32 f.masterTime
          ++ [byteOf f.slots.length] ++ f.slots.flatten))) := by
    simp [SweepFrame.bytes, withFcs]
  unfold SweepFrame.slotByte byteAt
  rw [hb, List.getD_append_right _ _ _ _ (by simp [be32]; omega)]
  rw [show 8 + 12 * (a - 1) + i - ([sweepKind, f.number, f.control] ++ be32 f.masterTime
      ++ [byteOf f.slots.length]).length = 12 * (a - 1) + i by simp [be32]; omega]
  exact key _ _ h.2 (by omega) _

/-! ## Frame ends -/

theorem State.Receives.receiving {s : State} {kind second : Byte} {f : RxFrame}
    (h : s.Receives kind second f) : s.line.receiving kind second = some f := by
  unfold LinePort.receiving
  rw [if_pos h.rx, h.frame]
  simp [h.kind, h.second]

theorem State.works_iff {s : State} : s.works = true ↔ s.held = false ∧ s.restartIsDue = false := by
  simp [State.works]

theorem State.works.not_held {s : State} (h : s.works = true) : s.held = false :=
  (State.works_iff.1 h).1

/-- No restart is due: nothing happens. -/
theorem State.dueRestart_of_not_due {s : State} (h : s.restartIsDue = false) : s.dueRestart = s := by
  unfold State.dueRestart
  split
  · rename_i h1 h2
    simp [State.restartIsDue, h1, h2] at h
  · rfl

/-- After a restart that was due none is. -/
theorem State.dueRestart_settles (s : State) : s.dueRestart.restartIsDue = false := by
  unfold State.dueRestart
  split
  · rename_i k _ _
    cases k <;> simp [State.restartIsDue, State.restartEffect, State.keepRestart, State.powerUp,
      State.reset]
  · rename_i h
    by_cases hd : s.node.restartDue = true
    · cases hp : s.node.restartPending with
      | none => simp [State.restartIsDue, hp]
      | some k => exact absurd hd (h k hp)
    · simp [State.restartIsDue, hd]

/-- A working node feels an event. -/
theorem live_works {s : State} (h : s.works = true) (f : State → State) :
    live s f = .next (f s) := by
  obtain ⟨h1, h2⟩ := State.works_iff.1 h
  simp [live, h1, State.dueRestart_of_not_due h2]

/-- A node held in reset does not. -/
theorem live_held {s : State} (h : s.held = true) (f : State → State) : live s f = .next s := by
  simp [live, h]

/-- Whatever the node, an event finds it after a restart that is due. -/
theorem live_unheld {s : State} (h : s.held = false) (f : State → State) :
    live s f = .next (f s.dueRestart) := by
  simp [live, h]

/-- A frame of the expected length that is in progress ends. -/
theorem State.Receives.frameEnd {s : State} {frame : List Byte} {f : RxFrame}
    (h : s.Receives (byteAt frame 0) (byteAt frame 1) f)
    (hl : headerOf frame = .expects frame.length) (act : RxFrame → State → State) :
    s.frameEnd frame act = act f s := by
  unfold State.frameEnd
  rw [h.receiving, hl]
  simp

/-- A malformed frame that is in progress stops as an unknown one. -/
theorem State.Receives.frameEnd_unknown {s : State} {frame : List Byte} {f : RxFrame}
    (h : s.Receives (byteAt frame 0) (byteAt frame 1) f) (hl : headerOf frame = .unknown)
    (act : RxFrame → State → State) : s.frameEnd frame act = s.unknownFrame f := by
  unfold State.frameEnd
  rw [h.receiving, hl]

/-- What a frame end comes to: nothing, an unknown frame, or the act on the frame in progress. -/
theorem State.frameEnd_cases (s : State) (frame : List Byte) (act : RxFrame → State → State) :
    s.frameEnd frame act = s
      ∨ ∃ f, s.line.receiving (byteAt frame 0) (byteAt frame 1) = some f
        ∧ (s.frameEnd frame act = s.unknownFrame f ∨ s.frameEnd frame act = act f s) := by
  unfold State.frameEnd
  split
  · exact .inl rfl
  · rename_i f hf
    split
    · exact .inr ⟨f, hf, .inl rfl⟩
    · exact .inl rfl
    · split
      · exact .inr ⟨f, hf, .inr rfl⟩
      · exact .inl rfl

/-- An unknown frame stops: counted once, nothing more of it sent or kept, DISCARD. -/
theorem State.unknownFrame_stops (s : State) (f : RxFrame) :
    s.stopsFrame f (s.unknownFrame f) .discard := by
  unfold State.unknownFrame State.stopsFrame State.onLine State.dropCapture LinePort.stopFrame
    LinePort.countFor LinePort.countError
  cases hr : f.route <;> cases hd : f.damaged <;> by_cases ht : s.line.tx = .passing <;>
    by_cases hu : s.line.thru = none <;> simp [ht, hu]

/-! ## The frame that leaves OUT, and the own slot (R27, R118) -/

theorem LinePort.leaving_thru {l : LinePort} {f : OutFrame} (ht : l.tx = .passing) (hr : l.rx ≠ .brk)
    (hf : l.thru = some f) : l.leaving = some f := by
  unfold LinePort.leaving
  rw [if_pos ⟨ht, hr⟩, hf]

theorem LinePort.leaving_elastic {l : LinePort} {f : OutFrame} (ht : l.tx = .passing)
    (hr : l.rx ≠ .brk) (hn : l.thru = none) (hf : l.elastic = some f) (hg : l.outGap = true) :
    l.leaving = some f := by
  unfold LinePort.leaving
  rw [if_pos ⟨ht, hr⟩, hn, ← hf]
  exact if_pos hg

/-- A frame that leaves is the one passed cut-through, or the one buffered. -/
theorem LinePort.leaving_some {l : LinePort} {f : OutFrame} (h : l.leaving = some f) :
    l.tx = .passing ∧ l.rx ≠ .brk ∧ (l.thru = some f ∨ l.elastic = some f) := by
  unfold LinePort.leaving at h
  split at h
  · rename_i hc
    refine ⟨hc.1, hc.2, ?_⟩
    split at h
    · rename_i hf
      exact .inl (hf.trans h)
    · split at h
      · exact .inr h
      · cases h
  · cases h

/-- The own slot goes where the address has room in a SWEEP, and nowhere else. -/
theorem State.slotFor_eq (s : State) (f : OutFrame) (n : Nat) :
    s.slotFor f n = if f.kind = sweepKind ∧ 1 ≤ s.line.address ∧ s.line.address ≤ n then
      some (8 + 12 * (s.line.address - 1), s.ownSlot f.second) else none := by
  simp only [State.slotFor, inRange, Bool.and_eq_true, beq_iff_eq, decide_eq_true_eq]

/-- A frame that carries no slot as it leaves gets the own slot of that moment. -/
theorem State.withSlot_unwritten {s : State} {f : OutFrame} (h : f.slot = none) :
    s.withSlot f = { f with slot := s.slotFor f (natAt f.bytes 7) } := by
  simp only [State.withSlot, h]

/-- A slot written in passing stays where it lies within the frame's slots. -/
theorem State.withSlot_written {s : State} {f : OutFrame} {i : Nat} {slot : List Byte}
    (h : f.slot = some (i, slot)) (hi : i + slot.length ≤ 8 + 12 * natAt f.bytes 7) :
    s.withSlot f = f := by
  simp only [State.withSlot, h, if_pos hi]
  rw [← h]

end Sys2Proof.Machine
end

