-- ==== Sys2Proof/Laws/Time.lean ====
section
/-! SUPPORT. What the passing of time comes to. -/

namespace Sys2Proof.Machine

theorem vector_ofFn_get {α : Type} {n : Nat} (v : Vector α n) :
    Vector.ofFn (fun i : Fin n => v[i]) = v := by
  ext i hi
  simp

theorem Head.elapse_zero (hd : Head) : hd.elapse 0 = hd := by simp [Head.elapse]

theorem Lane.elapse_zero (l : Lane) : l.elapse 0 = l := by simp [Lane.elapse]

/-- No time, no change. -/
theorem State.elapse_zero (s : State) : s.elapse 0 = s := by
  unfold State.elapse Gantry.elapse
  simp only [Head.elapse_zero, Lane.elapse_zero, vector_ofFn_get, Nat.add_zero, ite_self,
    BitVec.add_zero, show (fun x : Nat => x) = id from rfl, Option.map_id,
    id_eq]

theorem State.reach_zero (s : State) : s.reach 0 = s := rfl

/-- Up to the next timed event nothing but time passes. -/
theorem State.reach_of_le {s : State} {n : Nat} (h : n ≤ s.untilNext) : s.reach n = s.elapse n := by
  unfold State.reach
  split
  · rename_i h0
    rw [h0, State.elapse_zero]
  · rename_i hn
    cases n with
    | zero => exact absurd rfl hn
    | succ n =>
      have : s.settled = s := if_neg (by omega)
      simp only [State.run, this]
      rw [if_pos (by omega)]

/-- More fuel than time makes no difference. -/
theorem State.run_fuel (fuel n : Nat) (s : State) (h : 1 ≤ n) (hf : n ≤ fuel) :
    s.run fuel n = s.run n n := by
  induction fuel using Nat.strongRecOn generalizing n s with
  | _ fuel ih =>
    cases fuel with
    | zero => omega
    | succ fuel =>
      cases n with
      | zero => omega
      | succ n =>
        simp only [State.run]
        split
        · rfl
        · rw [ih fuel (by omega) _ _ (by omega) (by omega),
            ih n (by omega) _ _ (by omega) (by omega)]

theorem State.settled_of_due {s : State} (h : s.untilNext = 0) : s.settled = s.due := if_pos h

theorem State.settled_of_quiet {s : State} (h : s.untilNext ≠ 0) : s.settled = s := if_neg h

/-- Time goes on past the next timed event: up to it, and from there. -/
theorem State.reach_past {s : State} {n : Nat} (h0 : s.untilNext ≠ 0) (h : s.untilNext < n) :
    s.reach n = (s.elapse s.untilNext).reach (n - s.untilNext) := by
  unfold State.reach
  rw [if_neg (by omega), if_neg (by omega)]
  cases n with
  | zero => omega
  | succ n =>
    have hs := State.settled_of_quiet h0
    have hm : max 1 s.untilNext = s.untilNext := by omega
    simp only [State.run, hs, hm]
    rw [if_neg (by omega), State.run_fuel _ _ _ (by omega) (by omega)]

/-- Before time goes on what is due is carried out; a stretch then takes a millisecond at least. -/
theorem State.reach_due {s : State} {n : Nat} (hn : n ≠ 0) (h : s.untilNext = 0) :
    s.reach n = if n ≤ max 1 s.due.untilNext then s.due.elapse n
      else (s.due.elapse (max 1 s.due.untilNext)).reach (n - max 1 s.due.untilNext) := by
  unfold State.reach
  rw [if_neg hn]
  cases n with
  | zero => exact absurd rfl hn
  | succ n =>
    simp only [State.run, State.settled_of_due h]
    split
    · rfl
    · rw [if_neg (by omega), State.run_fuel _ _ _ (by omega) (by omega)]

/-! ## What `untilNext` says of each timer -/

theorem foldr_min_le (l : List Nat) (a x : Nat) (h : x ∈ l) : l.foldr min a ≤ x := by
  induction l with
  | nil => cases h
  | cons y l ih =>
    rw [List.foldr_cons]
    rcases List.mem_cons.1 h with rfl | h
    · exact Nat.min_le_left _ _
    · exact (Nat.min_le_right _ _).trans (ih h)

theorem foldr_min_le_init (l : List Nat) (a : Nat) : l.foldr min a ≤ a := by
  induction l with
  | nil => exact le_rfl
  | cons y l ih => exact (Nat.min_le_right _ _).trans ih

theorem State.untilNext_le_of_mem {s : State} {x : Nat} (h : x ∈ s.untilTimers) :
    s.untilNext ≤ x := foldr_min_le _ _ _ h

/-- No lamp sample falls due before the next timed event. -/
theorem State.untilNext_le_sample (s : State) : s.untilNext ≤ 100 - s.lamp.sinceSample :=
  foldr_min_le_init _ _

/-- Nor a temperature reading. -/
theorem State.untilNext_le_reading (s : State) : s.untilNext ≤ 1000 - s.lamp.sinceReading :=
  s.untilNext_le_of_mem (by simp [State.untilTimers])

/-- Nor the end of the 20 ms of a commit. -/
theorem State.untilNext_le_commit {s : State} (h : s.store.validating = true) :
    s.untilNext ≤ 20 - s.store.commitAge :=
  s.untilNext_le_of_mem (by simp [State.untilTimers, h])

/-- Nor an entry of the schedule. -/
theorem State.untilNext_le_entry {s : State} {e : ScheduleEntry} (h : e ∈ s.take.schedule) :
    s.untilNext ≤ s.untilEntry e :=
  s.untilNext_le_of_mem (by
    simp only [State.untilTimers, List.mem_append, List.mem_map]
    exact .inl (.inr ⟨e, h, rfl⟩))

/-- Nor the stale limit of a fresh record. -/
theorem State.untilNext_le_stale {s : State} {n : Neighbour} {t : Nat} (h : n ∈ s.sweep.records)
    (hf : n.fresh = true) (ht : n.lastRefresh = some t) :
    s.untilNext ≤ t + s.store.active.staleMs - s.now :=
  s.untilNext_le_of_mem (by
    simp only [State.untilTimers, List.mem_append, List.mem_flatMap, List.mem_filter]
    exact .inl (.inl (.inl (.inr ⟨n, ⟨h, hf⟩, by simp [ht]⟩))))

/-! ## What is left once everything due is carried out -/

/-- Nothing of this is due: the commit in flight, a fresh record, an entry of the schedule, a reading, a
sample. -/
structure State.Ready (s : State) : Prop where
  commit : s.store.validating = true → s.store.commitAge < 20
  records : ∀ n ∈ s.sweep.records, s.expires n = false
  schedule : ∀ e ∈ s.take.schedule, e.isDue s.take.clock = false
  reading : s.lamp.sinceReading < 1000
  sample : s.lamp.sinceSample < 100

theorem State.ready_of_quiet {s : State} (h : s.untilNext ≠ 0) : s.Ready where
  commit hv := by
    have := State.untilNext_le_commit hv
    omega
  records n hn := by
    unfold State.expires
    cases hf : n.fresh with
    | false => rfl
    | true =>
      cases ht : n.lastRefresh with
      | none => rfl
      | some t =>
        have := State.untilNext_le_stale hn hf ht
        simp only [Bool.true_and, decide_eq_false_iff_not]
        omega
  schedule e he := by
    have h1 := State.untilNext_le_entry he
    unfold State.untilEntry at h1
    cases hd : e.isDue s.take.clock with
    | false => rfl
    | true => rw [hd] at h1; simp only [if_true] at h1; omega
  reading := by
    have := s.untilNext_le_reading
    omega
  sample := by
    have := s.untilNext_le_sample
    omega

theorem State.commitComplete_validating (s : State) : s.commitComplete.store.validating = false := by
  unfold State.commitComplete
  split
  · simp [State.commitOk, State.activate]
  · simp [State.commitFailed]

theorem State.dueCommit_age (s : State) (h : s.dueCommit.store.validating = true) :
    s.dueCommit.store.commitAge < 20 := by
  unfold State.dueCommit at h ⊢
  split at h
  · rw [State.commitComplete_validating] at h
    cases h
  · rename_i hc
    rw [if_neg hc]
    simp only [h, Bool.true_and, decide_eq_true_eq, Nat.not_le] at hc
    exact hc

/-- The records after some have gone stale. -/
theorem State.goStales_records (l : List Neighbour) (s : State) :
    (l.foldl State.goStale s).sweep.records = s.sweep.records.map fun (r : Neighbour) =>
      if l.any fun n => r.address = n.address ∧ r.head = n.head then { r with fresh := false }
      else r := by
  induction l generalizing s with
  | nil => simp
  | cons n l ih =>
    rw [List.foldl_cons, ih]
    have : (s.goStale n).sweep.records = s.sweep.records.map fun (r : Neighbour) =>
      if r.address = n.address ∧ r.head = n.head then { r with fresh := false } else r := rfl
    rw [this, List.map_map]
    apply List.map_congr_left
    intro r _
    simp only [Function.comp, List.any_cons]
    by_cases hn : r.address = n.address ∧ r.head = n.head
    · simp [hn]
    · simp [hn]

theorem State.dueStales_expired (s : State) (n : Neighbour) (h : n ∈ s.dueStales.sweep.records) :
    s.dueStales.expires n = false := by
  unfold State.dueStales at h
  rw [State.goStales_records] at h
  obtain ⟨r, hr, rfl⟩ := List.mem_map.1 h
  have e : ∀ x, s.dueStales.expires x = s.expires x := by
    intro x
    simp [State.expires]
  rw [e]
  split
  · simp [State.expires]
  · rename_i hn
    cases he : s.expires r with
    | false => rfl
    | true =>
      refine absurd ?_ hn
      rw [List.any_eq_true]
      exact ⟨r, List.mem_filter.2 ⟨hr, he⟩, by simp⟩

/-- A firing leaves the clock and the schedule. -/
theorem fireEntry_timing (acc : State × Option Nat) (e : ScheduleEntry) :
    (fireEntry acc e).1.take.clock = acc.1.take.clock
      ∧ (fireEntry acc e).1.take.schedule = acc.1.take.schedule := by
  cases hp : acc.1.store.active.planDefined e.plan <;> cases hm : acc.1.node.mode <;>
    cases hw : acc.1.watchdog.stream <;> simp [fireEntry, hp, hm, hw, State.takeRecord]

theorem fireEntries_timing (l : List ScheduleEntry) (acc : State × Option Nat) :
    (l.foldl fireEntry acc).1.take.clock = acc.1.take.clock
      ∧ (l.foldl fireEntry acc).1.take.schedule = acc.1.take.schedule := by
  induction l generalizing acc with
  | nil => exact ⟨rfl, rfl⟩
  | cons e l ih =>
    rw [List.foldl_cons, (ih _).1, (ih _).2]
    exact fireEntry_timing acc e

/-- The due test leaves the clock and the entries that are not due. -/
theorem State.dueTest_timing (s : State) :
    s.dueTest.take.clock = s.take.clock
      ∧ s.dueTest.take.schedule = s.take.schedule.filter fun e => !e.isDue s.take.clock := by
  simp only [State.dueTest]
  split
  · exact fireEntries_timing _ _
  · simp only [State.takeTargets_take]
    exact fireEntries_timing _ _

/-- A due test that finds no entry due changes nothing. -/
theorem State.dueTest_quiet {s : State} (h : s.noneDue) : s.dueTest = s := by
  have hd : (s.take.schedule.filter fun e => e.isDue s.take.clock) = [] :=
    List.filter_eq_nil_iff.2 fun e he => by simp [h e he]
  have hr : (s.take.schedule.filter fun e => !e.isDue s.take.clock) = s.take.schedule :=
    List.filter_eq_self.2 fun e he => by simp [h e he]
  simp only [State.dueTest, hd, hr, List.foldl_nil]

/-- After a due test no entry is due. -/
theorem State.dueTest_noneDue (s : State) : s.dueTest.noneDue := by
  obtain ⟨hc, hs⟩ := s.dueTest_timing
  intro e he
  rw [hs, List.mem_filter] at he
  rw [hc]
  simpa using he.2

/-- A timed command leaves no entry due. -/
theorem State.timed_noneDue (s : State) (n : Nat) (event : State → State) :
    (s.timed n event).noneDue := State.dueTest_noneDue _

theorem State.sample_timing (s : State) (m : List Nat) :
    (s.sample m).take.clock = s.take.clock
      ∧ ((s.sample m).take.schedule = s.take.schedule ∨ (s.sample m).take.schedule = [])
      ∧ (s.sample m).lamp.sinceReading = s.lamp.sinceReading
      ∧ (s.sample m).lamp.sinceSample = s.lamp.sinceSample := by
  unfold State.sample
  split
  · exact ⟨rfl, .inl rfl, rfl, rfl⟩
  · simp only
    split
    · simp
    · simp [State.lockout, TakeUnit.cleared]

theorem State.dueReading_since (s : State) : s.dueReading.lamp.sinceReading < 1000
    ∧ s.dueReading.lamp.sinceSample = s.lamp.sinceSample := by
  unfold State.dueReading
  split
  · simp only [State.readTemperature]
    repeat' split
    all_goals simp [State.atReading, State.nextRead]
  · rename_i h
    exact ⟨by omega, rfl⟩

theorem State.dueSample_since (s : State) : s.dueSample.lamp.sinceSample < 100
    ∧ s.dueSample.lamp.sinceReading = s.lamp.sinceReading
    ∧ s.dueSample.take.clock = s.take.clock
    ∧ (s.dueSample.take.schedule = s.take.schedule ∨ s.dueSample.take.schedule = []) := by
  unfold State.dueSample
  split
  · obtain ⟨h1, h2, h3, h4⟩ := s.nextRead.atSample.sample_timing
      (allChannels.map fun c => Config.senseInput s.inputReads c.val)
    rw [h1, h3, h4]
    exact ⟨by simp [State.atSample], rfl, rfl, h2⟩
  · rename_i h
    exact ⟨by omega, rfl, rfl, .inl rfl⟩

/-- Once everything due is carried out, nothing is due. -/
theorem State.due_ready (s : State) : s.due.Ready := by
  unfold State.due
  have hc := s.dueRestart.dueCommit_age
  generalize s.dueRestart.dueCommit = s1 at hc
  have hr := (s1.dueWatchdog.dueUnheld).dueStales_expired
  have hs : s1.dueWatchdog.dueUnheld.dueStales.store = s1.store := by simp
  generalize s1.dueWatchdog.dueUnheld.dueStales = s2 at hr hs
  have ht := s2.dueSlew.dueTest_timing
  generalize h3 : s2.dueSlew.dueTest = s3 at ht
  have e3 : s3.store = s2.store ∧ s3.sweep = s2.sweep ∧ s3.now = s2.now := by
    subst h3
    simp
  have h4 := s3.dueReading_since
  have h5 := s3.dueReading.dueSample_since
  refine ⟨?_, ?_, ?_, ?_, h5.1⟩
  · intro hv
    simp only [State.dueSample_store, State.dueReading_store, e3.1, hs] at hv ⊢
    exact hc hv
  · intro n hn
    simp only [State.dueSample_sweep, State.dueReading_sweep, e3.2.1] at hn
    have e : s3.dueReading.dueSample.expires n = s2.expires n := by
      simp [State.expires, e3.1, e3.2.2]
    rw [e]
    exact hr n hn
  · intro x hx
    rw [h5.2.2.1]
    have hx : x ∈ s3.take.schedule := by
      rcases h5.2.2.2 with h | h <;> rw [h] at hx
      · simpa using hx
      · cases hx
    rw [ht.2, List.mem_filter] at hx
    simp only [State.dueReading_take, ht.1]
    simpa using hx.2
  · rw [h5.2.1]
    exact h4.1

/-- Before time goes on, nothing of it is due. -/
theorem State.settled_ready (s : State) : s.settled.Ready := by
  unfold State.settled
  split
  · exact s.due_ready
  · rename_i h
    exact State.ready_of_quiet h

/-! ## A working node stays one as time passes -/

theorem State.works_of_node {s t : State} (h : t.node = s.node) : t.works = s.works := by
  simp only [State.works, State.held, State.restartIsDue, h]

theorem State.watchdogExpire_works (s : State) : s.watchdogExpire.works = s.works := by
  unfold State.watchdogExpire
  split
  · simp [State.works, State.held, State.restartIsDue, State.fallbackEntry]
  all_goals rfl

theorem State.commitComplete_works (s : State) : s.commitComplete.works = s.works := by
  have hslew : ∀ u : State, (if u.slewDue then u.slewTick else u).works = u.works := fun u => by
    split
    · exact State.works_of_node (by simp)
    · rfl
  have hdog : ∀ u : State, (if u.watchdogDue then u.watchdogExpire else u).works = u.works := fun u => by
    split
    · exact u.watchdogExpire_works
    · rfl
  unfold State.commitComplete
  split
  · unfold State.commitOk State.dueAtCommit
    simp only [hslew, hdog]
    split <;> simp [State.works, State.held, State.restartIsDue, State.activate]
  · exact State.works_of_node (by simp)

theorem fireEntry_works (acc : State × Option Nat) (e : ScheduleEntry) :
    (fireEntry acc e).1.works = acc.1.works := by
  cases hp : acc.1.store.active.planDefined e.plan <;> cases hm : acc.1.node.mode <;>
    cases hw : acc.1.watchdog.stream <;>
    simp [fireEntry, hp, hm, hw, State.takeRecord, State.works, State.held, State.restartIsDue]

theorem fireEntries_works (l : List ScheduleEntry) (acc : State × Option Nat) :
    (l.foldl fireEntry acc).1.works = acc.1.works := by
  induction l generalizing acc with
  | nil => rfl
  | cons e l ih => rw [List.foldl_cons, ih, fireEntry_works]

theorem State.dueTest_works (s : State) : s.dueTest.works = s.works := by
  simp only [State.dueTest]
  split
  · exact fireEntries_works _ _
  · exact (State.works_of_node (State.takeTargets_node _ _ _)).trans (fireEntries_works _ _)

theorem State.sample_works (s : State) (m : List Nat) : (s.sample m).works = s.works := by
  unfold State.sample
  split
  · rfl
  · simp only
    split
    · simp [State.works, State.held, State.restartIsDue]
    · simp [State.works, State.held, State.restartIsDue, State.lockout]

theorem State.dueSample_works (s : State) : s.dueSample.works = s.works := by
  unfold State.dueSample
  split
  · exact (State.sample_works _ _).trans (State.works_of_node (by simp))
  · rfl

theorem State.dueRestart_of_works {s : State} (h : s.works = true) : s.dueRestart = s := by
  simp only [State.works, State.restartIsDue, Bool.and_eq_true, Bool.not_eq_true'] at h
  unfold State.dueRestart
  split
  · rename_i hp hd
    simp [hp, hd] at h
  · rfl

/-- A node works once a restart that was due has taken effect. -/
theorem State.dueRestart_works {s : State} (h : s.held = false) : s.dueRestart.works = true := by
  unfold State.dueRestart
  split
  · rename_i k _ _
    cases k <;> simp [State.restartEffect, State.keepRestart, State.powerUp, State.works, State.held,
      State.restartIsDue, State.reset]
  · rename_i hn
    simp only [State.works, h, Bool.not_false, Bool.true_and, Bool.not_eq_true', State.restartIsDue]
    cases hp : s.node.restartPending with
    | none => simp
    | some k =>
      cases hd : s.node.restartDue with
      | false => rfl
      | true => exact absurd hd (hn k hp)

theorem State.due_works {s : State} (h : s.held = false) : s.due.works = true := by
  have hc : s.dueRestart.dueCommit.works = s.dueRestart.works := by
    unfold State.dueCommit
    split
    · exact State.commitComplete_works _
    · rfl
  have hw : s.dueRestart.dueCommit.dueWatchdog.works = s.dueRestart.dueCommit.works := by
    unfold State.dueWatchdog
    split
    · exact State.watchdogExpire_works _
    · rfl
  unfold State.due
  rw [State.dueSample_works, State.works_of_node (State.dueReading_node _), State.dueTest_works,
    State.works_of_node (State.dueSlew_node _), State.works_of_node (State.dueStales_node _),
    State.works_of_node (State.dueUnheld_node _), hw, hc, State.dueRestart_works h]

theorem State.held_of_works {s : State} (h : s.works = true) : s.held = false := by
  simp only [State.works, Bool.and_eq_true, Bool.not_eq_true'] at h
  exact h.1

theorem State.run_works (fuel n : Nat) (s : State) (h : s.works = true) : (s.run fuel n).works = true := by
  have step : ∀ (u : State) (m : Nat), u.works = true → (u.settled.elapse m).works = true := fun u m hu => by
    rw [State.works_of_node (State.elapse_node _ _)]
    unfold State.settled
    split
    · exact State.due_works (State.held_of_works hu)
    · exact hu
  induction fuel generalizing n s with
  | zero => exact h
  | succ fuel ih =>
    simp only [State.run]
    split
    · exact step _ _ h
    · exact ih _ _ (step _ _ h)

/-- A working node works at every later moment. -/
theorem State.reach_works {s : State} (h : s.works = true) (n : Nat) : (s.reach n).works = true := by
  unfold State.reach
  split
  · exact h
  · exact State.run_works _ _ _ h

/-! ## A timed command at its moment -/

/-- What `live` gives of a working node. -/
theorem live_of_works {s : State} (h : s.works = true) (f : State → State) :
    live s f = .next (f s) := by
  unfold live
  rw [State.dueRestart_of_works h, State.held_of_works h]
  rfl

/-- A timed command with no time left is its event and the test of the schedule. -/
theorem State.timed_zero (s : State) (event : State → State) : s.timed 0 event = (event s).dueTest := rfl

/-- A timed command is that command at the state which time has reached at its moment; where its timer is
due there no more, the schedule alone is tested. -/
theorem exec_timed {s : State} {c : Instr} {n : Nat} {due : State → Prop} {event : State → State}
    (hw : s.works = true) (hs : exec c s = .next (s.timed n event))
    (hd : ∀ u : State, u.works = true → due u → exec c u = .next (event u).dueTest)
    (hn : ∀ u : State, ¬due u → event u = u) :
    (s.reach n).works = true ∧ (due (s.reach n) → exec c s = exec c (s.reach n))
      ∧ (¬due (s.reach n) → exec c s = .next (s.reach n).dueTest) := by
  have hu := State.reach_works hw n
  refine ⟨hu, fun h => ?_, fun h => ?_⟩
  · rw [hd _ hu h, hs]
    rfl
  · rw [hs]
    unfold State.timed
    rw [hn _ h]

end Sys2Proof.Machine
end

