-- ==== Sys2Proof/Laws/Keep.lean ====
section
/-! SUPPORT. A condition that every event keeps is kept by every command and every step. -/

namespace Sys2Proof.Machine

/-! ## The Line Port: errors only by counts up to 255, an address only in range -/

/-- What every act of the Line Port keeps to: the error counter grows to 255 at most (R28), and the
address changes only to one in 0..200 (R31). -/
structure LinePort.Follows (l m : LinePort) : Prop where
  errors : m.lineErrors ≤ 255 ∨ m.lineErrors ≤ l.lineErrors
  address : m.address ≤ 200 ∨ m.address = l.address

theorem LinePort.Follows.refl (l : LinePort) : l.Follows l := ⟨.inr le_rfl, .inr rfl⟩

theorem LinePort.Follows.trans {l m n : LinePort} (h : l.Follows m) (k : m.Follows n) :
    l.Follows n := by
  have := h.errors
  have := k.errors
  refine ⟨by omega, ?_⟩
  rcases k.address with hk | hk
  · exact .inl hk
  · rw [hk]
    exact h.address

/-- The counter and the address stay. -/
theorem LinePort.Follows.of_eq {l m : LinePort} (h : m.lineErrors = l.lineErrors)
    (k : m.address = l.address) : l.Follows m := ⟨.inr h.le, .inr k⟩

theorem LinePort.follows_countError (l : LinePort) : l.Follows l.countError := by
  refine ⟨.inl ?_, .inr rfl⟩
  simp only [LinePort.countError]
  omega

theorem LinePort.follows_countFor (l : LinePort) (f : RxFrame) : l.Follows (l.countFor f) := by
  unfold LinePort.countFor
  split
  · exact LinePort.Follows.refl l
  · exact l.follows_countError

theorem LinePort.follows_stopFrame (l : LinePort) (f : RxFrame) : l.Follows (l.stopFrame f) := by
  unfold LinePort.stopFrame
  split <;> try split
  all_goals exact LinePort.Follows.of_eq rfl rfl

theorem LinePort.follows_closeFrame (l : LinePort) (f : RxFrame) (bytes : List Byte) (good : Bool) :
    l.Follows (l.closeFrame f bytes good) := by
  simp only [LinePort.closeFrame]
  split <;> exact LinePort.Follows.of_eq rfl rfl

theorem LinePort.follows_placeReply (l : LinePort) (bytes : List Byte) :
    l.Follows (l.placeReply bytes) := LinePort.Follows.of_eq rfl rfl

theorem LinePort.follows_startBit (l : LinePort) (reassignable : Bool) (kind second : Byte) :
    l.Follows (l.startBit reassignable kind second) := by
  unfold LinePort.startBit LinePort.beginFrame LinePort.surplus
  repeat' split
  all_goals first
    | exact LinePort.Follows.of_eq rfl rfl
    | exact LinePort.Follows.trans l.follows_countError (LinePort.Follows.of_eq rfl rfl)

theorem LinePort.follows_surplus (l : LinePort) : l.Follows l.surplus :=
  LinePort.Follows.trans l.follows_countError (LinePort.Follows.of_eq rfl rfl)

theorem LinePort.follows_notActedOn (l : LinePort) (f : RxFrame) (frame : List Byte) :
    l.Follows (l.notActedOn f frame) := by
  have h := l.follows_closeFrame f frame (fcsGood frame)
  simp only [LinePort.notActedOn]
  split
  · exact h.trans (LinePort.follows_countError _)
  · split
    · exact h.trans (LinePort.follows_countFor _ _)
    · exact (h.trans (LinePort.follows_countFor _ _)).trans
        (LinePort.follows_placeReply _ _)

theorem LinePort.follows_gapElapsed (l : LinePort) : l.Follows l.gapElapsed := by
  unfold LinePort.gapElapsed
  repeat' split
  all_goals exact LinePort.Follows.of_eq rfl rfl

theorem LinePort.follows_reset (l : LinePort) (m : Mode) : l.Follows (l.reset m) := by
  refine ⟨.inl (Nat.zero_le _), ?_⟩
  simp only [LinePort.reset]
  split
  · exact .inl (Nat.zero_le _)
  · exact .inr rfl

/-! ## Keeping a condition through every command -/

/-- A condition that every event keeps, told event by event: what `step_keeps` asks for. -/
structure Kept (P : State → Prop) : Prop where
  queue : ∀ s q, P s → P { s with pending := q }
  line : ∀ s l, s.line.Follows l → P s → P { s with line := l }
  key : ∀ s k, P s → P (s.readKey k)
  capture : ∀ s x, P s → P { s with sweep := { s.sweep with capture := x } }
  post : ∀ s k i j, P s → P (s.postDetail k i j)
  heartbeat : ∀ s ph, P s → P { s with
    sweep := { s.sweep with lastPhase := some ph }, watchdog := s.watchdog.heartbeat s.now }
  refresh : ∀ s k, s.sweep.capture.length = s.sweep.records.length → P s → P (s.refreshNeighbours k)
  level : ∀ s l, l ≤ 7 → P s → P (s.takeLevel l)
  sync : ∀ s c, P s → P { s with take := { s.take with clock := c } }.dueTest
  dueTest : ∀ s, P s → P s.dueTest
  elapse : ∀ s n, s.Ready → n ≤ max 1 s.untilNext → P s → P (s.elapse n)
  expire : ∀ s, P s → P s.watchdogExpire
  dwell : ∀ s h, s.env.dwellDue h s.gantry = true → P s → P (s.seq fun e => e.dwellComplete h)
  clearance : ∀ s k, s.env.clearanceDue k s.gantry = true → P s → P (s.seq fun e => e.clearanceComplete k)
  stall : ∀ s h, P s → P (s.stallHead h)
  sequencer : ∀ s, P s → P s.dueSequencer
  stale : ∀ s n, P s → P (s.goStale n)
  slew : ∀ s, P s → P s.slewTick
  atReading : ∀ s, P s → P s.atReading
  temperature : ∀ s r, P s → P (s.readTemperature r)
  atSample : ∀ s, P s → P s.atSample
  sample : ∀ s m, P s → P (s.sample m)
  nextRead : ∀ s, P s → P s.nextRead
  commit : ∀ s, s.store.validating = true → P s → P s.commitComplete
  restartDue : ∀ s b, P s → P { s with node := { s.node with restartDue := b } }
  powerUp : ∀ s c p, P s → P (s.powerUp c p)
  keepRestart : ∀ s p, P s → P (s.keepRestart p)
  supplyLoss : ∀ s, P s → P { s.holdInReset with
    node := { s.holdInReset.node with supplyOk := false } }
  resetLow : ∀ s, P s → P { s.holdInReset with
    node := { s.holdInReset.node with resetNHigh := false } }
  supplyBack : ∀ s, s.node.resetNHigh = false → P s →
    P { s with node := { s.node with supplyOk := true } }
  resetBack : ∀ s, s.node.supplyOk = false → P s →
    P { s with node := { s.node with resetNHigh := true } }
  readEvents : ∀ s, P s → P { s with
    events := { queue := s.events.queue.drop 4, overflow := false } }
  write : ∀ s t i r, i < t.records → t.recordOk r = true → P s →
    P (s.setShadow (s.store.shadow.write t i r))
  revert : ∀ s, P s → P (s.setShadow s.store.active)
  validating : ∀ s, P s → P { s with store := { s.store with validating := true, commitAge := 0 } }
  discard : ∀ s, P s → P { s with
    store := { s.store with
      shadow := s.store.active, validating := false, commitAge := 0, lastResult := .aborted
      lastTable := 0, lastIndex := 0 } }
  stage : ∀ s p, s.node.mode.serving = true → s.store.active.planDefined p = true → P s →
    P (s.setPending (some p))
  unstage : ∀ s, P s → P (s.setPending none)
  take : ∀ s p, takeMode s = true → s.take.pendingPlan = some p → P s →
    P ((s.takePlan p).setPending none)
  schedule : ∀ s due p, s.node.mode.serving = true → s.take.pendingPlan = some p →
    s.takeAtCheck due = none → P s → P (s.scheduleTake due p)
  scheduleFull : ∀ s, s.node.mode.serving = true → P s →
    P { s with take := { s.take with scheduleFull := true } }
  cancel : ∀ s body l, s.cancelled body = some l → P s → P (s.withSchedule l)
  enter : ∀ s, s.node.mode = .outOfService → P s → P s.enterService
  leave : ∀ s, s.node.mode.serving = true → P s → P s.leaveService
  hold : ∀ s, s.node.mode = .inService → P s → P (s.setHold true)
  stepHeads : ∀ s, s.node.mode = .inService → P s → P (s.seq Env.stepExisting)
  release : ∀ s, s.node.mode = .inService → P s → P s.releaseHold
  lampTest : ∀ s h a p, s.node.mode = .outOfService → s.store.active.headExists h = true →
    a ≠ .dark → (a.permissive = true → s.oppositeTestPermissive h = false) → P s →
    P (s.setHead h (s.gantry.heads[h].testing a p) true)
  lampOff : ∀ s h, s.node.mode = .outOfService → P s →
    P (s.setHead h s.gantry.heads[h].darken false)
  clearFault : ∀ s x, P s → P (({ s with gantry := s.gantry.clearFaults s.store.active x }).seq
    fun e g => e.retestOpposites s.gantry g)
  relearn : ∀ s x, P s → P { s with gantry := s.gantry.relearn x }
  restart : ∀ s k, P s → P { s with
    node := { s.node with restartPending := some k, restartDue := false } }

variable {P : State → Prop}

theorem Kept.onLine (K : Kept P) (s : State) (f : LinePort → LinePort)
    (h : s.line.Follows (f s.line)) (hs : P s) : P (s.onLine f) := K.line s _ h hs

theorem Kept.dropCapture (K : Kept P) (s : State) (hs : P s) : P s.dropCapture := K.capture s _ hs

theorem Kept.postEvent (K : Kept P) (s : State) (k : EventKind) (hs : P s) : P (s.post k) :=
  K.post s k 0 0 hs

theorem Kept.restartEffect (K : Kept P) (s : State) (k : RestartKind) (p : ResetInputs) (hs : P s) :
    P (s.restartEffect k p) := by
  unfold State.restartEffect
  split
  · exact K.keepRestart _ _ hs
  · exact K.powerUp _ _ _ hs

theorem Kept.dueRestart (K : Kept P) (s : State) (hs : P s) : P s.dueRestart := by
  unfold State.dueRestart
  split
  · exact K.restartEffect _ _ _ (K.nextRead _ hs)
  · exact hs

theorem Kept.effectOf (K : Kept P) (s : State) (k : RestartKind) (p : ResetInputs) (hs : P s) :
    P (s.effectOf k p) := by
  unfold State.effectOf
  split
  · exact hs
  · split
    · exact K.restartEffect _ _ _ hs
    · exact K.dueRestart _ hs

/-- A live event keeps what its effect keeps. -/
theorem Kept.live (K : Kept P) {s t : State} {f : State → State} (hf : ∀ s, P s → P (f s))
    (hs : P s) (h : live s f = .next t) : P t := by
  unfold Machine.live at h
  simp only [Host.Outcome.next.injEq] at h
  subst h
  split
  · exact hs
  · exact hf _ (K.dueRestart _ hs)

theorem Kept.unknownFrame (K : Kept P) (s : State) (f : RxFrame) (hs : P s) :
    P (s.unknownFrame f) :=
  K.dropCapture _ (K.onLine _ _ (((LinePort.follows_countFor _ _).trans
    (LinePort.follows_stopFrame _ _)).trans (LinePort.Follows.of_eq rfl rfl)) hs)

/-- A frame end keeps what its act keeps. -/
theorem Kept.frameEnd (K : Kept P) (frame : List Byte) (act : RxFrame → State → State)
    (ha : ∀ f s, P s → P (act f s)) (s : State) (hs : P s) : P (s.frameEnd frame act) := by
  rcases s.frameEnd_cases frame act with h | ⟨f, -, h | h⟩
  · rw [h]
    exact hs
  · rw [h]
    exact K.unknownFrame _ _ hs
  · rw [h]
    exact ha f s hs

/-! ## Orders -/

theorem Kept.reply (K : Kept P) (a : Answer) (code : Byte) (o : Order) (h : P a.state) :
    P (a.reply code o) := K.onLine _ _ (LinePort.follows_placeReply _ _) h

/-- What the frame end of an ORDER keeps, from what the order itself keeps. -/
theorem Kept.orderEnd (K : Kept P) (code : Byte) (o : Order) (answer : State → Answer)
    (group : State → State) (ha : ∀ s, P s → P (answer s).state) (hg : ∀ s, P s → P (group s))
    (s : State) (hs : P s) : P (orderEnd code o answer group s) := by
  unfold Machine.orderEnd
  refine K.frameEnd _ _ (fun f s hs => ?_) s hs
  have hk := K.key s o.key hs
  simp only
  split
  · split
    · exact K.onLine _ _ (LinePort.follows_notActedOn _ _ _) hk
    · exact K.reply _ _ _ (ha _ (K.onLine _ _ (LinePort.follows_closeFrame _ _ _ _) hk))
  · have hc := K.onLine (s.readKey o.key) (fun l => l.closeFrame f (withFcs (o.frame code)) true)
      (LinePort.follows_closeFrame _ _ _ _) hk
    split
    · exact hg _ hc
    · exact hc

/-- The checks pass in a mode that accepts the order alone. -/
theorem OrderSpec.modeOk_of_check (q : OrderSpec) (o : Order) (s : State) (h : q.check o s = none) :
    q.modeOk s = true := by
  cases hm : q.modeOk s
  · revert h
    unfold OrderSpec.check
    rw [hm]
    repeat' split
    all_goals simp_all
  · rfl

theorem OrderSpec.answer_keeps (q : OrderSpec) (o : Order)
    (h : ∀ s, P s → q.modeOk s = true → P (q.act o s).state) (s : State) (hs : P s) :
    P (q.answer o s).state := by
  unfold OrderSpec.answer
  split
  · exact hs
  · rename_i hc
    refine h s hs ?_
    exact q.modeOk_of_check o s hc

theorem OrderSpec.answerGroup_keeps (q : OrderSpec) (o : Order)
    (h : ∀ s, P s → q.modeOk s = true → P (q.actGroup o s))
    (hw : ∀ s, P s → P (q.wrongModeGroup s)) (s : State) (hs : P s) :
    P (q.answerGroup o s) := by
  unfold OrderSpec.answerGroup
  split
  · exact hs
  · split
    · exact hw s hs
    · exact hs
    · rename_i hc
      refine h s hs ?_
      exact q.modeOk_of_check o s hc

/-- What an order of the catalogue keeps. -/
theorem Kept.run (K : Kept P) (q : OrderSpec) (o : Order)
    (ha : ∀ s, P s → q.modeOk s = true → P (q.act o s).state)
    (hg : ∀ s, P s → q.modeOk s = true → P (q.actGroup o s))
    (hw : ∀ s, P s → P (q.wrongModeGroup s)) {s t : State} (hs : P s)
    (h : q.run o s = .next t) : P t :=
  K.live (fun s hs => K.orderEnd _ _ _ _ (fun s => q.answer_keeps o ha s)
    (fun s => q.answerGroup_keeps o hg hw s) s hs) hs h

/-- What an order acted on only when addressed keeps. -/
theorem Kept.runAddressed (K : Kept P) (code : Byte) (l : List Byte → Bool) (c : List Byte → Bool)
    (m : State → Bool) (act : Order → State → Answer) (o : Order)
    (ha : ∀ s, P s → m s = true → P (act o s).state) {s t : State} (hs : P s)
    (h : (addressedOrder code l c m act).run o s = .next t) : P t :=
  K.run _ o ha (fun _ hs _ => hs) (fun _ hs => hs) hs h

theorem serving_of_inServiceOrFallback {s : State} (h : inServiceOrFallback s = true) :
    s.node.mode.serving = true := by
  revert h
  unfold inServiceOrFallback Mode.serving
  cases s.node.mode <;> decide

theorem mode_of_inService {s : State} (h : inService s = true) : s.node.mode = .inService := by
  simpa [inService] using h

theorem serving_of_takeMode {s : State} (h : takeMode s = true) : s.node.mode.serving = true := by
  revert h
  unfold takeMode Mode.serving
  cases s.node.mode <;> simp

/-! ## The passing of time -/

theorem Kept.dueCommit (K : Kept P) (s : State) (hs : P s) : P s.dueCommit := by
  unfold State.dueCommit
  split
  · rename_i h
    exact K.commit _ (by simp only [Bool.and_eq_true] at h; exact h.1) hs
  · exact hs

theorem Kept.dueWatchdog (K : Kept P) (s : State) (hs : P s) : P s.dueWatchdog := by
  unfold State.dueWatchdog
  split
  · exact K.expire _ hs
  · exact hs

theorem Kept.dueUnheld (K : Kept P) (s : State) (hs : P s) : P s.dueUnheld := by
  unfold State.dueUnheld
  split
  · exact hs
  · exact K.sequencer _ hs

theorem Kept.dueStales (K : Kept P) (s : State) (hs : P s) : P s.dueStales := by
  unfold State.dueStales
  generalize s.sweep.records.filter s.expires = l
  induction l generalizing s with
  | nil => exact hs
  | cons n l ih => exact ih _ (K.stale _ _ hs)

theorem Kept.dueSlew (K : Kept P) (s : State) (hs : P s) : P s.dueSlew := by
  unfold State.dueSlew
  split
  · exact K.slew _ hs
  · exact hs

theorem Kept.dueReading (K : Kept P) (s : State) (hs : P s) : P s.dueReading := by
  unfold State.dueReading
  split
  · exact K.temperature _ _ (K.atReading _ (K.nextRead _ hs))
  · exact hs

theorem Kept.dueSample (K : Kept P) (s : State) (hs : P s) : P s.dueSample := by
  unfold State.dueSample
  split
  · exact K.sample _ _ (K.atSample _ (K.nextRead _ hs))
  · exact hs

theorem Kept.due (K : Kept P) (s : State) (hs : P s) : P s.due :=
  K.dueSample _ (K.dueReading _ (K.dueTest _ (K.dueSlew _ (K.dueStales _ (K.dueUnheld _
    (K.dueWatchdog _ (K.dueCommit _ (K.dueRestart _ hs))))))))

theorem Kept.settled (K : Kept P) (s : State) (hs : P s) : P s.settled := by
  unfold State.settled
  split
  · exact K.due _ hs
  · exact hs

theorem Kept.runs (K : Kept P) (fuel n : Nat) (s : State) (hs : P s) : P (s.run fuel n) := by
  induction fuel generalizing n s with
  | zero => exact hs
  | succ fuel ih =>
    have ht := K.settled s hs
    simp only [State.run]
    split
    · exact K.elapse _ _ s.settled_ready (by assumption) ht
    · exact ih _ _ (K.elapse _ _ s.settled_ready le_rfl ht)

theorem Kept.reach (K : Kept P) (s : State) (n : Nat) (hs : P s) : P (s.reach n) := by
  unfold State.reach
  split
  · exact hs
  · exact K.runs _ _ _ hs

theorem Kept.tick (K : Kept P) (s : State) (hs : P s) : P s.tick := by
  unfold State.tick
  split
  · exact hs
  · exact K.due _ (K.reach _ _ hs)

/-- A timed command keeps what its event keeps. -/
theorem Kept.timed (K : Kept P) (n : Nat) {event : State → State} (he : ∀ u, P u → P (event u))
    (s : State) (hs : P s) : P (s.timed n event) := K.dueTest _ (he _ (K.reach _ _ hs))

/-! ## Every command, every step -/

theorem Kept.syncClock (K : Kept P) (s : State) (m : Clock) (hs : P s) : P (s.syncClock m) := by
  simp only [State.syncClock]
  split
  · exact hs
  · exact K.sync s _ hs

theorem SweepFrame.level_le (f : SweepFrame) : f.level ≤ 7 := by
  unfold SweepFrame.level
  have := (f.control.extractLsb' 1 3).isLt
  omega

theorem Kept.sweepEvent (K : Kept P) (s : State) (f : SweepFrame)
    (hc : s.sweep.capture.length = s.sweep.records.length) (hs : P s) : P (s.sweepEvent f) := by
  unfold State.sweepEvent
  split
  · exact K.dropCapture _ (K.postEvent _ _ hs)
  · exact K.syncClock _ _ (K.dropCapture _ (K.level _ _ (SweepFrame.level_le f)
      (K.refresh _ _ hc (K.heartbeat _ _ hs))))

theorem Kept.truncate (K : Kept P) (s : State) (f : RxFrame) (hs : P s) : P (s.truncate f) :=
  K.dropCapture _ (K.onLine _ _
    (((LinePort.follows_countFor _ _).trans (LinePort.follows_stopFrame _ _)).trans
      (LinePort.Follows.of_eq rfl rfl)) hs)

theorem Kept.closeOnLine (K : Kept P) (s : State) (f : RxFrame) (bytes : List Byte) (good : Bool)
    (hs : P s) : P (s.onLine fun l => l.closeFrame f bytes good) :=
  K.onLine _ _ (LinePort.follows_closeFrame _ _ _ _) hs

/-- The commands of the line keep P. -/
theorem Kept.sweep (K : Kept P) (f : SweepFrame) {s t : State} (hs : P s)
    (h : execSweep f s = .next t) : P t := by
  refine K.live (fun s hs => K.frameEnd _ _ (fun r s hs => ?_) s hs) hs h
  have h1 := K.closeOnLine s r f.bytes true hs
  simp only
  split
  · exact K.dropCapture _ h1
  · refine K.sweepEvent _ _ (by simp [State.captureSlots]) (K.capture _ _ ?_)
    split
    · exact K.postEvent _ _ h1
    · exact h1

theorem Kept.enumerate (K : Kept P) (next flags : Byte) {s t : State} (hs : P s)
    (h : execEnumerate next flags s = .next t) : P t := by
  refine K.live (fun s hs => K.frameEnd _ _ (fun r s hs => ?_) s hs) hs h
  have h1 := K.closeOnLine s r (s.rewritten r (enumerateBytes next flags)) true hs
  simp only
  split
  · rename_i hc
    refine K.onLine _ _ ⟨.inr le_rfl, .inl ?_⟩ h1
    simp only [Bool.and_eq_true, takesAddress, inRange, decide_eq_true_eq] at hc
    exact hc.2.2
  · exact h1

/-- The records of a TABLE_WRITE go into SHADOW one by one. -/
theorem Kept.writeRecords (K : Kept P) (t : Table) (count index : Nat) (data : List Byte) (b : Bank)
    (written : Nat) (s : State) (hs : P (s.setShadow b)) :
    P (s.setShadow (writeRecords t count index data b written).bank) := by
  induction count generalizing index data b written with
  | zero => exact hs
  | succ count ih =>
    unfold Machine.writeRecords
    split
    · exact hs
    · rename_i hi
      split
      · rename_i hr
        exact ih _ _ _ _ (K.write (s.setShadow b) t index _ (by omega) hr hs)
      · exact hs

theorem Kept.tableWrite (K : Kept P) (o : Order) {s t : State} (hs : P s)
    (h : execTableWrite o s = .next t) : P t := by
  refine K.run tableWriteSpec o (fun s hs _ => ?_) (fun _ hs _ => hs) (fun _ hs => hs) hs h
  show P (actTableWrite o s).state
  unfold actTableWrite
  split
  · exact hs
  · simp only
    split <;> exact K.writeRecords _ _ _ _ _ _ _ hs

theorem Kept.lampTestOrder (K : Kept P) (o : Order) {s t : State} (hs : P s)
    (h : execLampTest o s = .next t) : P t := by
  refine K.runAddressed _ _ _ _ actLampTest o (fun s hs hm => ?_) hs h
  have hm : s.node.mode = .outOfService := by simpa using hm
  simp only [actLampTest]
  generalize (if natAt o.body 2 = 0 then PatternKind.primary else PatternKind.alternate) = p
  split
  · exact hs
  · rename_i hr
    split
    · exact K.lampOff _ _ hm hs
    · rename_i a ha
      split
      · exact hs
      · split
        · exact hs
        · rename_i hf hc
          refine K.lampTest _ _ _ _ hm ?_ ?_ ?_ hs
          · simp only [not_or, Bool.not_eq_false] at hr
            exact hr.2.1
          · intro hd
            subst hd
            revert ha
            unfold Aspect.ofCode
            split <;> simp
          · intro hp
            simpa [hp] using hc

theorem Kept.exec (K : Kept P) (c : Instr) {s t : State} (hs : P s)
    (h : Machine.exec c s = .next t) : P t := by
  cases c with
  | powerOn p =>
    have h : execPowerOn p s = .next t := h
    simp only [execPowerOn, Host.Outcome.next.injEq] at h
    subst h
    split
    · exact K.powerUp _ _ _ hs
    · rename_i hp
      exact K.supplyBack _ (by simpa using hp) hs
  | resetN p =>
    have h : execResetN p s = .next t := h
    simp only [execResetN, Host.Outcome.next.injEq] at h
    subst h
    split
    · exact K.powerUp _ _ _ hs
    · rename_i hp
      exact K.resetBack _ (by simpa using hp) hs
  | frameStart k x =>
    have h : execFrameStart k x s = .next t := h
    exact K.live (fun s hs => K.onLine s _ (LinePort.follows_startBit _ _ _ _) hs) hs h
  | framingError =>
    have h : execFramingError s = .next t := h
    refine K.live (fun s hs => K.onLine s _ ?_ hs) hs h
    split
    · exact (LinePort.follows_countFor _ _).trans (LinePort.Follows.of_eq rfl rfl)
    · exact LinePort.Follows.refl _
  | unknownFrame =>
    have h : execUnknownFrame s = .next t := h
    refine K.live (fun s hs => ?_) hs h
    split
    · exact K.unknownFrame _ _ hs
    · exact hs
  | frameTruncation =>
    have h : execFrameTruncation s = .next t := h
    refine K.live (fun s hs => ?_) hs h
    split
    · exact K.truncate _ _ hs
    · exact hs
  | surplusBytes =>
    have h : execSurplusBytes s = .next t := h
    refine K.live (fun s hs => K.onLine s _ ?_ hs) hs h
    split
    · exact LinePort.follows_surplus _
    · exact LinePort.Follows.refl _
  | inIdleGap =>
    have h : execInIdleGap s = .next t := h
    refine K.live (fun s hs => ?_) hs h
    split
    any_goals exact K.onLine _ _ (LinePort.Follows.of_eq rfl rfl) hs
    all_goals first | exact K.truncate _ _ hs | exact hs
  | badFcsFrameEnd frame =>
    have h : execBadFcsFrameEnd frame s = .next t := h
    refine K.live (fun s hs => K.frameEnd _ _ (fun f s hs => ?_) s hs) hs h
    split
    · exact hs
    · split
      · exact K.onLine _ _ (LinePort.follows_notActedOn _ _ _) hs
      · exact K.dropCapture _ (K.onLine _ _ ((LinePort.follows_countFor _ _).trans
          (LinePort.follows_closeFrame _ _ _ _)) hs)
  | sweep f =>
    have h : execSweep f s = .next t := h
    exact K.sweep f hs h
  | ownSlotWrite n =>
    have h : execOwnSlotWrite n s = .next t := h
    refine K.live (fun s hs => ?_) hs h
    split
    · exact hs
    · split
      · exact hs
      · exact hs
      · refine K.onLine _ _ ?_ hs
        split <;> exact LinePort.Follows.of_eq rfl rfl
  | replyFrame f =>
    have h : execReplyFrame f s = .next t := h
    refine K.live (fun s hs => K.frameEnd _ _ (fun r s hs => ?_) s hs) hs h
    simp only
    split
    · exact K.postEvent _ _ (K.closeOnLine _ _ _ _ hs)
    · exact K.closeOnLine _ _ _ _ hs
  | enumerate n fl =>
    have h : execEnumerate n fl s = .next t := h
    exact K.enumerate n fl hs h
  | orderNotActedOn code o fcs =>
    have h : execOrderNotActedOn code o fcs s = .next t := h
    refine K.live (fun s hs => K.frameEnd _ _ (fun f s hs => ?_) s hs) hs h
    split
    · exact K.onLine _ _ (LinePort.follows_notActedOn _ _ _) (K.key _ _ hs)
    · exact hs
  | unknownOrder code o =>
    have h : execUnknownOrder code o s = .next t := h
    refine K.live (fun s hs => ?_) hs h
    split
    · exact hs
    · exact K.orderEnd _ _ _ _ (fun _ hs => hs) (fun _ hs => hs) _ hs
  | outGapElapsed =>
    have h : execOutGapElapsed s = .next t := h
    exact K.live (fun s hs => K.onLine s _ (LinePort.follows_gapElapsed _) hs) hs h
  | replyLeftOut =>
    have h : execReplyLeftOut s = .next t := h
    refine K.live (fun s hs => ?_) hs h
    split
    · split
      · exact hs
      · rename_i reply _ _ _
        have h1 := K.line s (s.line.replyLeft reply) (LinePort.Follows.of_eq rfl rfl) hs
        exact K.restartDue _ s.node.restartPending.isSome h1
    · exact hs
  | passThroughLeftOut =>
    have h : execPassThroughLeftOut s = .next t := h
    refine K.live (fun s hs => ?_) hs h
    split
    · exact hs
    · split
      · exact K.onLine _ _ (LinePort.Follows.of_eq rfl rfl) hs
      · exact hs
  | lineBreak =>
    have h : execLineBreak s = .next t := h
    exact K.live (fun s hs => K.onLine s _ (LinePort.Follows.of_eq rfl rfl) hs) hs h
  | lineReset =>
    have h : execLineReset s = .next t := h
    refine K.live (fun s hs => ?_) hs h
    split
    · have h1 := K.line s (s.line.reset s.node.mode) (LinePort.follows_reset _ _) hs
      exact K.dropCapture _ (K.restartDue _ s.node.restartPending.isSome h1)
    · exact hs
  | readNode o =>
    have h : execReadNode o s = .next t := h
    refine K.runAddressed _ _ _ _ actReadNode o (fun s hs _ => ?_) hs h
    unfold actReadNode
    split
    · exact hs
    · unfold Answer.done
      simp only
      split
      · exact K.onLine _ _ ⟨.inl (Nat.zero_le _), .inr rfl⟩ hs
      · exact hs
  | readLamps o =>
    have h : execReadLamps o s = .next t := h
    refine K.runAddressed _ _ _ _ actReadLamps o (fun s hs _ => ?_) hs h
    simp only [actReadLamps]
    split <;> exact hs
  | readEvents o =>
    have h : execReadEvents o s = .next t := h
    exact K.runAddressed _ _ _ _ actReadEvents o (fun s hs _ => K.readEvents s hs) hs h
  | peekEvents o =>
    have h : execPeekEvents o s = .next t := h
    exact K.runAddressed _ _ _ _ actPeekEvents o (fun s hs _ => hs) hs h
  | tableWrite o =>
    have h : execTableWrite o s = .next t := h
    exact K.tableWrite o hs h
  | tableRead o =>
    have h : execTableRead o s = .next t := h
    refine K.runAddressed _ _ _ _ actTableRead o (fun s hs _ => ?_) hs h
    simp only [actTableRead]
    split
    · exact hs
    · split <;> exact hs
  | commitTables o =>
    have h : execCommitTables o s = .next t := h
    exact K.run commitTablesSpec o (fun s hs _ => K.validating s hs) (fun _ hs _ => hs)
      (fun _ hs => hs) hs h
  | discardShadow o =>
    have h : execDiscardShadow o s = .next t := h
    refine K.runAddressed _ _ _ _ actDiscardShadow o (fun s hs _ => ?_) hs h
    unfold actDiscardShadow
    split
    · exact K.discard s hs
    · exact K.revert s hs
  | commitCompletion =>
    have h : execCommitCompletion s = .next t := h
    refine K.live (fun s hs => ?_) hs h
    split
    · exact K.commit _ ‹_› hs
    · exact hs
  | stage o =>
    have h : execStage o s = .next t := h
    refine K.run stageSpec o (fun s hs hm => ?_) (fun s hs hm => ?_) (fun _ hs => hs) hs h
    · have hm := serving_of_inServiceOrFallback hm
      show P (actStage o s).state
      simp only [actStage]
      split
      · exact hs
      · split
        · exact K.stage _ _ hm ‹_› hs
        · exact hs
    · have hm := serving_of_inServiceOrFallback hm
      show P (groupStage o s)
      simp only [groupStage]
      split
      · exact hs
      · split
        · exact K.stage _ _ hm ‹_› hs
        · exact K.postEvent _ _ (K.unstage _ hs)
  | take o =>
    have h : execTake o s = .next t := h
    refine K.run takeSpec o (fun s hs hm => ?_) (fun s hs hm => ?_) (fun s hs => ?_) hs h
    · show P (actTake o s).state
      unfold actTake
      split
      · exact hs
      · exact K.take _ _ hm ‹_› hs
    · show P (groupTake o s)
      unfold groupTake
      split
      · exact K.postEvent _ _ hs
      · exact K.take _ _ hm ‹_› hs
    · show P (if s.node.mode = .fallback then s.post .takeWithoutStage else s)
      split
      · exact K.postEvent _ _ hs
      · exact hs
  | takeAt o =>
    have h : execTakeAt o s = .next t := h
    refine K.run takeAtSpec o (fun s hs hm => ?_) (fun s hs hm => ?_) (fun _ hs => hs) hs h
    · have hm := serving_of_inServiceOrFallback hm
      show P (actTakeAt o s).state
      simp only [actTakeAt]
      split
      · exact hs
      · split
        · exact hs
        · exact K.schedule _ _ _ hm ‹_› ‹_› hs
    · have hm := serving_of_inServiceOrFallback hm
      show P (groupTakeAt o s)
      simp only [groupTakeAt]
      split
      · exact K.postEvent _ _ hs
      · split
        · exact K.postEvent _ _ (K.scheduleFull _ hm hs)
        · exact hs
        · exact K.schedule _ _ _ hm ‹_› ‹_› hs
  | cancelTakes o =>
    have h : execCancelTakes o s = .next t := h
    refine K.run cancelTakesSpec o (fun s hs hm => ?_) (fun s hs hm => ?_) (fun _ hs => hs) hs h
    · show P (actCancelTakes o s).state
      unfold actCancelTakes
      split
      · exact hs
      · exact K.cancel _ _ _ ‹_› hs
    · show P (groupCancelTakes o s)
      unfold groupCancelTakes
      split
      · exact hs
      · exact K.cancel _ _ _ ‹_› hs
  | scheduleFiring =>
    have h : execScheduleFiring s = .next t := h
    refine K.live (fun s hs => ?_) hs h
    split
    · exact hs
    · exact K.timed _ (fun _ hu => hu) s hs
  | enterService o =>
    have h : execEnterService o s = .next t := h
    exact K.runAddressed _ _ _ _ (fun _ s => .done s.enterService []) o
      (fun s hs hm => K.enter s (by simpa using hm) hs) hs h
  | leaveService o =>
    have h : execLeaveService o s = .next t := h
    exact K.runAddressed _ _ _ _ (fun _ s => .done s.leaveService []) o
      (fun s hs hm => K.leave s (serving_of_inServiceOrFallback hm) hs) hs h
  | hold o =>
    have h : execHold o s = .next t := h
    exact K.runAddressed _ _ _ _ (fun _ s => .done (s.setHold true) []) o
      (fun s hs hm => K.hold s (mode_of_inService hm) hs) hs h
  | stepHeads o =>
    have h : execStepHeads o s = .next t := h
    refine K.runAddressed _ _ _ _ actStep o (fun s hs hm => ?_) hs h
    unfold actStep
    split
    · exact K.stepHeads s (mode_of_inService hm) hs
    · exact hs
  | release o =>
    have h : execRelease o s = .next t := h
    exact K.runAddressed _ _ _ _ (fun _ s => .done s.releaseHold []) o
      (fun s hs hm => K.release s (mode_of_inService hm) hs) hs h
  | lampTest o =>
    have h : execLampTest o s = .next t := h
    exact K.lampTestOrder o hs h
  | clearLampFault o =>
    have h : execClearLampFault o s = .next t := h
    refine K.runAddressed _ _ _ _ actClearLampFault o (fun s hs _ => ?_) hs h
    simp only [actClearLampFault]
    split
    · exact hs
    · exact K.clearFault s _ hs
  | relearn o =>
    have h : execRelearn o s = .next t := h
    refine K.runAddressed _ _ _ _ actRelearn o (fun s hs _ => ?_) hs h
    simp only [actRelearn]
    split
    · exact hs
    · exact K.relearn s _ hs
  | restartKeepTables o =>
    have h : execRestartKeepTables o s = .next t := h
    refine K.runAddressed _ _ _ _ actRestart o (fun s hs _ => ?_) hs h
    unfold actRestart
    split
    · exact K.restart s _ hs
    · exact K.restart s _ hs
    · exact hs
  | restartFull o =>
    have h : execRestartFull o s = .next t := h
    refine K.runAddressed _ _ _ _ actRestart o (fun s hs _ => ?_) hs h
    unfold actRestart
    split
    · exact K.restart s _ hs
    · exact K.restart s _ hs
    · exact hs
  | keepTablesRestartEffect p =>
    have h : execKeepTablesRestartEffect p s = .next t := h
    simp only [execKeepTablesRestartEffect, Host.Outcome.next.injEq] at h
    subst h
    exact K.effectOf _ _ _ hs
  | fullRestartEffect p =>
    have h : execFullRestartEffect p s = .next t := h
    simp only [execFullRestartEffect, Host.Outcome.next.injEq] at h
    subst h
    exact K.effectOf _ _ _ hs
  | watchdogExpiry =>
    have h : execWatchdogExpiry s = .next t := h
    refine K.live (fun s hs => ?_) hs h
    split
    · exact K.timed _ K.dueWatchdog s hs
    · exact hs
  | mergeDwellCompletion hd =>
    have h : execMergeDwellCompletion hd s = .next t := h
    refine K.live (fun s hs => ?_) hs h
    split
    · refine K.timed _ (fun u hu => ?_) s hs
      split
      · rename_i hc
        exact K.dwell _ _ (Bool.and_eq_true_iff.1 hc).2 hu
      · exact hu
    · exact hs
  | clearanceCompletion k =>
    have h : execClearanceCompletion k s = .next t := h
    refine K.live (fun s hs => ?_) hs h
    split
    · refine K.timed _ (fun u hu => ?_) s hs
      split
      · rename_i hc
        exact K.clearance _ _ (Bool.and_eq_true_iff.1 hc).2 hu
      · exact hu
    · exact hs
  | stallTimeout hd =>
    have h : execStallTimeout hd s = .next t := h
    refine K.live (fun s hs => ?_) hs h
    split
    · refine K.timed _ (fun u hu => ?_) s hs
      split
      · exact K.stall _ _ hu
      · exact hu
    · exact hs
  | staleExpiry a hd =>
    have h : execStaleExpiry a hd s = .next t := h
    refine K.live (fun s hs => ?_) hs h
    split
    · exact hs
    · split
      · refine K.timed _ (fun u hu => ?_) s hs
        split
        · exact hu
        · split
          · exact K.stale _ _ hu
          · exact hu
      · exact hs
  | slewTick =>
    have h : execSlewTick s = .next t := h
    refine K.live (fun s hs => ?_) hs h
    split
    · exact hs
    · exact K.timed _ K.dueSlew s hs
  | temperatureSample r =>
    have h : execTemperatureSample r s = .next t := h
    refine K.live (fun s hs => K.timed _ (fun u hu => ?_) s hs) hs h
    split
    · exact K.temperature _ r (K.atReading _ hu)
    · exact hu
  | sampleEvent m =>
    have h : execSampleEvent m s = .next t := h
    refine K.live (fun s hs => K.timed _ (fun u hu => ?_) s hs) hs h
    split
    · exact K.sample _ m (K.atSample _ hu)
    · exact hu
  | supplyLoss =>
    have h : execSupplyLoss s = .next t := h
    simp only [execSupplyLoss, Host.Outcome.next.injEq] at h
    subst h
    exact K.supplyLoss _ hs
  | resetNAsserted =>
    have h : execResetNAsserted s = .next t := h
    simp only [execResetNAsserted, Host.Outcome.next.injEq] at h
    subst h
    exact K.resetLow _ hs
  | orderForwardedOnly code o =>
    have h : execOrderForwardedOnly code o s = .next t := h
    refine K.live (fun s hs => K.frameEnd _ _ (fun f s hs => ?_) s hs) hs h
    split
    · exact hs
    · exact K.onLine _ _ (LinePort.follows_closeFrame _ _ _ _) (K.key _ _ hs)

/-- One step keeps what every event keeps. -/
theorem Kept.step (K : Kept P) {s t : State} (hs : P s) (h : Machine.step s = .next t) : P t := by
  unfold Machine.step at h
  split at h
  · simp only [Host.Outcome.next.injEq] at h
    subst h
    exact K.tick _ hs
  · exact K.exec _ (K.queue _ _ hs) h

end Sys2Proof.Machine
end

