-- ==== Sys2Proof/Laws/Lanes.lean ====
section
/-! SUPPORT. Faces and heads that correspond, and why the sequencer never lets both faces of a TIDAL
lane be permissive. -/

namespace Sys2Proof.Machine

/-! ## Faces and heads that correspond (R15) -/

theorem mem_allFaces : ∀ (k : Fin 4) (f : Face), (k, f) ∈ allFaces := by
  intro k f
  cases f <;> revert k <;> decide

theorem failureAt_none {r : CommitResult} {t n : Nat} {x : Option (Fin n)} :
    failureAt r t x = none ↔ x = none := by
  unfold failureAt
  simp

theorem Bank.checkLaneHeads_none (b : Bank) (l : List (Fin 4 × Face))
    (named : List (Fin 8)) (h : b.checkLaneHeads l named = none) :
    (∀ kf ∈ l, b.headExists (b.faceHead kf.1 kf.2) = true
      ∧ b.headLane (b.faceHead kf.1 kf.2) = kf.1
      ∧ b.headFace (b.faceHead kf.1 kf.2) = kf.2)
    ∧ ∀ i : Fin 8, b.headExists i = true → i ∈ named ∨ ∃ kf ∈ l, b.faceHead kf.1 kf.2 = i := by
  induction l generalizing named with
  | nil =>
    unfold Bank.checkLaneHeads at h
    rw [failureAt_none] at h
    refine ⟨by simp, fun i hi => .inl ?_⟩
    rw [List.find?_eq_none] at h
    have hm : i ∈ b.existing := by
      unfold Bank.existing
      rw [List.mem_filter]
      exact ⟨mem_allHeads i, hi⟩
    have := h i hm
    simpa using this
  | cons x l ih =>
    obtain ⟨k, f⟩ := x
    unfold Bank.checkLaneHeads at h
    simp only at h
    split at h
    · cases h
    · split at h
      · cases h
      · split at h
        · cases h
        · rename_i h1 h2 h3
          obtain ⟨i1, i2⟩ := ih _ h
          refine ⟨fun kf hkf => ?_, fun i hi => ?_⟩
          · rcases List.mem_cons.1 hkf with rfl | hkf
            · simp only [not_or, not_not] at h3
              exact ⟨by simpa using h1, h3.1, h3.2⟩
            · exact i1 kf hkf
          · rcases i2 i hi with hm | ⟨kf, hk, he⟩
            · rcases List.mem_cons.1 hm with rfl | hm
              · exact .inr ⟨(k, f), List.mem_cons_self, rfl⟩
              · exact .inl hm
            · exact .inr ⟨kf, List.mem_cons_of_mem _ hk, he⟩

theorem Bank.mem_faces (b : Bank) (k : Fin 4) (f : Face) :
    (k, f) ∈ b.faces ↔ b.facePresent k f = true := by
  unfold Bank.faces
  rw [List.mem_filter]
  constructor
  · exact fun h => h.2
  · intro h
    refine ⟨?_, h⟩
    exact mem_allFaces k f

theorem Bank.facePresent_tidal {b : Bank} {k : Fin 4} (h : b.tidal k = true) (f : Face) :
    b.facePresent k f = true := by
  unfold Bank.tidal at h
  unfold Bank.facePresent
  have : b.laneKind k = .tidal := by simpa using h
  rw [this]
  cases f <;> rfl

theorem Bank.tidal_of_both {b : Bank} {k : Fin 4} (h : b.facePresent k .asc = true)
    (h' : b.facePresent k .desc = true) : b.tidal k = true := by
  unfold Bank.facePresent at h h'
  unfold Bank.tidal
  revert h h'
  cases b.laneKind k <;> simp [LaneKind.gives]

/-- The face that names a head is the face it serves. -/
theorem Bank.servedFace_faceHead {b : Bank} (hb : b.checkLaneHeads b.faces [] = none)
    {k : Fin 4} {f : Face} (h : b.facePresent k f = true) :
    b.servedFace (b.faceHead k f) = some (k, f) := by
  obtain ⟨h1, -⟩ := b.checkLaneHeads_none _ _ hb
  have hm := (b.mem_faces k f).2 h
  unfold Bank.servedFace
  cases hx : b.faces.find? fun kf => b.faceHead kf.1 kf.2 == b.faceHead k f with
  | none =>
    rw [List.find?_eq_none] at hx
    exact absurd (hx _ hm) (by simp)
  | some x =>
    have hp := List.find?_some hx
    have hxm := List.mem_of_find?_eq_some hx
    have e : b.faceHead x.1 x.2 = b.faceHead k f := by simpa using hp
    have a1 := h1 x hxm
    have a2 := h1 _ hm
    simp only at a2
    rw [e] at a1
    have : x = (k, f) := Prod.ext (a1.2.1.symm.trans a2.2.1) (a1.2.2.symm.trans a2.2.2)
    rw [this]

theorem Bank.faceHead_other_ne {b : Bank} (hb : b.checkLaneHeads b.faces [] = none)
    {k : Fin 4} (h : b.tidal k = true) : b.faceHead k .asc ≠ b.faceHead k .desc := by
  intro he
  have h1 := Bank.servedFace_faceHead hb (Bank.facePresent_tidal h .asc)
  have h2 := Bank.servedFace_faceHead hb (Bank.facePresent_tidal h .desc)
  rw [he, h2] at h1
  cases h1

/-- Under equal HEADS tables the faces of a TIDAL lane were those of a TIDAL lane before. -/
theorem Bank.tidal_of_heads {a b : Bank} (ha : a.checkLaneHeads a.faces [] = none)
    (hb : b.checkLaneHeads b.faces [] = none)
    (hh : a.heads = b.heads) {k : Fin 4} (h : b.tidal k = true) :
    a.tidal k = true ∧ ∀ f, a.faceHead k f = b.faceHead k f := by
  obtain ⟨-, a2⟩ := a.checkLaneHeads_none _ _ ha
  obtain ⟨a1, -⟩ := a.checkLaneHeads_none _ _ ha
  obtain ⟨b1, -⟩ := b.checkLaneHeads_none _ _ hb
  have er : ∀ i, a.row .heads i = b.row .heads i := fun i => by unfold Bank.row Bank.rows; rw [hh]
  have e1 : ∀ i, a.headExists i = b.headExists i := fun i => by unfold Bank.headExists; rw [er]
  have e2 : ∀ i, a.headLane i = b.headLane i := fun i => by unfold Bank.headLane; rw [er]
  have e3 : ∀ i, a.headFace i = b.headFace i := fun i => by unfold Bank.headFace; rw [er]
  have key : ∀ f, a.facePresent k f = true ∧ a.faceHead k f = b.faceHead k f := by
    intro f
    have hm := (b.mem_faces k f).2 (Bank.facePresent_tidal h f)
    obtain ⟨x1, x2, x3⟩ := b1 _ hm
    simp only at x1 x2 x3
    rw [← e1] at x1
    rcases a2 _ x1 with hn | ⟨⟨k', f'⟩, hk, he⟩
    · cases hn
    · obtain ⟨y1, y2, y3⟩ := a1 _ hk
      simp only at he y1 y2 y3
      rw [he, e2, x2] at y2
      rw [he, e3, x3] at y3
      subst y2; subst y3
      exact ⟨(a.mem_faces _ _).1 hk, he⟩
  exact ⟨Bank.tidal_of_both (key .asc).1 (key .desc).1, fun f => (key f).2⟩

/-! ## Opposed faces through the sequencer -/

/-- Displayed aspects that stand keep it. -/
theorem Gantry.facesOpposed_of {g g' : Gantry} {b : Bank}
    (h : ∀ i : Fin 8, g'.heads[i].displayed = g.heads[i].displayed)
    (hg : g.facesOpposed b) : g'.facesOpposed b := by
  intro k hk
  rw [h, h]
  exact hg k hk

/-- One head's displayed aspect changed. -/
theorem Gantry.facesOpposed_set {g g' : Gantry} {b : Bank}
    (hb : b.checkLaneHeads b.faces [] = none) (h : Fin 8)
    (ho : ∀ i : Fin 8, i ≠ h → g'.heads[i].displayed = g.heads[i].displayed)
    (hh : g'.heads[h].displayed.permissive = true →
      ∀ o, b.oppositeHead h = some o → g.heads[o].displayed.permissive = false)
    (hg : g.facesOpposed b) : g'.facesOpposed b := by
  intro k hk ⟨h1, h2⟩
  have hne := Bank.faceHead_other_ne hb hk
  have sa := Bank.servedFace_faceHead hb (Bank.facePresent_tidal hk .asc)
  have sd := Bank.servedFace_faceHead hb (Bank.facePresent_tidal hk .desc)
  have oa : b.oppositeHead (b.faceHead k .asc) = some (b.faceHead k .desc) := by
    unfold Bank.oppositeHead
    rw [sa]
    simp [hk, Face.other]
  have od : b.oppositeHead (b.faceHead k .desc) = some (b.faceHead k .asc) := by
    unfold Bank.oppositeHead
    rw [sd]
    simp [hk, Face.other]
  by_cases ha : b.faceHead k .asc = h
  · have hd : b.faceHead k .desc ≠ h := fun hx => hne (ha.trans hx.symm)
    subst ha
    rw [ho _ hd] at h2
    have := hh h1 _ oa
    rw [h2] at this
    cases this
  · by_cases hd : b.faceHead k .desc = h
    · subst hd
      rw [ho _ ha] at h1
      have := hh h2 _ od
      rw [h1] at this
      cases this
    · rw [ho _ ha] at h1
      rw [ho _ hd] at h2
      exact hg k hk ⟨h1, h2⟩

/-- A head that shows a permissive aspect has an opposite that does not. -/
theorem Gantry.facesOpposed_opposite {g : Gantry} {b : Bank} (hg : g.facesOpposed b) {h o : Fin 8}
    (ho : b.oppositeHead h = some o) (hp : g.heads[h].displayed.permissive = true) :
    g.heads[o].displayed.permissive = false := by
  unfold Bank.oppositeHead at ho
  split at ho
  · rename_i k f hs
    split at ho
    · rename_i hk
      cases ho
      have hx : b.faceHead k f = h := by
        have := List.find?_some hs
        simpa using this
      have := hg k hk
      cases f
      · subst hx
        simp only [Face.other]
        cases hq : g.heads[b.faceHead k .desc].displayed.permissive
        · rfl
        · exact absurd ⟨hp, hq⟩ this
      · subst hx
        simp only [Face.other]
        cases hq : g.heads[b.faceHead k .asc].displayed.permissive
        · rfl
        · exact absurd ⟨hq, hp⟩ this
    · cases ho
  · cases ho

theorem Env.change_displayed (e : Env) (h : Fin 8) (a : Aspect) (st : Stage) (g : Gantry) (i : Fin 8) :
    (e.change h a st g).heads[i].displayed = if i = h then a else g.heads[i].displayed := by
  unfold Env.change
  rw [(Gantry.relight_heads _ _ _ _ _ i).displayed]
  simp only [Fin.getElem_fin, Vector.getElem_set]
  by_cases hi : i = h
  · subst hi
    simp [Head.showing]
  · rw [if_neg (fun hx => hi (Fin.ext hx.symm)), if_neg hi]

theorem Env.change_stage (e : Env) (h : Fin 8) (a : Aspect) (st : Stage) (g : Gantry) (i : Fin 8) :
    (e.change h a st g).heads[i].stage = if i = h then some st else g.heads[i].stage := by
  unfold Env.change
  rw [(Gantry.relight_heads _ _ _ _ _ i).stage]
  simp only [Fin.getElem_fin, Vector.getElem_set]
  by_cases hi : i = h
  · subst hi
    simp [Head.showing]
  · rw [if_neg (fun hx => hi (Fin.ext hx.symm)), if_neg hi]

theorem Env.change_test (e : Env) (h : Fin 8) (a : Aspect) (st : Stage) (g : Gantry) (i : Fin 8) :
    (e.change h a st g).heads[i].test = g.heads[i].test := by
  unfold Env.change
  rw [(Gantry.relight_heads _ _ _ _ _ i).test]
  simp only [Fin.getElem_fin, Vector.getElem_set]
  by_cases hi : i = h
  · subst hi
    simp [Head.showing]
  · rw [if_neg (fun hx => hi (Fin.ext hx.symm))]

/-- The opposite face shows CLOSED when the conditions of an opening path from CLOSED hold. -/
theorem Env.opposite_closed {e : Env} {h o : Fin 8} {t : Aspect} {g : Gantry}
    (hc : e.openingHolds h t g = true) (hd : g.heads[h].displayed = .closed)
    (ho : e.bank.oppositeHead h = some o) : g.heads[o].displayed = .closed := by
  unfold Env.openingHolds at hc
  rw [hd] at hc
  simp only [bne_self_eq_false, Bool.false_or, Bool.and_eq_true] at hc
  have hg := hc.1
  unfold Env.guardHolds at hg
  unfold Bank.oppositeHead at ho
  split at ho
  · rename_i k f hs
    rw [hs] at hg
    simp only at hg
    split at ho
    · rename_i hk
      cases ho
      rw [if_pos hk] at hg
      simp only [Bool.and_eq_true, beq_iff_eq] at hg
      exact hg.1.1
    · cases ho
  · cases ho

/-- What the sequencer keeps in the serving modes: R88, heads that fit. -/
theorem Env.opposed_walks (e : Env) (hb : e.bank.checkLaneHeads e.bank.faces [] = none)
    (hm : e.mode.serving = true) :
    e.Walks fun g => (∀ h : Fin 8, g.heads[h].fits e.mode) ∧ g.facesOpposed e.bank := by
  have hno : e.mode ≠ .outOfService := by
    intro h
    rw [h] at hm
    cases hm
  have fit : ∀ hd : Head, (hd.displayed = .dark → hd.stage = none ∨ hd.stage = some .steady) →
      hd.test = none → hd.fits e.mode :=
    fun hd h1 h2 => ⟨h1, fun h => absurd (hm.symm.trans h) Bool.noConfusion, fun _ => h2⟩
  have change_fits : ∀ h a st g, (∀ i : Fin 8, g.heads[i].fits e.mode) →
      (a = .dark → st = .steady) → ∀ i : Fin 8, (e.change h a st g).heads[i].fits e.mode := by
    intro h a st g hg ha i
    refine fit _ ?_ ?_
    · rw [e.change_displayed, e.change_stage]
      by_cases hi : i = h
      · rw [if_pos hi, if_pos hi]
        intro hx
        exact .inr (by rw [ha hx])
      · rw [if_neg hi, if_neg hi]
        exact (hg i).1
    · rw [e.change_test]
      exact (hg i).2.2 hno
  have change_opposed : ∀ h a st g, g.facesOpposed e.bank →
      (a.permissive = true → ∀ o, e.bank.oppositeHead h = some o →
        g.heads[o].displayed.permissive = false) →
      (e.change h a st g).facesOpposed e.bank := by
    intro h a st g hg ha
    refine Gantry.facesOpposed_set hb h (fun i hi => ?_) ?_ hg
    · rw [e.change_displayed, if_neg hi]
    rw [e.change_displayed, if_pos rfl]
    exact ha
  have set_fits : ∀ (h : Fin 8) (hd : Head) (g : Gantry),
      (∀ i : Fin 8, g.heads[i].fits e.mode) → hd.fits e.mode →
      ∀ i : Fin 8, (g.heads.set h hd)[i].fits e.mode := by
    intro h hd g hg hh i
    simp only [Fin.getElem_fin, Vector.getElem_set]
    split
    · exact hh
    · exact hg i
  have set_opposed : ∀ (h : Fin 8) (hd : Head) (g : Gantry),
      hd.displayed = g.heads[h].displayed → g.facesOpposed e.bank →
      ({ g with heads := g.heads.set h hd } : Gantry).facesOpposed e.bank := by
    intro h hd g hh hg
    refine Gantry.facesOpposed_of (fun i => ?_) hg
    simp only [Fin.getElem_fin, Vector.getElem_set]
    split
    · rename_i hi
      have : i = h := Fin.ext hi.symm
      subst this
      exact hh
    · rfl
  refine ⟨?_, ?_, ?_, ?_, ?_, ?_, ?_⟩
  · intro h g hg
    exact ⟨change_fits _ _ _ _ hg.1 nofun, change_opposed _ _ _ _ hg.2 nofun⟩
  · intro h a st g hp ha _ hg
    exact ⟨change_fits _ _ _ _ hg.1 fun hd => by simp [hd, Aspect.merge] at ha,
      change_opposed _ _ _ _ hg.2 (fun _ o ho => Gantry.facesOpposed_opposite hg.2 ho hp)⟩
  · intro h t g ht hs hc hg
    refine ⟨change_fits _ _ _ _ hg.1 (fun _ => rfl),
      change_opposed _ _ _ _ hg.2 (fun _ o ho => ?_)⟩
    have hnd : g.heads[h].displayed ≠ .dark := by
      rcases hs with hs | hs
      · exact hs
      · intro hd
        rcases (hg.1 h).1 hd with hx | hx
        · exact nomatch hs.symm.trans hx
        · exact nomatch hs.symm.trans hx
    by_cases hcl : g.heads[h].displayed = .closed
    · rw [Env.opposite_closed hc hcl ho]
      rfl
    · refine Gantry.facesOpposed_opposite hg.2 ho ?_
      revert hnd hcl
      cases g.heads[h].displayed <;> simp [Aspect.permissive]
  · intro h st g hs hg
    refine ⟨set_fits h _ g hg.1 (fit _ ?_ ((hg.1 h).2.2 hno)), set_opposed h _ g rfl hg.2⟩
    intro hd
    rcases hs with hs | hs
    · exact absurd hd hs
    · right
      simp only
      rw [hs]
  · intro h st g hs hg
    refine ⟨set_fits h _ g hg.1 (fit _ ?_ ((hg.1 h).2.2 hno)), set_opposed h _ g rfl hg.2⟩
    intro hd
    rcases hs with hs | hs
    · exact absurd hd hs
    · rcases (hg.1 h).1 hd with hx | hx
      · exact nomatch hs.symm.trans hx
      · exact nomatch hs.symm.trans hx
  · intro h t g hg
    exact ⟨set_fits h _ g hg.1 (fit _ (hg.1 h).1 ((hg.1 h).2.2 hno)),
      set_opposed h _ g rfl hg.2⟩
  · intro k g _ hg
    exact hg

/-! ## The clearance of a lane through the sequencer (R89) -/

/-- Lanes and displayed aspects that stand keep it. -/
theorem Gantry.clearsSound_of {g g' : Gantry} {b : Bank} {m : Mode} (hl : g'.lanes = g.lanes)
    (hd : ∀ i : Fin 8, g'.heads[i].displayed = g.heads[i].displayed) (hg : g.clearsSound b m) :
    g'.clearsSound b m := by
  unfold Gantry.clearsSound at *
  simp only [hl, hd]
  exact hg

theorem Env.change_lanes (e : Env) (h : Fin 8) (a : Aspect) (st : Stage) (g : Gantry) :
    (e.change h a st g).lanes = e.lanesAfter h a g := by
  unfold Env.change
  rw [Gantry.relight_lanes]

theorem Bank.faceHead_of_served {b : Bank} {h : Fin 8} {k : Fin 4} {f : Face}
    (hs : b.servedFace h = some (k, f)) : b.faceHead k f = h := by
  simpa using List.find?_some hs

theorem lanes_set_get (v : Vector Lane 4) (i : Fin 4) (x : Lane) (k : Fin 4) :
    (v.set i x)[k] = if k = i then x else v[k] := by
  simp only [Fin.getElem_fin, Vector.getElem_set]
  by_cases h : k = i
  · rw [if_pos h, if_pos (congrArg Fin.val h.symm)]
  · rw [if_neg h, if_neg fun hx => h (Fin.ext hx.symm)]

/-- A change of a head that serves no face of a lane leaves the lane. -/
theorem Env.lanesAfter_other (e : Env) (h : Fin 8) (a : Aspect) (g : Gantry) (k : Fin 4)
    (hk : ∀ f, e.bank.faceHead k f ≠ h) : (e.lanesAfter h a g)[k] = g.lanes[k] := by
  unfold Env.lanesAfter
  split
  · rfl
  · rename_i j f hs
    have hj : k ≠ j := fun hx => hk f (by rw [hx]; exact Bank.faceHead_of_served hs)
    repeat' split
    all_goals first | rfl | rw [lanes_set_get, if_neg hj]

/-- A change of a head that serves a face of a TIDAL lane, at that lane (R89). -/
theorem Env.lanesAfter_served (e : Env) (h : Fin 8) (a : Aspect) (g : Gantry) {k : Fin 4} {f : Face}
    (hs : e.bank.servedFace h = some (k, f)) (hk : e.bank.tidal k = true) :
    (e.lanesAfter h a g)[k] =
      if g.heads[h].displayed = .closed ∧ a ≠ .closed then
        { g.lanes[k] with clearSince := none, clearCount := 0, clear := false }
      else if g.heads[h].displayed ≠ .closed ∧ a = .closed
          ∧ g.heads[e.bank.faceHead k f.other].displayed = .closed then
        { g.lanes[k] with clearSince := some e.now, clearCount := 0, clear := false }
      else g.lanes[k] := by
  unfold Env.lanesAfter
  rw [hs]
  dsimp only
  repeat' split
  all_goals first | rfl | (rw [lanes_set_get, if_pos rfl])

/-- A change of a displayed aspect keeps the clearances. -/
theorem Env.change_clearsSound (e : Env) (hb : e.bank.checkLaneHeads e.bank.faces [] = none)
    (hm : e.mode.serving = true) (h : Fin 8) (a : Aspect) (st : Stage) (g : Gantry)
    (hg : g.clearsSound e.bank e.mode) : (e.change h a st g).clearsSound e.bank e.mode := by
  refine ⟨fun _ k hk => ?_, fun hx => absurd (hm.symm.trans hx) Bool.noConfusion⟩
  obtain ⟨g1, g2⟩ := hg.1 hm k hk
  rw [e.change_lanes]
  simp only [e.change_displayed]
  by_cases hs : ∀ f, e.bank.faceHead k f ≠ h
  · rw [e.lanesAfter_other h a g k hs]
    simp only [hs, if_false]
    exact ⟨g1, g2⟩
  · simp only [not_forall, not_not] at hs
    obtain ⟨f, rfl⟩ := hs
    have ho : e.bank.faceHead k f.other ≠ e.bank.faceHead k f := by
      have := Bank.faceHead_other_ne hb hk
      cases f
      · exact this.symm
      · exact this
    have all : ∀ p : Face → Prop, (∀ x, p x) ↔ p f ∧ p f.other := by
      intro p
      cases f
      · exact ⟨fun x => ⟨x _, x _⟩, fun x y => by cases y; exacts [x.1, x.2]⟩
      · exact ⟨fun x => ⟨x _, x _⟩, fun x y => by cases y; exacts [x.2, x.1]⟩
    rw [all] at g1
    rw [all, if_pos rfl, if_neg ho]
    rw [e.lanesAfter_served _ a g (Bank.servedFace_faceHead hb (Bank.facePresent_tidal hk f)) hk]
    by_cases hw : g.heads[e.bank.faceHead k f].displayed = .closed <;> by_cases ha : a = .closed
    · simp only [hw, ha, not_true_eq_false, and_false, false_and, if_false, ne_eq] at g1 ⊢
      exact ⟨g1, g2⟩
    · rw [if_pos ⟨hw, ha⟩]
      simp [ha]
    · by_cases hx : g.heads[e.bank.faceHead k f.other].displayed = .closed
      · rw [if_neg (fun y => hw y.1), if_pos ⟨hw, ha, hx⟩]
        exact ⟨⟨fun _ => ⟨ha, hx⟩, fun _ => nofun⟩, nofun⟩
      · rw [if_neg (fun y => hw y.1), if_neg (fun y => hx y.2.2)]
        exact ⟨g1.trans ⟨fun y => absurd y.1 hw, fun y => absurd y.2 hx⟩, g2⟩
    · rw [if_neg (fun y => hw y.1), if_neg (fun y => ha y.2.1)]
      exact ⟨g1.trans ⟨fun y => absurd y.1 hw, fun y => absurd y.1 ha⟩, g2⟩

/-- What the sequencer keeps in the serving modes: R89. -/
theorem Env.clears_walks (e : Env) (hb : e.bank.checkLaneHeads e.bank.faces [] = none)
    (hm : e.mode.serving = true) : e.Walks fun g => g.clearsSound e.bank e.mode := by
  have set : ∀ (h : Fin 8) (hd : Head) (g : Gantry), hd.displayed = g.heads[h].displayed →
      g.clearsSound e.bank e.mode →
      ({ g with heads := g.heads.set h hd } : Gantry).clearsSound e.bank e.mode := by
    intro h hd g hh hg
    refine Gantry.clearsSound_of (g := g) rfl (fun i => ?_) hg
    simp only [Fin.getElem_fin, Vector.getElem_set]
    split
    · rename_i hi
      have : i = h := Fin.ext hi.symm
      subst this
      exact hh
    · rfl
  refine ⟨?_, ?_, ?_, ?_, ?_, ?_, ?_⟩
  · exact fun h g hg => e.change_clearsSound hb hm _ _ _ g hg
  · exact fun h a st g _ _ _ hg => e.change_clearsSound hb hm _ _ _ g hg
  · exact fun h t g _ _ _ hg => e.change_clearsSound hb hm _ _ _ g hg
  · exact fun h st g _ hg => set h _ g rfl hg
  · exact fun h st g _ hg => set h _ g rfl hg
  · exact fun h t g hg => set h _ g rfl hg
  · intro k g hc hg
    refine ⟨fun _ j hj => ?_, fun hx => absurd (hm.symm.trans hx) Bool.noConfusion⟩
    obtain ⟨g1, g2⟩ := hg.1 hm j hj
    simp only [lanes_set_get]
    by_cases hjk : j = k
    · subst hjk
      simp only [Env.clearanceDue, Bool.and_eq_true, decide_eq_true_eq, Option.isSome_iff_ne_none] at hc
      simp only [if_true]
      exact ⟨g1, fun _ => ⟨hc.1.1.2, hc.2⟩⟩
    · simp only [hjk, if_false]
      exact ⟨g1, g2⟩

end Sys2Proof.Machine
end

