-- ==== Sys2Proof/Laws/Orders.lean ====
section
/-! SUPPORT. What the frame end of an ORDER can do: answered, refused, acted on without a reply, or
forwarded only. -/

namespace Sys2Proof.Machine

/-- An absorbed ORDER is answered on the node it is received by. -/
theorem orderEnd_addressed {code : Byte} {o : Order} {answer : State → Answer}
    {group : State → State} {s : State} (h : s.Addressed o) :
    orderEnd code o answer group s = (answer (s.received o)).reply code o := by
  obtain ⟨hw, f, hf, hr, hd, hs⟩ := h
  unfold orderEnd
  have e := State.Receives.frameEnd (frame := withFcs (o.frame code)) hf (headerOf_order hw code _)
  simp only [e]
  simp [hr, hd, hs, State.readKey, State.onLine, LinePort.closeFrame, State.received]

/-- A group or broadcast ORDER is acted on, on the node that has passed it on. -/
theorem orderEnd_overheard {code : Byte} {o : Order} {answer : State → Answer}
    {group : State → State} {s : State} {f : RxFrame} (h : s.Overhears o f) :
    orderEnd code o answer group s = group (s.overheard code o f) := by
  obtain ⟨hw, hf, hr, hd, hg⟩ := h
  have hg' : ((s.readKey o.key).onLine
      fun l => l.closeFrame f (withFcs (o.frame code)) true).hearsGroup o.dest = true := hg
  unfold orderEnd
  have e := State.Receives.frameEnd (frame := withFcs (o.frame code)) hf (headerOf_order hw code _)
  simp only [e]
  simp only [if_neg hr, hd, hg', Bool.not_false, Bool.and_self, if_true]
  rfl

theorem State.Addressed.works {s : State} {o : Order} (h : s.Addressed o) : s.works = true := by
  obtain ⟨-, f, hf, -⟩ := h
  exact hf.works

theorem Answer.reply_eq (a : Answer) (code : Byte) (o : Order) :
    a.reply code o = a.state.replied code o a.status a.content := rfl

/-- An addressed order of the catalogue that passes checks 2 to 5 is carried out. -/
theorem OrderSpec.run_addressed (q : OrderSpec) {o : Order} {s : State} (h : s.Addressed o)
    (hc : q.check o (s.received o) = none) :
    q.run o s = .next ((q.act o (s.received o)).state.replied q.code o
      (q.act o (s.received o)).status (q.act o (s.received o)).content) := by
  unfold OrderSpec.run
  rw [live_works h.works, orderEnd_addressed h, Answer.reply_eq]
  simp [OrderSpec.answer, hc]

/-- An addressed order of the catalogue that fails one of checks 2 to 5 is refused. -/
theorem OrderSpec.run_refused (q : OrderSpec) {o : Order} {s : State} {st : Status}
    (h : s.Addressed o) (hc : q.check o (s.received o) = some st) :
    q.run o s = .next ((s.received o).replied q.code o st []) := by
  unfold OrderSpec.run
  rw [live_works h.works, orderEnd_addressed h, Answer.reply_eq]
  simp [OrderSpec.answer, hc, Answer.refuse]

/-- A group or broadcast order of the catalogue. -/
theorem OrderSpec.run_overheard (q : OrderSpec) {o : Order} {s : State} {f : RxFrame}
    (h : s.Overhears o f) : q.run o s = .next (q.answerGroup o (s.overheard q.code o f)) := by
  unfold OrderSpec.run
  rw [live_works h.2.1.works, orderEnd_overheard h]

/-- Checks 2 to 5 pass when each of their conditions does. -/
theorem OrderSpec.check_none (q : OrderSpec) {o : Order} {s : State} (hl : q.lengthOk o.body = true)
    (ha : q.commission o.body = false ∨ (o.authority = 1#8 ∧ o.key = true))
    (hm : q.modeOk s = true) (hb : q.busyChecked = false ∨ s.store.validating = false) :
    q.check o s = none := by
  unfold OrderSpec.check
  have h1 : (q.commission o.body && !commissionHonoured o) = false := by
    rcases ha with ha | ⟨ha, hk⟩
    · simp [ha]
    · simp [commissionHonoured, ha, hk]
  have h2 : (q.busyChecked && s.store.validating) = false := by
    rcases hb with hb | hb <;> simp [hb]
  simp [hl, h1, hm, h2]

end Sys2Proof.Machine
end

