-- ==== Sys2Proof/Laws/Takes.lean ====
section
/-! SUPPORT. What the entries of one due test come to, and where no entry is left due. -/

namespace Sys2Proof.Machine

/-! ## The firings of one due test (R79, log 14) -/

/-- The entry fires as a take: its plan is defined, and the node is IN_SERVICE or has the stream. -/
def State.entryTakes (s : State) (e : ScheduleEntry) : Bool :=
  s.store.active.planDefined e.plan && (s.node.mode == .inService || s.watchdog.stream)

/-- The event queue after the posts of some firings, FALLBACK_LEFT apart. -/
def State.entryPosts (s : State) (es : List ScheduleEntry) (q : EventUnit) : EventUnit :=
  es.foldl (fun q e => q.post
    ⟨if s.entryTakes e then .taken e.plan else .scheduledTakeFailed e.plan, 0, 0, s.take.clock⟩) q

/-- IN_SERVICE: every entry posts, and the last take made gives the current plan. -/
theorem fireEntries_inService (l : List ScheduleEntry) : ∀ (s : State) (o : Option Nat),
    s.node.mode = .inService →
    ∃ plan, (l.foldl fireEntry (s, o)).1 = { s with
        events := s.entryPosts l s.events, take := { s.take with currentPlan := plan } }
      ∧ ((∀ e ∈ l, s.entryTakes e = false) →
          plan = s.take.currentPlan ∧ (l.foldl fireEntry (s, o)).2 = o)
      ∧ ∀ before e after, l = before ++ e :: after → s.entryTakes e = true →
          (∀ x ∈ after, s.entryTakes x = false) →
          plan = e.plan ∧ (l.foldl fireEntry (s, o)).2 = some e.plan := by
  induction l with
  | nil =>
    intro s o _
    exact ⟨s.take.currentPlan, rfl, fun _ => ⟨rfl, rfl⟩, fun before e after h => by simp at h⟩
  | cons a l ih =>
    intro s o h
    rw [List.foldl_cons]
    by_cases ht : s.entryTakes a = true
    · have hp : s.store.active.planDefined a.plan = true := by
        simp only [State.entryTakes, Bool.and_eq_true] at ht
        exact ht.1
      let u : State := { s with
        events := s.events.post ⟨.taken a.plan, 0, 0, s.take.clock⟩
        take := { s.take with currentPlan := a.plan } }
      have hf : fireEntry (s, o) a = (u, some a.plan) := by
        simp [fireEntry, hp, h, State.takeRecord, State.post, State.postDetail, u]
      have tk : ∀ x, u.entryTakes x = s.entryTakes x := fun _ => rfl
      rw [hf]
      obtain ⟨plan, h1, h2, h3⟩ := ih u (some a.plan) h
      refine ⟨plan, ?_, fun hn => ?_, fun before e after hl he ha => ?_⟩
      · rw [h1]
        simp only [State.entryPosts, tk, List.foldl_cons, ht, if_true]
        rfl
      · rw [hn a (by simp)] at ht
        cases ht
      · rcases before with _ | ⟨b, before⟩
        · simp only [List.nil_append, List.cons.injEq] at hl
          obtain ⟨rfl, rfl⟩ := hl
          exact h2 fun x hx => ha x hx
        · simp only [List.cons_append, List.cons.injEq] at hl
          exact h3 before e after hl.2 he ha
    · simp only [Bool.not_eq_true] at ht
      have hp : s.store.active.planDefined a.plan = false := by
        simpa [State.entryTakes, h] using ht
      let u : State := { s with
        events := s.events.post ⟨.scheduledTakeFailed a.plan, 0, 0, s.take.clock⟩ }
      have hf : fireEntry (s, o) a = (u, o) := by
        simp [fireEntry, hp, State.post, State.postDetail, u]
      have tk : ∀ x, u.entryTakes x = s.entryTakes x := fun _ => rfl
      rw [hf]
      obtain ⟨plan, h1, h2, h3⟩ := ih u o h
      refine ⟨plan, ?_, fun hn => h2 fun x hx => hn x (List.mem_cons_of_mem _ hx),
        fun before e after hl he ha => ?_⟩
      · rw [h1]
        simp only [State.entryPosts, tk, List.foldl_cons, ht]
        rfl
      · rcases before with _ | ⟨b, before⟩
        · simp only [List.nil_append, List.cons.injEq] at hl
          obtain ⟨rfl, rfl⟩ := hl
          rw [he] at ht
          cases ht
        · simp only [List.cons_append, List.cons.injEq] at hl
          exact h3 before e after hl.2 he ha

/-- FALLBACK, no entry a take: every entry posts, and nothing else changes. -/
theorem fireEntries_fallback_none (l : List ScheduleEntry) : ∀ (s : State) (o : Option Nat),
    s.node.mode = .fallback → (∀ e ∈ l, s.entryTakes e = false) →
    l.foldl fireEntry (s, o) = ({ s with events := s.entryPosts l s.events }, o) := by
  induction l with
  | nil => intros; rfl
  | cons a l ih =>
    intro s o h hn
    rw [List.foldl_cons]
    have ht := hn a (by simp)
    let u : State := { s with
      events := s.events.post ⟨.scheduledTakeFailed a.plan, 0, 0, s.take.clock⟩ }
    have hf : fireEntry (s, o) a = (u, o) := by
      cases hp : s.store.active.planDefined a.plan
      · simp [fireEntry, hp, State.post, State.postDetail, u]
      · have : s.watchdog.stream = false := by simpa [State.entryTakes, h, hp] using ht
        simp [fireEntry, hp, State.post, State.postDetail, h, this, u]
    have tk : ∀ x, u.entryTakes x = s.entryTakes x := fun _ => rfl
    rw [hf, ih u o h fun e he => hn e (List.mem_cons_of_mem _ he)]
    simp only [State.entryPosts, tk, List.foldl_cons, ht]
    rfl

/-- FALLBACK, the first take: it returns the node to IN_SERVICE, where the rest fire. -/
theorem fireEntries_fallback_some {before after : List ScheduleEntry} {e : ScheduleEntry} {s : State}
    (o : Option Nat) (h : s.node.mode = .fallback) (he : s.entryTakes e = true)
    (hb : ∀ x ∈ before, s.entryTakes x = false) :
    (before ++ e :: after).foldl fireEntry (s, o) = after.foldl fireEntry
      ({ s with
        events := (s.entryPosts (before ++ [e]) s.events).post ⟨.fallbackLeft, 0, 0, s.take.clock⟩
        take := { s.take with currentPlan := e.plan }
        node := { s.node with mode := .inService }
        watchdog := { s.watchdog with start := some s.now } }, some e.plan) := by
  rw [List.foldl_append, fireEntries_fallback_none before s o h hb, List.foldl_cons]
  congr 1
  have hp : s.store.active.planDefined e.plan = true ∧ s.watchdog.stream = true := by
    simpa [State.entryTakes, h] using he
  simp [fireEntry, hp.1, hp.2, h, State.takeRecord, State.post, State.postDetail, State.entryPosts, he]

/-! ## No entry is left due (R80) -/

theorem State.noneDue_of_eq {s t : State} (h : s.noneDue) (hc : t.take.clock = s.take.clock)
    (hs : t.take.schedule = s.take.schedule) : t.noneDue := by
  unfold State.noneDue
  rw [hc, hs]
  exact h

theorem State.noneDue_of_empty {t : State} (hs : t.take.schedule = []) : t.noneDue := by
  unfold State.noneDue
  rw [hs]
  simp

theorem State.noneDue_powerUp (s : State) (c : Cause) (p : ResetInputs) : (s.powerUp c p).noneDue :=
  State.noneDue_of_empty rfl

theorem State.noneDue_keepRestart (s : State) (p : ResetInputs) : (s.keepRestart p).noneDue := by
  refine State.noneDue_of_empty ?_
  simp [State.keepRestart, State.powerUp]
  rfl

theorem State.noneDue_dueRestart {s : State} (h : s.noneDue) : s.dueRestart.noneDue := by
  unfold State.dueRestart
  split
  · rename_i k _ _
    cases k
    · exact State.noneDue_keepRestart _ _
    · exact State.noneDue_powerUp _ _ _
  · exact h

theorem State.noneDue_syncClock {s : State} (h : s.noneDue) (c : Clock) : (s.syncClock c).noneDue := by
  simp only [State.syncClock]
  split
  · exact h
  · exact State.dueTest_noneDue _

theorem State.noneDue_sweepEvent {s : State} (h : s.noneDue) (f : SweepFrame) :
    (s.sweepEvent f).noneDue := by
  unfold State.sweepEvent
  split
  · exact h
  · refine State.noneDue_syncClock (State.noneDue_of_eq h ?_ ?_) _
    all_goals
      simp only [State.takeLevel, State.dropCapture]
      split <;> rfl

end Sys2Proof.Machine
end

