-- ==== Sys2Proof/Tests/Slice0.lean ====
section
/-! SUPPORT. Tests: the well-formedness checks, figures the manual works out, and for every statement
with hypotheses a state and operands that meet them, clause by clause. -/

namespace Sys2Proof.Tests

set_option Elab.async false

open Sys2Proof.Machine

/-! ## Well-formedness refuses -/

/-- An ORDER to node 12 with this body and authority. -/
def order (body : List Byte) (authority : Byte := 0#8) (key : Bool := false) : Order :=
  ⟨12#8, authority, 7#8, body, key⟩

/-- An ORDER to every node. -/
def broadcast (body : List Byte) : Order := { order body with dest := 255#8 }

/-- A SWEEP with sweep number 1, phase 1, level 3 and `n` slots of zeros. -/
def sweepOf (n : Nat) : SweepFrame := ⟨1#8, 0x07#8, 100#32, List.replicate n (List.replicate 12 0#8)⟩

theorem test_wf_body : (Instr.readNode (order (List.replicate 241 0#8))).wf = false
    ∧ (Instr.readNode (order (List.replicate 240 0#8))).wf = true := by decide +kernel

theorem test_wf_sweep_slots : (Instr.sweep (sweepOf 0)).wf = false
    ∧ (Instr.sweep (sweepOf 201)).wf = false ∧ (Instr.sweep (sweepOf 200)).wf = true := by
  decide +kernel

theorem test_wf_sweep_slot_length :
    (Instr.sweep { sweepOf 1 with slots := [List.replicate 11 0#8] }).wf = false := by decide

theorem test_wf_reply_body : (Instr.replyFrame ⟨1#8, 0#8, 0#8, 1#8, List.replicate 3 0#8⟩).wf = false
    ∧ (Instr.replyFrame ⟨1#8, 0#8, 0#8, 1#8, List.replicate 245 0#8⟩).wf = false
    ∧ (Instr.replyFrame ⟨1#8, 0#8, 0#8, 1#8, List.replicate 244 0#8⟩).wf = true := by decide +kernel

theorem test_wf_bad_frame_length : (Instr.badFcsFrameEnd (List.replicate 4 0#8)).wf = false
    ∧ (Instr.badFcsFrameEnd (List.replicate 5 0#8)).wf = true := by decide +kernel

theorem test_wf_long_frame {frame : List Byte} (h : 2410 < frame.length) :
    (Instr.badFcsFrameEnd frame).wf = false := by
  simp only [Instr.wf, Bool.and_eq_false_iff, decide_eq_false_iff_not, Nat.not_le]
  exact Or.inr h

theorem test_wf_slot_count : (Instr.ownSlotWrite 0#8).wf = false
    ∧ (Instr.ownSlotWrite 201#8).wf = false ∧ (Instr.ownSlotWrite 200#8).wf = true := by decide

theorem test_wf_stale_address : (Instr.staleExpiry 0#8 1).wf = false
    ∧ (Instr.staleExpiry 201#8 1).wf = false ∧ (Instr.staleExpiry 200#8 1).wf = true := by decide

theorem test_wf_sample : (Instr.sampleEvent (List.replicate 31 0)).wf = false
    ∧ (Instr.sampleEvent (List.replicate 32 4096)).wf = false
    ∧ (Instr.sampleEvent (List.replicate 32 4095)).wf = true := by decide +kernel

/-! ## The manual's figures -/

theorem test_fcs_figure :
    crc [0x31#8, 0x32#8, 0x33#8, 0x34#8, 0x35#8, 0x36#8, 0x37#8, 0x38#8, 0x39#8] = 0x29B1#16 := by
  decide +kernel

/-- The healthy, open, drift and clamp rows of chapter 10. -/
theorem test_ratio_figures : ratio 3290 3358 = 1003 ∧ deviation 1003 1024 = 21
    ∧ trackReference 1024 1003 = 1023 ∧ ratio 1650 3358 = 503 ∧ deviation 503 1023 = 520
    ∧ ratio 3080 3358 = 939 ∧ deviation 939 1023 = 84 ∧ ratio 4095 64 = 2047 := by decide

/-- Chapter 9: level 6 full and derated, the interrupted ramp's level 5, and the two clamps. -/
theorem test_drive_figures : driveCode ((750 * 4095 + 500) / 1000) 36045 (-20) = 3358
    ∧ driveCode 2048 36045 (-20) = 2232 ∧ driveCode 2457 36045 (-20) = 2682
    ∧ driveCode 4095 65535 255 = 4095 ∧ driveCode 205 16384 (-256) = 0 := by decide

/-! ## A small gantry

Lane 0 is TIDAL with heads 0 and 1; lane 1 is ASC_ONLY with head 2, which looks at heads 5 of nodes 11
and 13. Each head has OPEN, MERGE_L and CLOSED with an alternate for CLOSED. -/

/-- A HEADS record with four channels from `c` on. -/
def headRecord (lane face c : Nat) : List Byte :=
  [1#8, byteOf lane, byteOf face, 2#8]
    ++ [byteOf (0xC0 + c), 0#8, 0#8, 0#8, 0#8, 0#8, 0#8, 0#8]
    ++ [byteOf (0xC0 + c + 1), 0#8, 0#8, 0#8, 0#8, 0#8, 0#8, 0#8]
    ++ List.replicate 8 0#8
    ++ [byteOf (0xC0 + c + 2), 0#8, 0#8, 0#8, byteOf (0xC0 + c + 3), 0#8, 0#8, 0#8]

/-- Plan 1 opens ASC and closes DESC of lane 0; plan 64 closes everything. -/
def demoPlans : List (List Byte) :=
  (List.replicate 64 (List.replicate 9 0#8)).set 0 [1#8, 1#8, 4#8, 4#8, 0#8, 0#8, 0#8, 0#8, 0#8]
    |>.set 63 [1#8, 4#8, 4#8, 4#8, 0#8, 0#8, 0#8, 0#8, 0#8]

/-- The small gantry's bank, with this fallback policy. -/
def bankOf (policy : Byte) : Bank := { Bank.reset with
  node := [[224#8, 0#8, 0#8, 0#8, 0#8, 8#8, 0#8, 64#8, 2#8]]
  lanes := [[3#8, 0#8, 0#8, 0#8, 0#8, 0#8, 1#8, 0#8, 0#8, 0#8, 0#8],
    [1#8, 2#8, 11#8, 5#8, 13#8, 5#8, 0#8, 0#8, 0#8, 0#8, 0#8],
    List.replicate 11 0#8, List.replicate 11 0#8]
  heads := [headRecord 0 0 0, headRecord 0 1 4, headRecord 1 0 8]
    ++ List.replicate 5 (List.replicate 36 0#8)
  plans := demoPlans
  timing := [[0#8, 1#8, 0#8, 10#8, 0#8, 10#8, 0#8, 10#8, 0#8, 10#8, 0#8, 5#8, 5#8, policy, 2#8,
    0#8, 64#8, 1#8]]
  intensity := [(List.replicate 8 [3#8, 232#8]).flatten ++ [0#8, 1#8, 244#8]]
  nodeWritten := true, timingWritten := true, intensityWritten := true }

/-- Node 12 with that bank in mode `m`, every head dark. -/
def node (m : Mode) (policy : Byte := 0#8) : State := { State.reset with
  line := { State.reset.line with address := 12, rx := .idle }
  node := { State.reset.node with mode := m, tablesValid := true }
  store := { State.reset.store with active := bankOf policy, shadow := bankOf policy }
  watchdog := if m.serving then { armed := true, start := some 0, stream := false }
    else State.reset.watchdog }

/-- Head `h` so that it displays and aims as given. -/
def withHead (s : State) (h : Fin 8) (a : Aspect) (t : Option Aspect) (st : Stage) : State :=
  { s with gantry := { s.gantry with
      heads := s.gantry.heads.set h
        { Head.reset with displayed := a, target := t, stage := some st } } }

/-- The node with a frame of this kind in progress. -/
def receiving (s : State) (kind second : Byte) (r : Route) (damaged : Bool := false)
    (re : Bool := true) : State :=
  { s with
    line := { s.line with
      rx := .frame, rxFrame := some ⟨kind, second, r, damaged, true, re⟩, replySlot := none } }

/-- The node with an ORDER in progress that it absorbs. -/
def addressed (s : State) (o : Order) : State := receiving s orderKind o.dest .absorbed

/-- The node with an ORDER in progress that it passes on. -/
def passing (s : State) (o : Order) : State := receiving s orderKind o.dest .through

/-- The frame that `passing` has in progress. -/
def passed (o : Order) : RxFrame := ⟨orderKind, o.dest, .through, false, true, true⟩

theorem receives_receiving {s : State} (h : s.works = true) (kind second : Byte) (r : Route)
    (d : Bool := false) :
    (receiving s kind second r d).Receives kind second ⟨kind, second, r, d, true, true⟩ :=
  ⟨h, rfl, rfl, rfl, rfl⟩

theorem addressed_addressed {s : State} {o : Order} (h : s.works = true) (ho : o.wf = true) :
    (addressed s o).Addressed o :=
  ⟨ho, _, receives_receiving h _ _ _, rfl, rfl, rfl⟩

theorem passing_overhears {s : State} {body : List Byte} (h : s.works = true)
    (hb : (broadcast body).wf = true) :
    (passing s (broadcast body)).Overhears (broadcast body) (passed (broadcast body)) :=
  ⟨hb, receives_receiving h _ _ _, fun hc => (by cases hc), rfl, rfl⟩

/-- The bank of the small gantry passes every check of a commit. -/
theorem test_demo_commits : (node .outOfService).commitFailure = none
    ∧ (node .inService 64#8).commitFailure = none := by decide +kernel

/-- A bank never written fails its first check. -/
theorem test_reset_commit_fails :
    State.reset.commitFailure = some ⟨.nodeUnset, 1, 0⟩ := by decide +kernel

/-! ## What a few commands do -/

/-- The node that a command leaves; the node itself where it stops. -/
def after (c : Instr) (s : State) : State :=
  match exec c s with
  | .next t => t
  | _ => s

/-- STAGE 1 then TAKE: the guard holds nothing yet, so head 0 waits to open. -/
theorem test_take_waits :
    let s := after (.enterService (order []))
      (addressed (node .outOfService) (order []))
    let t := after (.stage (order [1#8])) (addressed s (order [1#8]))
    let u := after (.take (order [])) (addressed t (order []))
    s.gantry.heads[(0 : Fin 8)].displayed = .closed
      ∧ t.take.pendingPlan = some 1 ∧ u.take.currentPlan = 1
      ∧ u.gantry.heads[(0 : Fin 8)].stage = some .openingWait
      ∧ u.gantry.heads[(1 : Fin 8)].stage = some .steady := by decide +kernel

/-- Head 0 waits to open and head 1 stands CLOSED; lane 0 is 10 ms short of its clearance. -/
def clearing : State :=
  let s := withHead (withHead (node .inService) 0 .closed (some .open_) .openingWait) 1 .closed
    (some .closed) .steady
  { s with gantry := { s.gantry with
      lanes := s.gantry.lanes.set 0 { Lane.reset with clearSince := some 0, clearCount := 9990 } } }

/-- Head 2 on its way to CLOSED, 10 ms short of its merge dwell. -/
def merging : State :=
  let s := withHead (node .inService) 2 .mergeL (some .closed) .merging
  let hd := { s.gantry.heads[(2 : Fin 8)] with mergeSince := some 0, mergeServed := 990 }
  { s with gantry := { s.gantry with heads := s.gantry.heads.set 2 hd } }

/-- The clearance completes: head 0 opens, and head 2, at the dwell, waits for its upstream record. -/
theorem test_clearance_opens :
    let t := after (.clearanceCompletion 0) clearing
    t.now = 10 ∧ t.gantry.heads[(0 : Fin 8)].displayed = .open_
      ∧ t.gantry.lanes[(0 : Fin 4)].clear = false := by decide +kernel

theorem test_dwell_waits :
    let t := after (.mergeDwellCompletion 2) merging
    t.now = 10 ∧ t.gantry.heads[(2 : Fin 8)].stage = some .closeWait := by decide +kernel

/-- The watchdog of a silent line: FALLBACK, the opening given up. -/
theorem test_watchdog :
    let s := { withHead (node .inService) 0 .closed (some .open_) .openingWait with now := 450 }
    let t := after .watchdogExpiry s
    t.node.mode = .fallback ∧ t.now = 500 ∧ t.gantry.heads[(0 : Fin 8)].target = some .closed
      ∧ t.alarm 3 = true := by decide +kernel

/-- The first commit: OUT_OF_SERVICE with the small gantry in force, one more event. -/
theorem test_first_commit :
    let s := { State.reset with
      store := { State.reset.store with shadow := bankOf 0#8, validating := true } }
    let t := after .commitCompletion s
    t.node.mode = .outOfService ∧ t.store.active = bankOf 0#8 ∧ t.sweep.records.length = 2
      ∧ t.gantry.channels[(31 : Fin 32)].target = 4095
      ∧ t.events.queue.map Event.kind = [.restarted .powerOn, .commitDone] := by decide +kernel

/-- An ENUMERATE at an unassigned RING node: it takes 5 and sends 6 on. -/
theorem test_enumerate :
    let s := { State.reset with line := { State.reset.line with ring := true } }
    let s := { s with line := { s.line with rx := .idle } }
    let t := after (.enumerate 5#8 0#8) (after (.frameStart enumerateKind 5#8) s)
    t.line.address = 5 ∧ t.line.thru.map (fun x => x.sentBytes)
      = some (withFcs [enumerateKind, 6#8, 0#8]) := by decide +kernel

/-- Two samples with current in both arrows of the TIDAL lane lock the node out. -/
theorem test_conflict_trips :
    let m := (List.replicate 32 0).set 0 900 |>.set 4 900
    let t := after (.sampleEvent m) (after (.sampleEvent m) (node .outOfService))
    t.node.mode = .lockout ∧ t.lamp.power = false ∧ t.alarmPin = true := by decide +kernel

/-- A reply to READ_NODE leaves OUT after the gap, byte for byte an answer of node 12. -/
theorem test_read_node_replies :
    let o := order [0#8]
    let s := after (.frameStart orderKind 12#8) (node .outOfService)
    let t := after .replyLeftOut (after .outGapElapsed (after (.readNode o) s))
    t.line.lastSent.length = 6 + 4 + 19 + 2 ∧ fcsGood t.line.lastSent = true
      ∧ t.line.lastSent.take 5 = [replyKind, 12#8, 0#8, 7#8, 1#8] := by decide +kernel

/-- The watchdog, due before the sample, expires on the way to it. -/
theorem test_due_timers_on_the_way :
    let s := { node .inService with now := 450 }
    let t := after (.sampleEvent []) s
    t.now = 550 ∧ t.node.mode = .fallback ∧ t.watchdog.start = some 500
      ∧ t.events.queue.map Event.stamp = [0#32, 50#32] := by decide +kernel

/-- A slot count of 0 is a malformed header: one line error, DISCARD, nothing more on OUT. -/
theorem test_malformed_header :
    let frame := withFcs ([sweepKind] ++ List.replicate 7 0#8)
    let s := after (.frameStart sweepKind 0#8) (node .inService)
    let t := after (.sweep ⟨0#8, 0#8, 0#32, []⟩) s
    headerOf frame = .unknown ∧ s.line.tx = .passing
      ∧ t.line.rx = .discard ∧ t.line.lineErrors = 1 ∧ t.line.thru = none ∧ t.line.tx = .idle := by
  decide +kernel

/-- A buffered frame leaves after the gap behind a reply, not before it. -/
theorem test_buffered_frame_waits_for_the_gap :
    let x : OutFrame := ⟨orderKind, 1#8, [orderKind, 1#8, 2#8, 3#8, 4#8], true, false, none⟩
    let s := node .inService
    let s := { s with line := { s.line with
      tx := .replying, replySlot := some [1#8], elastic := some x } }
    let t := after .replyLeftOut s
    t.line.tx = .passing ∧ t.outLevel = .mark ∧ after .passThroughLeftOut t = t
      ∧ (after .passThroughLeftOut (after .outGapElapsed t)).line.lastSent = x.sentBytes := by
  decide +kernel

/-- A restart that is due comes before the next command. -/
theorem test_due_restart_comes_first :
    let s := { node .lockout with
      node := { (node .lockout).node with restartPending := some .full, restartDue := true } }
    let t := after .lineBreak s
    t.node.mode = .unconfigured ∧ t.node.restartCause = .restartFull ∧ t.line.rx = .brk := by
  decide +kernel

/-- The lane clears but the waiting head's downstream record does not let it open: the flag is set and
the head waits on (6.13, step 6). -/
theorem test_clearance_waits_on :
    let lane := [3#8, 0#8, 0#8, 0#8, 13#8, 5#8, 1#8, 0#8, 0#8, 0#8, 0#8]
    let bank := clearing.store.active
    let s := { clearing with store := { clearing.store with
      active := { bank with lanes := bank.lanes.set 0 lane } } }
    let u := s.elapse 10
    let cleared := { u.gantry with
      lanes := u.gantry.lanes.set 0 { u.gantry.lanes[(0 : Fin 4)] with clear := true } }
    s.works = true ∧ s.node.hold = false ∧ s.store.active.tidal 0 = true ∧ s.untilNext = 10
      ∧ u.gantry.heads[(1 : Fin 8)].stage = some .steady
      ∧ u.gantry.heads[(0 : Fin 8)].stage = some .openingWait
      ∧ u.gantry.heads[(0 : Fin 8)].target = some .open_
      ∧ u.env.openingHolds 0 .open_ cleared = false
      ∧ (after (.clearanceCompletion 0) s).gantry = cleared := by decide +kernel

/-- The node at address 2, so that a SWEEP of two slots has its own slot at byte 20. -/
def second (m : Mode) : State := { node m with line := { (node m).line with address := 2 } }

/-- A SWEEP that passes without an OWN_SLOT_WRITE leaves with the own slot as of its leaving. -/
theorem test_sweep_leaves_with_its_slot :
    let s := after (.sweep (sweepOf 2)) (after (.frameStart sweepKind 1#8) (second .outOfService))
    let u := after .passThroughLeftOut s
    s.line.thru.map OutFrame.slot = some none ∧ (u.line.lastSent.drop 20).take 12 = s.ownSlot 1#8
      ∧ u.line.lastSent.length = 34 ∧ fcsGood u.line.lastSent = true := by decide +kernel

/-- A second write for the same SWEEP changes nothing: the slot stands as the node was at the first. -/
theorem test_own_slot_stands :
    let s := after (.ownSlotWrite 2#8) (after (.frameStart sweepKind 1#8) (second .outOfService))
    let later := { s with
      events := { s.events with overflow := true }, take := { s.take with currentPlan := 5 } }
    later.ownSlot 1#8 ≠ s.ownSlot 1#8
      ∧ s.line.thru.map (·.slot) = some (some (20, s.ownSlot 1#8))
      ∧ after (.ownSlotWrite 2#8) later = later := by decide +kernel

/-- A node of the ring at address 12 meets ENUMERATE with the reassign flag, its mode `at_` as the flags
byte arrives and `then_` at the frame's end. -/
def enumerated (at_ then_ : Mode) : State :=
  let s := node at_
  let u := after (.frameStart enumerateKind 9#8) { s with line := { s.line with ring := true } }
  after (.enumerate 9#8 1#8) { u with node := { u.node with mode := then_ } }

/-- The mode as the flags byte arrives decides, for the frame sent on and for the address: a later trip
to LOCKOUT does not make the node eligible, and a node eligible then stays so. -/
theorem test_enumerate_flags_settle :
    let out := fun s : State => s.line.thru.map (·.bytes.take 3)
    ((enumerated .inService .lockout).line.address = 12
      ∧ out (enumerated .inService .lockout) = some [enumerateKind, 9#8, 1#8])
    ∧ ((enumerated .lockout .lockout).line.address = 9
      ∧ out (enumerated .lockout .lockout) = some [enumerateKind, 10#8, 1#8])
    ∧ (enumerated .outOfService .inService).line.address = 9 := by decide +kernel

/-- One with no room for it, whatever slot count a write came with, leaves as received. -/
theorem test_short_sweep_leaves_as_received :
    let s := after (.ownSlotWrite 200#8) (after (.frameStart sweepKind 1#8) (second .outOfService))
    s.line.thru.map (·.slot.isSome) = some true
      ∧ (after .passThroughLeftOut (after (.sweep (sweepOf 1)) s)).line.lastSent = (sweepOf 1).bytes := by
  decide +kernel

/-- No row of the table gives bits, so no word spells a command. -/
theorem test_no_word (s : State) (nbits w : Nat) : s.withFetchWord nbits w = s := rfl

/-! ## Witnesses: the queue, the resets, the line

A witness shows that the hypotheses of a statement are met, clause by clause, at the edges of their
ranges. -/

theorem addressed_node (m : Mode) (policy : Byte) (o : Order) (ho : o.wf = true) :
    (addressed (node m policy) o).Addressed o := addressed_addressed rfl ho

theorem passing_node (m : Mode) (policy : Byte) (body : List Byte)
    (hb : (broadcast body).wf = true) :
    (passing (node m policy) (broadcast body)).Overhears (broadcast body)
      (passed (broadcast body)) := passing_overhears rfl hb

/-- The node with its line so. -/
def onLine (f : LinePort → LinePort) : State :=
  { node .inService with line := f (node .inService).line }

/-- A frame in cut-through pass or in the elastic buffer, its end come. -/
def outFrame (kind : Byte) : OutFrame := ⟨kind, 1#8, [kind, 1#8, 2#8, 3#8, 4#8], true, false, none⟩

theorem witness_StepRunsTheFrontCommand :
    ({ State.reset with pending := [.supplyLoss, .framingError] } : State).pending
      = Instr.supplyLoss :: [.framingError] := rfl

theorem witness_EveryCommandAnswersNext :
    let low := { State.reset with node := { State.reset.node with supplyOk := false } }
    let due := { State.reset with
      node := { State.reset.node with restartPending := some .full, restartDue := true } }
    low.held = true ∧ (due.held = false ∧ due.restartIsDue = true)
    ∧ (∀ p, Instr.framingError ≠ .powerOn p) ∧ (∀ p, Instr.framingError ≠ .resetN p)
    ∧ (∀ p, Instr.framingError ≠ .keepTablesRestartEffect p)
    ∧ (∀ p, Instr.framingError ≠ .fullRestartEffect p) :=
  ⟨rfl, ⟨rfl, rfl⟩, fun _ => nofun, fun _ => nofun, fun _ => nofun, fun _ => nofun⟩

theorem witness_EmptyQueuePassesAMillisecond :
    let low := { State.reset with node := { State.reset.node with resetNHigh := false } }
    let late := { State.reset with lamp := { State.reset.lamp with sinceSample := 100 } }
    let s := { merging with
      store := { merging.store with validating := true }
      sweep := { merging.sweep with records := [⟨11#8, 5, .closed, .proven, some 0, true⟩] }
      take := { merging.take with schedule := [⟨5#32, 1⟩] }
      gantry := { merging.gantry with slew := some 0 } }
    let waiting := withHead (node .inService) 2 .mergeL (some .closed) .closeWait
    (State.reset.pending = [] ∧ State.reset.works = true) ∧ (low.pending = [] ∧ low.held = true)
    ∧ (State.reset.untilNext = 100 ∧ late.untilNext = 0 ∧ late.due.untilNext = 100)
    ∧ (s.store.validating = true ∧ s.watchdog.armed = true ∧ s.watchdog.start = some 0
      ∧ s.gantry.slew = some 0 ∧ s.node.hold = false ∧ s.store.active.headExists 2 = true
      ∧ s.gantry.heads[(2 : Fin 8)].stage = some .merging ∧ s.untilNext = 5)
    ∧ (clearing.store.active.tidal 0 = true
      ∧ clearing.gantry.lanes[(0 : Fin 4)].clearSince ≠ none
      ∧ clearing.gantry.lanes[(0 : Fin 4)].clear = false)
    ∧ (waiting.gantry.heads[(2 : Fin 8)].stage = some .closeWait
      ∧ waiting.gantry.heads[(2 : Fin 8)].stalled = false) := by decide +kernel

/-- Each event of one moment is due somewhere, and no entry of the schedule is. -/
theorem witness_EmptyQueuePassesAMillisecond_due :
    let restart := fun k : RestartKind => { State.reset with
      node := { State.reset.node with restartPending := some k, restartDue := true } }
    let commit := { node .inService with
      store := { (node .inService).store with validating := true, commitAge := 20 } }
    let expired := fun m : Mode => { node m with now := 500 }
    let slewing := { node .inService with gantry := { (node .inService).gantry with slew := some 10 } }
    let lamp := { node .inService with
      lamp := { (node .inService).lamp with sinceReading := 1000, sinceSample := 100 } }
    (∀ k, (restart k).restartIsDue = true ∧ (restart k).held = false
      ∧ (restart k).node.restartPending = some k)
    ∧ (commit.works = true ∧ commit.store.validating = true ∧ 20 ≤ commit.store.commitAge)
    ∧ (∀ m ∈ [Mode.inService, Mode.fallback], (expired m).watchdog.armed = true
      ∧ (expired m).node.mode = m ∧ (expired m).watchdog.start = some 0
      ∧ 0 + (expired m).store.active.watchdogMs = (expired m).now)
    ∧ (slewing.works = true ∧ slewing.gantry.slew = some slewing.store.active.slewTickMs)
    ∧ (lamp.works = true ∧ lamp.noneDue ∧ 1000 ≤ lamp.lamp.sinceReading ∧ 100 ≤ lamp.lamp.sinceSample) :=
  ⟨fun k => by cases k <;> decide +kernel, by decide +kernel, by decide +kernel, by decide +kernel, rfl,
    fun _ he => absurd he List.not_mem_nil, by decide, by decide⟩

/-- A timed command with another timer before its own: a commit completes on the way and the dwell still
comes; a clearance opens the head on the way and its stall comes no more. -/
theorem witness_EmptyQueuePassesAMillisecond_timed :
    let dwell := { merging with
      store := { merging.store with validating := true, commitAge := 15 } }
    let u := dwell.reach 10
    let waiting := { clearing with gantry := { clearing.gantry with
      heads := clearing.gantry.heads.set 0 { clearing.gantry.heads[(0 : Fin 8)] with
        waitStart := some 0, waitTime := 4980 } } }
    let v := waiting.reach 20
    (dwell.works = true ∧ dwell.untilNext = 5 ∧ u.store.validating = false ∧ u.now = 10
      ∧ u.gantry.heads[(2 : Fin 8)].stage = some .merging
      ∧ u.store.active.dwellMs = u.gantry.heads[(2 : Fin 8)].mergeServed
      ∧ (after (.mergeDwellCompletion 2) dwell).gantry.heads[(2 : Fin 8)].stage = some .closeWait)
    ∧ (waiting.works = true ∧ waiting.untilNext = 10 ∧ v.now = 20
      ∧ v.gantry.heads[(0 : Fin 8)].stage = some .steady
      ∧ after (.stallTimeout 0) waiting = v.dueTest) := by decide +kernel

theorem witness_ResetsLeaveThePowerOnState :
    let due := { State.reset with
      node := { State.reset.node with restartPending := some .full, restartDue := true } }
    State.reset.node.resetNHigh = true ∧ State.reset.node.supplyOk = true
    ∧ due.held = false ∧ due.node.restartPending = some .full ∧ due.node.restartDue = true := by
  decide

theorem witness_HeldInReset :
    ({ State.reset with node := { State.reset.node with resetNHigh := false } } : State).node.resetNHigh
      = false
    ∧ ({ State.reset with node := { State.reset.node with supplyOk := false } } : State).node.supplyOk
      = false := by decide

/-- A node whose RESTART KEEP_TABLES is due. -/
def keepDue (m : Mode) : State := { node m with
  node := { (node m).node with restartPending := some .keepTables, restartDue := true } }

theorem witness_KeepTablesRestartKeeps :
    (keepDue .outOfService).held = false
    ∧ (keepDue .outOfService).node.restartPending = some .keepTables
    ∧ (keepDue .outOfService).node.restartDue = true
    ∧ (after (.keepTablesRestartEffect ⟨201#8, false, 85⟩) (keepDue .outOfService)).line.address = 0
    ∧ (after (.keepTablesRestartEffect ⟨200#8, false, 84⟩) (keepDue .outOfService)).line.address
        = 200
    ∧ (after (.keepTablesRestartEffect ⟨200#8, true, 85⟩) (keepDue .lockout)).line.address = 12
    ∧ (after (.keepTablesRestartEffect ⟨0#8, false, 85⟩) (keepDue .outOfService)).events.queue.length
        = 2
    ∧ (after (.keepTablesRestartEffect ⟨0#8, false, 84⟩) (keepDue .outOfService)).events.queue.length
        = 1 := by decide +kernel

theorem witness_FrameBegins :
    let s := node .inService
    let full := onLine fun l => { l with elastic := some (outFrame orderKind), tx := .passing }
    let busy := onLine fun l => { l with tx := .replying }
    let known := fun k : Byte => k = 0x31#8 ∨ k = 0x42#8 ∨ k = 0x43#8 ∨ k = 0x44#8
    (s.works = true ∧ s.line.rx = .idle ∧ s.line.address ≠ 0 ∧ (12#8).toNat = s.line.address)
    ∧ (¬known 0x30#8 ∧ ¬known 0x45#8 ∧ known 0x42#8 ∧ known 0x31#8)
    ∧ ¬((13#8 : Byte).toNat = s.line.address) ∧ sweepKind ≠ orderKind
    ∧ (Mode.inService.reassignable = false ∧ Mode.lockout.reassignable = true)
    ∧ s.line.elastic = none ∧ s.line.tx = .idle
    ∧ (full.works = true ∧ full.line.rx = .idle ∧ full.line.elastic ≠ none)
    ∧ (busy.line.rx = .idle ∧ busy.line.elastic = none ∧ busy.line.tx ≠ .idle)
    ∧ (onLine fun l => { l with rx := .ended }).line.rx = .ended
    ∧ State.reset.line.rx = .settling := by decide +kernel

theorem witness_LineFaultsAreCounted :
    let s := receiving (node .inService) sweepKind 1#8 .through
    let t := receiving (node .inService) sweepKind 1#8 .buffered true
    let ended := onLine fun l => { l with rx := .ended, lineErrors := 255 }
    let sweep := fun n : Byte => [sweepKind, 1#8, 0#8, 0#8, 0#8, 0#8, 0#8, n, 0#8, 0#8]
    let reply := fun m : Byte => [replyKind, 1#8, 0#8, 0#8, 0#8, m, 0#8, 0#8]
    (s.works = true ∧ s.line.rx = .frame
      ∧ s.line.rxFrame = some ⟨sweepKind, 1#8, .through, false, true, true⟩)
    ∧ (t.works = true ∧ t.line.rx = .frame
      ∧ t.line.rxFrame = some ⟨sweepKind, 1#8, .buffered, true, true, true⟩)
    ∧ ended.works = true ∧ ended.line.rx = .ended ∧ State.reset.line.rx = .settling
    ∧ (onLine fun l => { l with rx := .discard }).line.rx = .discard
    ∧ (headerOf (sweep 0#8) = .unknown ∧ headerOf (sweep 201#8) = .unknown
      ∧ headerOf (sweep 200#8) = .expects 2410 ∧ headerOf (sweep 1#8) = .expects 22)
    ∧ (headerOf (reply 3#8) = .unknown ∧ headerOf (reply 4#8) = .expects 12
      ∧ headerOf (reply 244#8) = .expects 252 ∧ headerOf (reply 245#8) = .unknown)
    ∧ (headerOf [orderKind, 1#8, 0#8, 0#8, 1#8, 240#8] = .expects 248
      ∧ headerOf [orderKind, 1#8, 0#8, 0#8, 1#8, 241#8] = .unknown)
    ∧ headerOf [0x30#8] = .unknown ∧ headerOf [enumerateKind] = .expects 5
    ∧ (frameOf (.badFcsFrameEnd (sweep 0#8)) = some (sweep 0#8)
      ∧ frameOf (.badFcsFrameEnd (sweep 1#8)) = some (sweep 1#8) ∧ (sweep 1#8).length ≠ 22)
    ∧ (s.line.receiving (byteAt (sweep 0#8) 0) (byteAt (sweep 0#8) 1)).isSome = true := by
  decide +kernel

/-- Surplus bytes after a damaged frame count once more (log 43). -/
theorem test_surplus_after_damage :
    let s := after (.enumerate 9#8 0#8)
      (after .framingError (after (.frameStart enumerateKind 9#8) (node .inService)))
    s.line.rx = .ended ∧ s.line.lineErrors = 1
      ∧ (after .surplusBytes s).line.lineErrors = 2 := by decide +kernel

theorem witness_BadFrameIsPassedOnBad :
    let frame := [enumerateKind, 1#8, 0#8, 0#8, 0#8]
    (outFrame sweepKind).slot = none
    ∧ ({ outFrame sweepKind with slot := some (2, [7#8]) }.slot = some (2, [7#8])
      ∧ ({ outFrame sweepKind with slot := some (2, [7#8]) } : OutFrame).sentBytes.take 3
        = [sweepKind, 1#8, 7#8])
    ∧ (∀ r d, (receiving (node .inService) enumerateKind 1#8 r d).Receives (byteAt frame 0)
        (byteAt frame 1) ⟨enumerateKind, 1#8, r, d, true, true⟩)
    ∧ headerOf frame = .expects frame.length
    ∧ Route.through ≠ .absorbed ∧ Route.buffered ≠ .absorbed ∧ fcsGood frame = false :=
  ⟨rfl, ⟨rfl, by decide +kernel⟩, fun r d => receives_receiving rfl enumerateKind 1#8 r d,
    by decide, by decide, by decide, by decide +kernel⟩

theorem witness_OrderNotActedOnIsCountedOrReemitted :
    let o := order [0#8]
    let occupied := { addressed (node .inService) o with
      line := { (addressed (node .inService) o).line with replySlot := some [1#8] } }
    (∀ d, (receiving (node .inService) orderKind o.dest .absorbed d).Receives orderKind o.dest
        ⟨orderKind, o.dest, .absorbed, d, true, true⟩)
    ∧ fcsGood (o.frame 1#8 ++ fcsBytes 0#16) = false
    ∧ fcsGood (o.frame 1#8 ++ fcsBytes (crc (o.frame 1#8))) = true
    ∧ occupied.Receives orderKind o.dest ⟨orderKind, o.dest, .absorbed, false, true, true⟩
    ∧ occupied.line.replySlot.isSome = true
    ∧ headerOf (o.frame 1#8 ++ fcsBytes 0#16)
      = .expects (o.frame 1#8 ++ fcsBytes 0#16).length :=
  ⟨fun d => receives_receiving rfl _ _ _ d, by decide +kernel, by decide +kernel,
    ⟨rfl, rfl, rfl, rfl, rfl⟩, rfl, by decide +kernel⟩

/-- The SWEEP with one slot begins at the node, which saw phase `p` last. -/
def sweeping (p : Option Bool) (armed : Bool) (k : Nat) : State :=
  let s := receiving (node (if armed then .inService else .outOfService)) sweepKind 1#8 .through
  { s with
    line := { s.line with address := k }
    sweep := { s.sweep with
      lastPhase := p, records := [⟨1#8, 5, .dark, .unproven, none, false⟩] } }

/-- The SWEEP of one slot, its stamp `k` and every head byte `x`. -/
def stamped (k x : Byte) : SweepFrame :=
  { sweepOf 1 with slots := [k :: List.replicate 11 x] }

theorem receives_sweeping (p : Option Bool) (armed : Bool) (k : Nat) :
    (sweeping p armed k).Receives sweepKind (sweepOf 1).number
      ⟨sweepKind, 1#8, .through, false, true, true⟩ := ⟨rfl, rfl, rfl, rfl, rfl⟩

theorem witness_RepeatedSweepIsPostedAlone :
    (sweepOf 1).wf = true
    ∧ (sweeping (some true) true 12).Receives sweepKind (sweepOf 1).number
      ⟨sweepKind, 1#8, .through, false, true, true⟩
    ∧ (sweeping (some true) true 12).sweep.lastPhase = some (sweepOf 1).phase
    ∧ (sweeping (some true) true 12).sweepShowsDuplicate (sweepOf 1) = false :=
  ⟨rfl, receives_sweeping _ _ _, by decide +kernel, by decide +kernel⟩

theorem witness_AcceptedSweepReachesTheBlocks :
    let byte := fun (k x : Byte) (i : Nat) => byteAt (stamped k x).bytes (8 + i)
    let damaged := receiving (node .inService) sweepKind 1#8 .buffered true
    (∀ k x, (stamped k x).wf = true ∧ (stamped k x).number = 1#8 ∧ (stamped k x).phase = (sweepOf 1).phase)
    ∧ (∀ p armed, (sweeping p armed 12).Receives sweepKind 1#8
      ⟨sweepKind, 1#8, .through, false, true, true⟩)
    ∧ damaged.Receives sweepKind 1#8 ⟨sweepKind, 1#8, .buffered, true, true, true⟩
    ∧ (sweeping none true 12).sweep.lastPhase ≠ some (sweepOf 1).phase
    ∧ (sweeping (some false) true 12).sweep.lastPhase ≠ some (sweepOf 1).phase
    ∧ (sweeping none true 12).watchdog.armed = true
    ∧ (sweeping none false 12).watchdog.armed = false
    ∧ (sweeping none false 12).node.mode ≠ .inService
    ∧ (sweeping none true 12).take.schedule = []
    ∧ ((byte 1#8 0xA2#8 0, byte 1#8 0xA2#8 7) = (1#8, 0xA2#8) ∧ byte 0#8 0xA2#8 0 = 1#8 - 1#8
      ∧ byte 255#8 0xA2#8 0 ≠ 1#8 ∧ byte 255#8 0xA2#8 0 ≠ 1#8 - 1#8
      ∧ (byte 1#8 0x22#8 7).getLsbD 7 = false) :=
  ⟨fun _ _ => ⟨rfl, rfl, rfl⟩, fun _ _ => receives_sweeping _ _ _, receives_receiving rfl _ _ _ _,
    by decide +kernel, by decide +kernel, by decide +kernel, by decide +kernel, by decide +kernel,
    rfl, by decide +kernel⟩

/-- A SWEEP stamped with its own number refreshes the record of node 1, head 5: MERGE_L, DEGRADED. -/
theorem test_sweep_refreshes :
    (after (.sweep (stamped 1#8 0xA2#8)) (sweeping none true 12)).sweep.records
        = [⟨1#8, 5, .mergeL, .degraded, some 0, true⟩]
    ∧ (after (.sweep (stamped 255#8 0xA2#8)) (sweeping none true 12)).sweep.records
        = [⟨1#8, 5, .dark, .unproven, none, false⟩] := by decide +kernel

/-- A SWEEP that leaves: begun, or ended with `n` slots. -/
def leavingSweep : Option Nat → OutFrame
  | none => ⟨sweepKind, 1#8, [], false, false, none⟩
  | some n => ⟨sweepKind, 1#8, (sweepOf n).bytes, true, false, none⟩

theorem witness_OwnSlotIsWrittenFromOneMoment :
    let at2 := fun (f : LinePort → LinePort) =>
      { second .inService with line := f (second .inService).line }
    let thru := fun x : OutFrame => at2 fun l => { l with thru := some x, tx := .passing }
    let elastic := fun x : OutFrame =>
      at2 fun l => { l with elastic := some x, tx := .passing, outGap := true }
    (∀ x, (thru x).works = true ∧ (thru x).line.tx = .passing
      ∧ (thru x).line.rx ≠ .brk ∧ (thru x).line.thru = some x ∧ (elastic x).works = true
      ∧ (elastic x).line.tx = .passing ∧ (elastic x).line.rx ≠ .brk ∧ (elastic x).line.thru = none
      ∧ (elastic x).line.elastic = some x ∧ (elastic x).line.outGap = true
      ∧ (thru x).line.address = 2)
    ∧ (∀ n, (leavingSweep n).kind = 0x31#8 ∧ (leavingSweep n).slot = none)
    ∧ ((leavingSweep none).ended = false ∧ (2#8 : Byte).toNat = 2 ∧ (1#8 : Byte).toNat < 2)
    ∧ (∀ n, (leavingSweep (some n)).ended = true)
    ∧ (natAt (leavingSweep (some 2)).bytes 7 = 2 ∧ natAt (leavingSweep (some 1)).bytes 7 = 1)
    ∧ (let slot := List.replicate 12 1#8
       20 + slot.length ≤ 8 + 12 * natAt (leavingSweep (some 2)).bytes 7
        ∧ ¬20 + slot.length ≤ 8 + 12 * natAt (leavingSweep (some 1)).bytes 7
        ∧ { leavingSweep none with slot := some (20, slot) }.slot ≠ none)
    ∧ (State.reset.works = true ∧ State.reset.line.address = 0 ∧ State.reset.line.tx ≠ .passing)
    ∧ (node .inService).store.active.headExists 2 = true
    ∧ (node .inService).store.active.headExists 3 = false :=
  have idle : RxState.idle ≠ .brk := by decide
  ⟨fun _ => ⟨rfl, rfl, idle, rfl, rfl, rfl, idle, rfl, rfl, rfl, rfl⟩,
    fun n => by cases n <;> exact ⟨rfl, rfl⟩, by decide, fun _ => rfl, by decide +kernel,
    by decide +kernel, by decide +kernel, by decide +kernel, by decide +kernel⟩

theorem witness_DuplicateAddressIsPosted :
    let f : ReplyFrame := ⟨12#8, 0#8, 7#8, 1#8, List.replicate 4 0#8⟩
    let k := { sweepOf 1 with slots := [List.replicate 12 1#8] }
    (∀ source d, (receiving (node .inService) replyKind source .through d).Receives replyKind
        { f with source := source }.source ⟨replyKind, source, .through, d, true, true⟩)
    ∧ f.source.toNat = (node .inService).line.address
    ∧ (sweeping none true 1).Receives sweepKind k.number
      ⟨sweepKind, 1#8, .through, false, true, true⟩
    ∧ 1 ≤ (sweeping none true 1).line.address
    ∧ (sweeping none true 1).line.address ≤ k.slots.length
    ∧ byteAt k.bytes (8 + 12 * ((sweeping none true 1).line.address - 1)) = k.number
    ∧ f.wf = true ∧ k.wf = true :=
  ⟨fun _ d => receives_receiving rfl _ _ _ d, by decide +kernel, receives_sweeping _ _ _,
    by decide, by decide, by decide +kernel, rfl, rfl⟩

theorem witness_EnumerateAssignsAddresses :
    let s := fun next d => receiving (onLine fun l => { l with ring := true, address := 0 })
      enumerateKind next .through d
    let t := receiving (node .outOfService) enumerateKind 200#8 .through
    let u := { t with line := { t.line with ring := true } }
    (∀ next d, (s next d).Receives enumerateKind next
      ⟨enumerateKind, next, .through, d, true, true⟩)
    ∧ ((s 1#8 false).line.ring = true ∧ (s 200#8 false).line.address = 0)
    ∧ (u.Receives enumerateKind 200#8 ⟨enumerateKind, 200#8, .through, false, true, true⟩
      ∧ u.line.ring = true ∧ u.line.address ≠ 0 ∧ (1#8 : Byte).getLsbD 0 = true)
    ∧ ¬(1 ≤ (0#8 : Byte).toNat) ∧ ¬((201#8 : Byte).toNat ≤ 200) :=
  ⟨fun _ d => receives_receiving rfl _ _ _ d, by decide +kernel,
    ⟨⟨rfl, rfl, rfl, rfl, rfl⟩, rfl, by decide, by decide⟩, by decide, by decide⟩

theorem witness_OutArbiterHandsOutOn :
    let x := outFrame orderKind
    let free := onLine fun l => { l with tx := .idle }
    let replying := onLine fun l => { l with tx := .replying, replySlot := some [1#8] }
    let thru := onLine fun l => { l with tx := .passing, thru := some x }
    let waits := onLine fun l => { l with tx := .passing, elastic := some x, outGap := false }
    let buffered := onLine fun l => { l with tx := .passing, elastic := some x, outGap := true }
    (free.works = true ∧ free.line.tx = .idle ∧ free.line.rx ≠ .brk)
    ∧ (replying.line.tx = .replying ∧ replying.line.rx ≠ .brk
      ∧ replying.line.replySlot = some [1#8])
    ∧ x.ended = true ∧ (thru.line.tx = .passing ∧ thru.line.thru = some x)
    ∧ (waits.line.tx = .passing ∧ waits.line.thru = none ∧ waits.line.outGap = false)
    ∧ buffered.line.tx = .passing ∧ buffered.line.thru = none ∧ buffered.line.elastic = some x
    ∧ buffered.line.outGap = true := by decide +kernel

theorem witness_BreakResetsTheLine :
    (node .lockout).works = true
    ∧ (onLine fun l => { l with rx := .brk }).works = true
    ∧ (onLine fun l => { l with rx := .brk }).line.rx = .brk := by decide +kernel

theorem witness_UnknownAndForeignOrders :
    let foreign := { order [] with dest := 13#8 }
    catalogue.contains (0#8 : Byte) = false ∧ catalogue.contains (0x51#8 : Byte) = false
    ∧ (addressed (node .inService) (order [])).Addressed (order [])
    ∧ (passing (node .inService) (broadcast [])).Overhears (broadcast []) (passed (broadcast []))
    ∧ (passing (node .inService) foreign).Receives orderKind foreign.dest (passed foreign)
    ∧ (passed foreign).route ≠ .absorbed
    ∧ (passing (node .inService) foreign).hearsGroup foreign.dest = false
    ∧ foreign.body.length ≤ 240 :=
  ⟨by decide, by decide, addressed_node _ _ _ rfl, passing_node _ _ _ rfl, receives_receiving rfl _ _ _,
    by decide, by decide +kernel, by decide⟩

/-- The node is in the group of its table. -/
theorem witness_group : (node .inService).hearsGroup 224#8 = true
    ∧ (node .inService).hearsGroup 0#8 = false := by decide +kernel

/-! ## Witnesses: the orders

`addressed_node` and `passing_node` meet the frame hypotheses of every order, in every mode. -/

/-- An order at a commissioning authority with KEY asserted. -/
def keyed (body : List Byte) : Order := order body 1#8 true

theorem witness_FirstFailingCheckRefusesTheOrder :
    (∀ m policy o, o.wf = true → (addressed (node m policy) o).Addressed o)
    ∧ (orderRow (.readNode (order [])) = some (readNodeSpec, order [])
      ∧ readNodeSpec.lengthOk (order []).body = false)
    ∧ (orderRow (.hold (order [])) = some (holdSpec, order []) ∧ holdSpec.lengthOk [] = true
      ∧ holdSpec.commission [] = true ∧ ¬((order [] 1#8 false).key = true)
      ∧ ¬((order [] 0#8 true).authority = 1#8) ∧ ¬((order [] 2#8 true).authority = 1#8))
    ∧ (orderRow (.enterService (order [])) = some (enterServiceSpec, order [])
      ∧ enterServiceSpec.lengthOk [] = true ∧ enterServiceSpec.commission [] = false
      ∧ enterServiceSpec.modeOk (node .inService) = false)
    ∧ (orderRow (.commitTables (order [])) = some (commitTablesSpec, order [])
      ∧ orderRow (.tableWrite (order [4#8, 0#8, 0#8]))
        = some (tableWriteSpec, order [4#8, 0#8, 0#8])
      ∧ commitTablesSpec.lengthOk [] = true ∧ tableWriteSpec.lengthOk [4#8, 0#8, 0#8] = true
      ∧ tableWriteSpec.commission [4#8, 0#8, 0#8] = false
      ∧ commitTablesSpec.commission [] = false ∧ commitTablesSpec.modeOk (node .inService) = true
      ∧ tableWriteSpec.modeOk (node .inService) = true) :=
  ⟨addressed_node, ⟨rfl, by decide⟩, ⟨rfl, by decide, by decide, by decide, by decide, by decide⟩,
    ⟨rfl, by decide, by decide, by decide +kernel⟩,
    ⟨rfl, rfl, by decide, by decide, by decide, by decide, by decide, by decide⟩⟩

theorem witness_GroupOrdersAreDropped :
    (∀ m policy body, (broadcast body).wf = true →
        (passing (node m policy) (broadcast body)).Overhears (broadcast body)
          (passed (broadcast body)))
    ∧ (orderRow (.readNode (broadcast [0#8])) = some (readNodeSpec, broadcast [0#8])
      ∧ readNodeSpec.group = false)
    ∧ (orderRow (.stage (broadcast [])) = some (stageSpec, broadcast [])
      ∧ stageSpec.lengthOk (broadcast []).body = false ∧ stageSpec.modeOk (node .lockout) = false)
    ∧ (orderRow (.take (broadcast [])) = some (takeSpec, broadcast [])
      ∧ takeSpec.modeOk (node .outOfService) = false ∧ (node .outOfService).node.mode ≠ .fallback
      ∧ (broadcast []).body = [] ∧ (passing (node .fallback) (broadcast [])).node.mode = .fallback
      ∧ (passing (node .fallback) (broadcast [])).watchdog.stream = false) :=
  ⟨passing_node, ⟨rfl, by decide⟩, ⟨rfl, by decide, by decide +kernel⟩,
    ⟨rfl, by decide +kernel, by decide, rfl, rfl, rfl⟩⟩

theorem witness_ReadNodeReturnsTheRecord :
    (∀ x : Byte, (addressed (node .inService) (order [x])).Addressed (order [x])
      ∧ (order [x]).body.length = 1)
    ∧ natAt (order [0#8]).body 0 = 0 ∧ natAt (order [1#8]).body 0 = 1
    ∧ 1 < natAt (order [2#8]).body 0 ∧ 1 < natAt (order [255#8]).body 0 :=
  ⟨fun _ => ⟨addressed_node _ _ _ rfl, rfl⟩, by decide, by decide, by decide, by decide⟩

theorem witness_ReadLampsReturnsChannelRecords :
    (∀ x : Byte, (addressed (node .inService) (order [x, 255#8])).Addressed (order [x, 255#8])
      ∧ (order [x, 255#8]).body.length = 2)
    ∧ natAt (order [31#8, 255#8]).body 0 ≤ 31 ∧ 31 < natAt (order [32#8, 255#8]).body 0
    ∧ (∀ h, (31 : Fin 32) ∉ (node .inService).store.active.headChannels h)
    ∧ (0 : Fin 32) ∈ (node .inService).store.active.headChannels 0
    ∧ ∀ h, (0 : Fin 32) ∈ (node .inService).store.active.headChannels h → h = 0 :=
  ⟨fun _ => ⟨addressed_node _ _ _ rfl, rfl⟩, by decide, by decide, by decide +kernel, by decide +kernel,
    by decide +kernel⟩

theorem witness_EventsAreReadOldestFirst :
    (addressed (node .inService) (order [])).Addressed (order []) ∧ (order []).body = [] :=
  ⟨addressed_node _ _ _ rfl, rfl⟩

/-- Times of the small gantry's bank in their units. -/
theorem test_times :
    let b := bankOf 64#8
    b.dwellMs = 1000 ∧ b.clearanceMs 3 = 10000 ∧ b.stallMs = 5000 ∧ b.watchdogMs = 500
      ∧ b.staleMs = 200 ∧ b.slewTickMs = 10 := by decide +kernel

/-- Its other fields. -/
theorem test_fields :
    (bankOf 64#8).fallbackPolicy = 64 ∧ (bankOf 64#8).slewStep = 64 ∧ (bankOf 64#8).trackBand = 8
      ∧ (bankOf 64#8).faultBand = 64 ∧ (bankOf 64#8).faultDelay = 2
      ∧ (bankOf 64#8).intensityAt 7 = 1000 ∧ (bankOf 64#8).threshold = 85
      ∧ (bankOf 64#8).derateCap = 500 ∧ (bankOf 64#8).upstream 1 .asc = some ⟨11#8, 5⟩
      ∧ (bankOf 64#8).downstream 1 .asc = some ⟨13#8, 5⟩
      ∧ (bankOf 64#8).pattern 2 .closed .alternate = [⟨11, true⟩]
      ∧ (bankOf 64#8).planCode 1 0 .desc = 4 := by decide +kernel

theorem witness_TableWriteWritesRecordByRecord :
    let timing := [0#8, 1#8, 0#8, 10#8, 0#8, 10#8, 0#8, 10#8, 0#8, 10#8, 0#8, 5#8, 5#8, 0#8, 2#8,
      0#8, 64#8, 1#8]
    let past := order ([5#8, 0#8, 2#8] ++ timing ++ timing)
    let lane := keyed ([2#8, 3#8, 1#8, 4#8] ++ List.replicate 10 0#8)
    (∀ m policy o, o.wf = true → (addressed (node m policy) o).Addressed o)
    ∧ (Table.ofId (natAt past.body 0) = some .timing
      ∧ past.body.length = 3 + natAt past.body 2 * Table.timing.size
      ∧ Table.timing.commissioning = false ∧ (node .inService).store.validating = false
      ∧ (∀ i < 1, natAt past.body 1 + i < Table.timing.records
        ∧ Table.timing.recordOk ((past.body.drop (3 + i * 18)).take 18) = true)
      ∧ 1 < natAt past.body 2 ∧ Table.timing.records ≤ natAt past.body 1 + 1)
    ∧ (Table.ofId (natAt lane.body 0) = some .lanes
      ∧ lane.body.length = 3 + natAt lane.body 2 * Table.lanes.size
      ∧ lane.authority = 1#8 ∧ lane.key = true ∧ 0 < natAt lane.body 2
      ∧ natAt lane.body 1 + 0 < Table.lanes.records
      ∧ Table.lanes.recordOk ((lane.body.drop 3).take 11) = false)
    ∧ (Table.ofId (natAt [5#8, 0#8, 0#8] 0) = some .timing
      ∧ ([5#8, 0#8, 0#8] : List Byte).length = 3 + natAt [5#8, 0#8, 0#8] 2 * Table.timing.size)
    ∧ Table.ofId (natAt [0#8, 0#8, 0#8] 0) = none ∧ Table.ofId (natAt [9#8, 0#8, 0#8] 0) = none
    ∧ 3 ≤ ([9#8, 0#8, 0#8] : List Byte).length :=
  ⟨addressed_node, by decide +kernel, by decide +kernel, by decide, by decide, by decide, by decide⟩

/-- The small gantry's faces, heads and channels. -/
theorem witness_TableWriteWritesRecordByRecord_accessors :
    let b := bankOf 0#8
    (b.faces = [(0, .asc), (0, .desc), (1, .asc)] ∧ b.existing = [0, 1, 2])
    ∧ (b.servedFace 1 = some (0, .desc) ∧ b.servedFace 2 = some (1, .asc) ∧ b.servedFace 3 = none)
    ∧ (b.oppositeHead 0 = some 1 ∧ b.oppositeHead 1 = some 0 ∧ b.oppositeHead 2 = none)
    ∧ (b.fitted 2 .mergeL = true ∧ b.fitted 2 .mergeR = false)
    ∧ (b.headChannels 1 = [4, 5, 6, 7] ∧ b.headChannels 3 = [])
    ∧ (b.permissiveChannels 1 = [4, 5] ∧ b.restrictiveChannels 1 = [6, 7])
    ∧ b.refersTo 2 ⟨13#8, 5, .dark, .unproven, none, false⟩ = true
    ∧ b.refersTo 2 ⟨13#8, 4, .dark, .unproven, none, false⟩ = false := by decide +kernel

theorem witness_TableReadReturnsRecords :
    (∀ b : Byte × Byte × Byte,
      (addressed (node .inService) (order [b.1, b.2.1, b.2.2, 255#8])).Addressed
        (order [b.1, b.2.1, b.2.2, 255#8]))
    ∧ (Table.ofId (natAt (order [3#8, 1#8, 7#8, 255#8]).body 0) = some .heads
      ∧ natAt (order [3#8, 1#8, 7#8, 255#8]).body 1 ≤ 1
      ∧ natAt (order [3#8, 1#8, 7#8, 255#8]).body 2 < Table.heads.records)
    ∧ Table.heads.records ≤ natAt (order [3#8, 0#8, 8#8, 1#8]).body 2
    ∧ 1 < natAt (order [3#8, 2#8, 0#8, 1#8]).body 1
    ∧ Table.ofId (natAt (order [9#8, 0#8, 0#8, 1#8]).body 0) = none :=
  ⟨fun _ => addressed_node _ _ _ rfl, by decide, by decide, by decide, by decide⟩

theorem witness_CommitStartsAndDiscardAborts :
    let started := { node .inService with
      store := { (node .inService).store with validating := true, commitAge := 19 } }
    ((addressed (node .inService) (order [])).Addressed (order [])
      ∧ (node .inService).store.validating = false)
    ∧ (addressed started (order [])).Addressed (order [])
    ∧ (addressed started (order [])).store.validating = true :=
  ⟨⟨addressed_node _ _ _ rfl, rfl⟩, addressed_addressed rfl rfl, rfl⟩

theorem witness_StageSetsThePendingPlan :
    let b := (node .inService).store.active
    (∀ m policy o, o.wf = true → (addressed (node m policy) o).Addressed o)
    ∧ (∀ m policy body, (broadcast body).wf = true →
        (passing (node m policy) (broadcast body)).Overhears (broadcast body)
          (passed (broadcast body)))
    ∧ ((node .lockout).node.mode ≠ .inService ∧ (node .lockout).node.mode ≠ .fallback)
    ∧ (node .fallback).node.mode = .fallback
    ∧ (b.planDefined (natAt (order [1#8]).body 0) = true
      ∧ b.planDefined (natAt (order [64#8]).body 0) = true)
    ∧ (b.planDefined (natAt (order [2#8]).body 0) = false
      ∧ b.planDefined (natAt (order [63#8]).body 0) = false)
    ∧ natAt (order [0#8]).body 0 = 0 ∧ 64 < natAt (order [65#8]).body 0 :=
  ⟨addressed_node, passing_node, by decide, rfl, by decide +kernel, by decide +kernel, by decide,
    by decide⟩

/-- The small gantry in mode `m` with a plan pending or not, the schedule so, the stream so. -/
def planning (m : Mode) (pending : Option Nat) (l : List ScheduleEntry) (stream : Bool := false) :
    State :=
  { node m with
    take := { (node m).take with clock := 0xFFFFFFFF#32, pendingPlan := pending, schedule := l }
    watchdog := { (node m).watchdog with stream := stream } }

theorem addressed_planning (m : Mode) (p : Option Nat) (l : List ScheduleEntry) (stream : Bool)
    (o : Order) (ho : o.wf = true) : (addressed (planning m p l stream) o).Addressed o :=
  addressed_addressed rfl ho

theorem passing_planning (m : Mode) (p : Option Nat) (l : List ScheduleEntry) (stream : Bool)
    (body : List Byte) (hb : (broadcast body).wf = true) :
    (passing (planning m p l stream) (broadcast body)).Overhears (broadcast body)
      (passed (broadcast body)) := passing_overhears rfl hb

theorem witness_TakeTakesThePendingPlan :
    (∀ m p l stream o, o.wf = true → (addressed (planning m p l stream) o).Addressed o)
    ∧ (∀ m p l stream body, (broadcast body).wf = true →
        (passing (planning m p l stream) (broadcast body)).Overhears (broadcast body)
          (passed (broadcast body)))
    ∧ ((planning .fallback (some 1) []).node.mode ≠ .inService
      ∧ (planning .fallback (some 1) []).watchdog.stream = false)
    ∧ ((planning .outOfService none []).node.mode ≠ .inService
      ∧ (planning .outOfService none []).node.mode ≠ .fallback)
    ∧ ((planning .inService (some 64) []).node.mode = .inService
      ∧ (planning .inService (some 64) []).take.pendingPlan = some 64)
    ∧ ((planning .fallback none [] true).node.mode = .fallback
      ∧ (planning .fallback none [] true).watchdog.stream = true
      ∧ (planning .fallback none [] true).take.pendingPlan = none) :=
  ⟨addressed_planning, passing_planning, by decide, by decide, by decide, by decide⟩

theorem witness_TakeOfAPlan :
    let b := (node .inService).store.active
    (b.headExists 0 = true ∧ b.planTarget 1 0 = some .open_)
    ∧ (b.headExists 2 = true ∧ b.planTarget 64 2 = some .closed) ∧ b.headExists 3 = false
    ∧ (node .inService).node.mode ≠ .fallback ∧ (node .fallback).node.mode = .fallback := by
  decide +kernel

/-- A take begins the paths: head 0 leaves OPEN for its closing merge, from FALLBACK too. -/
theorem test_take_begins_paths (m : Mode) (hm : m = .inService ∨ m = .fallback) :
    let t := (withHead (node m) 0 .open_ (some .open_) .steady).takePlan 64
    t.gantry.heads[(0 : Fin 8)].displayed = .mergeL ∧ t.gantry.heads[(0 : Fin 8)].stage = some .merging
      ∧ t.node.mode = .inService := by
  rcases hm with rfl | rfl <;> decide +kernel

/-- Four entries, due 1, 2, 3 and 4 ms after the clock has wrapped. -/
def fullSchedule : List ScheduleEntry := [⟨1#32, 1⟩, ⟨2#32, 1⟩, ⟨3#32, 64⟩, ⟨4#32, 1⟩]

theorem witness_TakeAtSchedulesThePendingPlan :
    let left := fun due : Clock => (clockAt (order (be32 due)).body 0 - 0xFFFFFFFF#32).toNat
    (∀ m p l stream o, o.wf = true → (addressed (planning m p l stream) o).Addressed o)
    ∧ (∀ m p l stream body, (broadcast body).wf = true →
        (passing (planning m p l stream) (broadcast body)).Overhears (broadcast body)
          (passed (broadcast body)))
    ∧ (order (be32 0#32)).body.length = 4
    ∧ (planning .inService (some 1) fullSchedule).take.pendingPlan = some 1
    ∧ (planning .inService none []).take.pendingPlan = none
    ∧ (planning .lockout none []).node.mode ≠ .inService
    ∧ (left 0xFFFFFFFF#32 = 0 ∧ left 0#32 = 1 ∧ left 86399999#32 = 86400000)
    ∧ (left 86400000#32 = 86400001 ∧ left 2147483646#32 = 2 ^ 31 - 1
      ∧ left 2147483647#32 = 2 ^ 31)
    ∧ (∃ e ∈ fullSchedule, e.due = clockAt (order (be32 4#32)).body 0)
    ∧ (¬(∃ e ∈ fullSchedule, e.due = clockAt (order (be32 5#32)).body 0)
      ∧ 4 ≤ fullSchedule.length)
    ∧ (fullSchedule.take 3).length < 4 :=
  ⟨addressed_planning, passing_planning, by decide, rfl, rfl, by decide, by decide +kernel,
    by decide +kernel, by decide +kernel, by decide +kernel, by decide⟩

theorem witness_CancelTakesRemovesEntries :
    (∀ m p l stream o, o.wf = true → (addressed (planning m p l stream) o).Addressed o)
    ∧ (∀ m p l stream body, (broadcast body).wf = true →
        (passing (planning m p l stream) (broadcast body)).Overhears (broadcast body)
          (passed (broadcast body)))
    ∧ ((order []).body = [] ∧ (order (be32 4#32)).body.length = 4)
    ∧ (planning .unconfigured none []).node.mode ≠ .inService
    ∧ (planning .fallback none fullSchedule).node.mode = .fallback
    ∧ (∃ e ∈ (planning .fallback none fullSchedule).take.schedule,
        e.due = clockAt (order (be32 4#32)).body 0)
    ∧ ¬∃ e ∈ (planning .fallback none fullSchedule).take.schedule,
        e.due = clockAt (order (be32 5#32)).body 0 :=
  ⟨addressed_planning, passing_planning, by decide, by decide, rfl, by decide +kernel,
    by decide +kernel⟩

/-- OUT_OF_SERVICE with head 1 in a test of OPEN. -/
def testing : State :=
  let s := node .outOfService
  let tested := { Head.reset with displayed := .open_, test := some ⟨.open_, .primary⟩ }
  { s with gantry := { s.gantry with heads := s.gantry.heads.set 1 tested } }

/-- ENTER_SERVICE lights the CLOSED channels at their codes and puts out those of a lamp test. -/
theorem test_enter_service_lights :
    let o := order []
    let s := { testing with gantry := { testing.gantry with
      channels := testing.gantry.channels.set 4 { Channel.reset with output := 4095 } |>.set 6
        { Channel.reset with target := 4095 } } }
    let t := after (.enterService o) (addressed s o)
    s.gantry.channels[(4 : Fin 32)].output = 4095 ∧ t.gantry.channels[(4 : Fin 32)].output = 0
      ∧ t.gantry.channels[(6 : Fin 32)].output = 4095 ∧ t.gantry.slew = none := by decide +kernel

theorem witness_EnterServiceClosesEveryHead :
    (addressed (node .outOfService) (order [])).Addressed (order [])
    ∧ (addressed (node .outOfService) (order [])).node.mode = .outOfService
    ∧ (node .outOfService).store.active.headExists 2 = true
    ∧ (node .outOfService).store.active.headExists 3 = false :=
  ⟨addressed_node _ _ _ rfl, rfl, by decide +kernel, by decide +kernel⟩

theorem witness_LeaveServiceDarkensEveryHead :
    (∀ m, (addressed (node m) (keyed [])).Addressed (keyed []))
    ∧ ((keyed []).body = [] ∧ (keyed []).authority = 1#8 ∧ (keyed []).key = true)
    ∧ (addressed (node .inService) (keyed [])).node.mode = .inService
    ∧ (addressed (node .fallback) (keyed [])).node.mode = .fallback :=
  ⟨fun _ => addressed_node _ _ _ rfl, by decide, rfl, rfl⟩

/-- IN_SERVICE, held or not, with head 2 displaying `d` on its way to `t` at stage `st`. -/
def walking (hold : Bool) (d : Aspect) (t : Option Aspect) (st : Stage) : State :=
  let s := withHead (node .inService) 2 d t st
  { s with node := { s.node with hold := hold } }

theorem addressed_walking (hold : Bool) (d : Aspect) (t : Option Aspect) (st : Stage) (o : Order)
    (ho : o.wf = true) : (addressed (walking hold d t st) o).Addressed o :=
  addressed_addressed rfl ho

theorem witness_HoldStepAndRelease :
    let at2 := fun (d : Aspect) (t : Option Aspect) (st : Stage) =>
      (walking true d t st).gantry.heads[(2 : Fin 8)]
    (∀ hold d t st, (addressed (walking hold d t st) (keyed [])).Addressed (keyed []))
    ∧ ((keyed []).body = [] ∧ (keyed []).authority = 1#8 ∧ (keyed []).key = true)
    ∧ (walking false .open_ none .steady).node.hold = false
    ∧ ((walking true .open_ none .steady).node.hold = true
      ∧ (walking true .open_ none .steady).node.mode = .inService)
    ∧ (node .inService).store.active.headExists 2 = true
    ∧ (node .inService).store.active.headExists 3 = false
    ∧ (at2 .open_ (some .open_) .steady).stage = some .steady
    ∧ ((at2 .open_ (some .closed) .held).stage = some .held
      ∧ (at2 .open_ (some .closed) .held).displayed ≠ .dark
      ∧ (at2 .open_ (some .closed) .held).target = some .closed)
    ∧ ((at2 .mergeL (some .mergeR) .held).displayed.permissive = true
      ∧ (at2 .mergeL (some .mergeR) .held).displayed ≠ .mergeR ∧ Aspect.mergeR.merge = true)
    ∧ (at2 .mergeL (some .closed) .merging).stage = some .merging
    ∧ (at2 .mergeL (some .closed) .closeWait).stage = some .closeWait :=
  ⟨fun _ _ _ _ => addressed_walking _ _ _ _ _ rfl, by decide, rfl, by decide, by decide +kernel,
    by decide +kernel, by decide +kernel, by decide +kernel, by decide +kernel, by decide +kernel,
    by decide +kernel⟩

/-- Head `h` on a merge toward CLOSED with this merge time served, and this wait time. -/
def closing (h : Fin 8) (st : Stage) (served waited : Nat) : State :=
  let s := withHead (node .inService) h .mergeL (some .closed) st
  let hd := { s.gantry.heads[h] with
    mergeSince := some 0, mergeServed := served, waitStart := some 0, waitTime := waited }
  { s with gantry := { s.gantry with heads := s.gantry.heads.set h hd } }

/-- At a RELEASE a dwell that was reached under the hold completes, and a stall posts. -/
theorem witness_HoldStepAndRelease_completions :
    let held := fun s : State => { s with node := { s.node with hold := true } }
    let released := fun s : State => after (.release (keyed [])) (addressed (held s) (keyed []))
    let dwelt := released (closing 0 .merging 1000 0)
    let stalled := released (closing 2 .closeWait 1000 5000)
    (∀ h st a b, (addressed (held (closing h st a b)) (keyed [])).Addressed (keyed []))
    ∧ dwelt.gantry.heads[(0 : Fin 8)].displayed = .closed ∧ dwelt.node.hold = false
    ∧ stalled.gantry.heads[(2 : Fin 8)].stalled = true
    ∧ stalled.events.queue.map (fun e => e.kind) = [.restarted .powerOn, .sequenceStalled 2] :=
  ⟨fun _ _ _ _ => addressed_addressed rfl rfl, by decide +kernel, by decide +kernel,
    by decide +kernel, by decide +kernel⟩

theorem witness_RestartWaitsForItsReply :
    (∀ x : Byte, (addressed (node .lockout) (keyed [x])).Addressed (keyed [x])
      ∧ (keyed [x]).body.length = 1 ∧ (keyed [x]).authority = 1#8 ∧ (keyed [x]).key = true
      ∧ (addressed (node .lockout) (keyed [x])).node.mode = .lockout)
    ∧ natAt (keyed [0#8]).body 0 = 0 ∧ natAt (keyed [1#8]).body 0 = 1
    ∧ 1 < natAt (keyed [2#8]).body 0 :=
  ⟨fun _ => ⟨addressed_node _ _ _ rfl, rfl, rfl, rfl, rfl⟩, by decide, by decide, by decide⟩

theorem witness_LampTestShowsThePattern :
    let b := testing.store.active
    (∀ body, (keyed body).wf = true → (addressed testing (keyed body)).Addressed (keyed body))
    ∧ ((keyed [0#8, 1#8, 0#8]).body.length = 3 ∧ (keyed [0#8, 1#8, 0#8]).authority = 1#8
      ∧ (keyed [0#8, 1#8, 0#8]).key = true ∧ testing.node.mode = .outOfService)
    ∧ (b.headExists 3 = false ∧ 4 < natAt (keyed [0#8, 5#8, 0#8]).body 1
      ∧ 1 < natAt (keyed [0#8, 1#8, 2#8]).body 2
      ∧ ∀ h : Fin 8, natAt (keyed [8#8, 1#8, 0#8]).body 0 ≠ h.val)
    ∧ (natAt (keyed [2#8, 4#8, 1#8]).body 0 = (2 : Fin 8).val ∧ b.headExists 2 = true
      ∧ Aspect.ofCode (natAt (keyed [2#8, 4#8, 1#8]).body 1) = some .closed
      ∧ b.pattern 2 .closed .primary ≠ [] ∧ b.pattern 2 .closed .alternate ≠ [])
    ∧ (b.pattern 2 .open_ .primary ≠ [] ∧ b.pattern 2 .open_ .alternate = []
      ∧ b.pattern 2 .mergeR .primary = [])
    ∧ (natAt (keyed [1#8, 0#8, 0#8]).body 1 = 0 ∧ testing.gantry.heads[(1 : Fin 8)].shown ≠ none
      ∧ testing.gantry.heads[(0 : Fin 8)].shown = none ∧ (4 : Fin 32) ∈ b.litChannels testing.gantry.heads)
    ∧ (b.servedFace 0 = some (0, .asc) ∧ b.tidal 0 = true ∧ Aspect.open_.permissive = true
      ∧ testing.gantry.heads[b.faceHead 0 Face.asc.other].test = some ⟨.open_, .primary⟩) :=
  ⟨fun _ h => addressed_addressed rfl h, by decide, by decide +kernel, by decide +kernel,
    by decide +kernel, by decide +kernel, by decide +kernel⟩

theorem witness_ClearLampFaultAndRelearn :
    (∀ x : Byte, (addressed (node .lockout) (keyed [x])).Addressed (keyed [x])
      ∧ (keyed [x]).body.length = 1 ∧ (keyed [x]).authority = 1#8 ∧ (keyed [x]).key = true
      ∧ (addressed (node .lockout) (keyed [x])).node.mode ≠ .unconfigured)
    ∧ (natAt (keyed [7#8]).body 0 ≤ 7 ∧ 7 < natAt (keyed [8#8]).body 0
      ∧ natAt (keyed [254#8]).body 0 ≠ 255 ∧ natAt (keyed [255#8]).body 0 = 255)
    ∧ (natAt (keyed [31#8]).body 0 ≤ 31 ∧ 31 < natAt (keyed [32#8]).body 0)
    ∧ (0 : Fin 32) ∈ (node .lockout).store.active.headChannels 0 :=
  ⟨fun _ => ⟨addressed_node _ _ _ rfl, rfl, rfl, rfl, nofun⟩, by decide, by decide, by decide +kernel⟩

/-! ## Witnesses: the commit and timed events -/

theorem witness_CommitCompletes :
    let failing := { State.reset with store := { State.reset.store with validating := true } }
    let passing := fun (m : Mode) (now : Nat) => { node m with
      now := now
      store := { (node m).store with
        validating := true
        active := { bankOf 0#8 with heads := List.replicate 8 (List.replicate 36 0#8) } } }
    (failing.works = true ∧ failing.store.validating = true
      ∧ failing.commitFailure = some ⟨.nodeUnset, 1, 0⟩)
    ∧ ((passing .outOfService 0).works = true ∧ (passing .outOfService 0).store.validating = true
      ∧ (passing .outOfService 0).commitFailure = none
      ∧ (passing .outOfService 0).store.active.heads ≠ (passing .outOfService 0).store.shadow.heads
      ∧ (passing .outOfService 0).watchdog.armed = false)
    ∧ ∀ m ∈ [Mode.inService, Mode.fallback],
      let due := { node m with
        now := 500, store := { (node m).store with validating := true } }
      due.commitFailure = none ∧ due.node.mode = m ∧ due.watchdog.armed = true
        ∧ due.watchdog.start = some 0 ∧ 0 + due.store.shadow.watchdogMs = due.now
        ∧ due.store.active.heads = due.store.shadow.heads := by
  decide +kernel

/-- In IN_SERVICE and FALLBACK: a bank that changes nothing of the description, and banks that change
the NODE record, the last LANES record and the last HEADS record. -/
theorem witness_CommitCompletes_inService :
    let b := bankOf 0#8
    let n := { b with node := [[225#8, 0#8, 0#8, 0#8, 0#8, 8#8, 0#8, 64#8, 2#8]] }
    let l := { b with lanes := b.lanes.set 3 (List.replicate 11 1#8) }
    let h := { b with heads := b.heads.set 7 (List.replicate 36 1#8) }
    (∀ m ∈ [Mode.inService, Mode.fallback], checkInService m b b = none
      ∧ checkInService m b n = some ⟨.commissioningInService, 1, 0⟩
      ∧ checkInService m b l = some ⟨.commissioningInService, 2, 3⟩
      ∧ checkInService m b h = some ⟨.commissioningInService, 3, 7⟩)
    ∧ checkInService .outOfService b n = none := by decide +kernel

/-- The node with a commit in flight whose dwell, stall timeout and slew tick are reached. -/
def committing (s : State) : State :=
  { s with
    store := { s.store with validating := true }
    gantry := { s.gantry with slew := some 10 } }

/-- A dwell that a commit completes: head 0 has no upstream reference and closes, head 2 has one and
waits, as does a held head. -/
theorem witness_CommitCompletes_timers :
    let s := fun h => committing (closing h .merging 1000 0)
    let held := { s 0 with node := { (s 0).node with hold := true } }
    let waiting := committing (closing 2 .closeWait 1000 5000)
    let t := after .commitCompletion (s 0)
    let u := after .commitCompletion (s 2)
    let v := after .commitCompletion waiting
    let opens := committing (clearing.elapse 10)
    let steady := committing (withHead (withHead (withHead (node .inService) 0 .open_ none .steady) 1
      .closed none .steady) 2 .closed none .steady)
    ((s 0).works = true ∧ (s 0).commitFailure = none
      ∧ (s 0).store.active.heads = (s 0).store.shadow.heads ∧ 1 ≤ (s 0).store.shadow.stallMs
      ∧ (s 0).store.shadow.dwellMs = 1000 ∧ 0 + (s 0).store.shadow.watchdogMs = 500)
    ∧ (t.env.upstreamHolds 0 = true ∧ t.gantry.heads[(0 : Fin 8)].displayed = .closed)
    ∧ (u.env.upstreamHolds 2 = false ∧ u.gantry.heads[(2 : Fin 8)].stage = some .closeWait)
    ∧ (held.node.hold = true ∧ held.commitFailure = none)
    ∧ (opens.node.hold = false ∧ opens.gantry.heads[(0 : Fin 8)].displayed = .closed
      ∧ (after .commitCompletion opens).gantry.heads[(0 : Fin 8)].displayed = .open_)
    ∧ (waiting.gantry.heads[(2 : Fin 8)].stalled = false ∧ waiting.store.shadow.stallMs = 5000
      ∧ v.gantry.heads[(2 : Fin 8)].stage = some .closeWait)
    ∧ (steady.commitFailure = none ∧ 1 ≤ steady.store.shadow.slewTickMs
      ∧ (∀ h : Fin 8, steady.store.shadow.headExists h = true →
          steady.gantry.heads[h].stage = some .steady)
      ∧ (0 : Fin 32) ∈ steady.store.shadow.litChannels steady.gantry.heads) := by
  decide +kernel

/-- The small gantry's bank with every interval of the sequencer doubled. -/
def slower : Bank := { bankOf 0#8 with
  timing := [[0#8, 2#8, 0#8, 20#8, 0#8, 20#8, 0#8, 20#8, 0#8, 20#8, 0#8, 10#8, 5#8, 0#8, 2#8,
    0#8, 64#8, 1#8]] }

/-- In a hold, with a commit in flight from the bank `old` to the small gantry's. -/
def heldFrom (old : Bank) (s : State) : State :=
  let c := committing s
  { c with node := { c.node with hold := true }, store := { c.store with active := old } }

/-- In a hold a dwell, a clearance and a stall whose counts have reached the interval complete at a commit
that lowers it to the count, and at no other. -/
theorem witness_CommitCompletes_held :
    let dwell := closing 2 .merging 1000 0
    let stall := closing 2 .closeWait 1000 5000
    let stage := fun s : State => (after .commitCompletion s).gantry.heads[(2 : Fin 8)].stage
    let stalled := fun s : State => (after .commitCompletion s).gantry.heads[(2 : Fin 8)].stalled
    let clear := fun s : State => (after .commitCompletion s).gantry.lanes[(0 : Fin 4)].clear
    let same := bankOf 0#8
    (∀ old ∈ [slower, same], (heldFrom old dwell).works = true
      ∧ (heldFrom old dwell).commitFailure = none ∧ old.heads = same.heads)
    ∧ (same.dwellMs < slower.dwellMs ∧ same.stallMs < slower.stallMs
      ∧ same.clearanceMs 0 < slower.clearanceMs 0)
    ∧ (stage (heldFrom slower dwell) = some .closeWait ∧ stage (heldFrom same dwell) = some .merging)
    ∧ (stalled (heldFrom slower stall) = true ∧ stalled (heldFrom same stall) = false)
    ∧ (clear (heldFrom slower (clearing.elapse 10)) = true
      ∧ clear (heldFrom same (clearing.elapse 10)) = false) := by decide +kernel

/-- Banks with other HEADS records in the place of head 2's. -/
def headed (records : List (List Byte)) : Bank :=
  { bankOf 0#8 with
    heads := ([headRecord 0 0 0, headRecord 0 1 4] ++ records
      ++ List.replicate 6 (List.replicate 36 0#8)).take 8 }

/-- Each commissioning check passes on the small gantry and fails on a bank with one record changed:
the first pass at a face and at a head and the second pass, an aspect not fitted, a channel repeated
and one shared, an arrow's channel in the cross, no essential entry. -/
theorem witness_CommissioningConstraints :
    let two := headRecord 1 0 8
    let b := bankOf 0#8
    let lanes := fun b : Bank => b.checkLaneHeads b.faces []
    let shared := fun b : Bank => b.checkShared b.existing []
    (lanes b = none ∧ b.checkFitted = none ∧ shared b = none ∧ b.checkOverlap = none
      ∧ b.checkEssential = none ∧ b.checkSelf 12 = none ∧ b.checkSelf 0 = none
      ∧ b.checkLanes = none)
    ∧ (lanes (headed []) = some ⟨.laneHeadMismatch, 2, 1⟩
      ∧ lanes (headed [headRecord 2 0 8]) = some ⟨.laneHeadMismatch, 3, 2⟩
      ∧ lanes (headed [two, headRecord 3 0 12]) = some ⟨.laneHeadMismatch, 3, 3⟩)
    ∧ (headed [two.set 3 3#8]).checkFitted = some ⟨.patternNotFitted, 3, 2⟩
    ∧ (shared (headed [two.set 5 0xC8#8]) = some ⟨.channelShared, 3, 2⟩
      ∧ shared (headed [headRecord 1 0 4]) = some ⟨.channelShared, 3, 2⟩)
    ∧ (headed [two.set 28 0xC8#8]).checkOverlap = some ⟨.channelClassOverlap, 3, 2⟩
    ∧ (headed [two.set 4 0x88#8]).checkEssential = some ⟨.noEssential, 3, 2⟩
    ∧ (b.checkSelf 11 = some ⟨.neighbourSelf, 2, 1⟩ ∧ b.checkSelf 13 = some ⟨.neighbourSelf, 2, 1⟩)
    ∧ Bank.reset.checkLanes = some ⟨.noLanes, 2, 0⟩ := by decide +kernel

/-- The plan checks pass on the small gantry and fail one by one on other codes of plan 1. -/
theorem witness_PlanConstraints :
    let b := bankOf 0#8
    let coded := fun codes : List Byte =>
      { b with plans := b.plans.set 0 (1#8 :: codes ++ List.replicate 5 0#8) }
    (b.checkPlans = none ∧ (bankOf 64#8).checkFallback = none ∧ b.checkFallback = none)
    ∧ (coded [1#8, 4#8, 0#8]).checkPlans = some ⟨.planFace, 4, 0⟩
    ∧ (coded [3#8, 4#8, 4#8]).checkPlans = some ⟨.planNotFitted, 4, 0⟩
    ∧ (coded [1#8, 1#8, 4#8]).checkPlans = some ⟨.planTidalConflict, 4, 0⟩
    ∧ (coded [4#8, 4#8, 2#8]).checkPlans = some ⟨.planMergeTarget, 4, 0⟩
    ∧ (coded [1#8, 4#8, 2#8]).checkPlans = none
    ∧ ((bankOf 1#8).checkFallback = some ⟨.fallbackPlan, 5, 0⟩
      ∧ (bankOf 2#8).checkFallback = some ⟨.fallbackPlan, 5, 0⟩) := by decide +kernel

/-- Three entries due at one test in FALLBACK with the stream: each posts in list order, the first take
returns the node to IN_SERVICE, the last gives the targets; an entry further off stays. -/
theorem test_several_entries_due :
    let s := planning .fallback none [⟨0xFFFFFFFC#32, 2⟩, ⟨0xFFFFFFFD#32, 1⟩, ⟨0xFFFFFFFE#32, 64⟩, ⟨9#32, 1⟩]
    let s := { s with watchdog := { s.watchdog with stream := true } }
    let t := s.dueTest
    t.take.schedule = [⟨9#32, 1⟩] ∧ t.take.currentPlan = 64 ∧ t.node.mode = .inService
      ∧ t.gantry.heads[(0 : Fin 8)].target = some .closed
      ∧ t.events.queue.map Event.kind = [.restarted .powerOn, .scheduledTakeFailed 2, .taken 1,
          .fallbackLeft, .taken 64] := by decide +kernel

/-- An entry whose moment is that of a lamp sample has fired when the sample is over. -/
theorem test_entry_fires_with_the_sample :
    let s := planning .inService none [⟨99#32, 1⟩]
    let t := after (.sampleEvent []) s
    t.take.clock = 99#32 ∧ t.take.schedule = [] ∧ t.take.currentPlan = 1 := by decide +kernel

/-- A SWEEP sets the clock past two entries, which fire at once. -/
theorem test_sweep_fires_entries :
    let s := planning .inService none [⟨50#32, 1⟩, ⟨60#32, 64⟩, ⟨200#32, 1⟩]
    let t := after (.sweep (sweepOf 1)) (receiving s sweepKind 1#8 .through)
    t.take.clock = 100#32 ∧ t.take.schedule = [⟨200#32, 1⟩] ∧ t.take.currentPlan = 64
      ∧ t.events.queue.map Event.kind = [.restarted .powerOn, .taken 1, .taken 64] := by decide +kernel

theorem witness_ScheduleEntryFires_lists :
    let s := planning .inService none [⟨0xFFFFFFFD#32, 2⟩, ⟨0xFFFFFFFE#32, 1⟩, ⟨9#32, 64⟩]
    let due : List ScheduleEntry := [⟨0xFFFFFFFD#32, 2⟩] ++ ⟨0xFFFFFFFE#32, 1⟩ :: []
    (s.take.schedule.filter fun e => e.isDue s.take.clock) = due ∧ s.node.mode.serving = true
      ∧ s.store.active.planDefined 2 = false ∧ s.store.active.planDefined 1 = true
      ∧ (planning .fallback none []).node.mode = .fallback
      ∧ (planning .inService none [⟨9#32, 64⟩]).noneDue
      ∧ (planning .inService none [⟨9#32, 64⟩]).pending = [] := by
  refine ⟨by decide +kernel, rfl, by decide +kernel, by decide +kernel, rfl, ?_, rfl⟩
  intro e he
  rw [List.mem_singleton.1 he]
  decide +kernel

theorem witness_ScheduleEntryFires :
    let s := planning .inService none [⟨1#32, 1⟩, ⟨2#32, 64⟩]
    let t := planning .fallback none [⟨1#32, 2⟩]
    let late := planning .fallback none [⟨0xFFFFFFF0#32, 1⟩]
    let u := s.elapse 2
    (s.works = true ∧ s.take.schedule = ⟨1#32, 1⟩ :: [⟨2#32, 64⟩] ∧ s.node.mode = .inService
      ∧ ScheduleEntry.isDue ⟨1#32, 1⟩ s.take.clock = false ∧ (1#32 - s.take.clock).toNat = 2
      ∧ (∀ x ∈ [(⟨2#32, 64⟩ : ScheduleEntry)], 2 ^ 31 ≤ (u.take.clock - x.due).toNat)
      ∧ s.store.active.planDefined 1 = true ∧ s.node.mode ≠ .fallback ∧ s.untilNext = 2)
    ∧ (ScheduleEntry.isDue ⟨0x80000000#32, 1⟩ 0#32 = false
      ∧ ScheduleEntry.isDue ⟨0x80000001#32, 1⟩ 0#32 = true ∧ late.untilNext = 0)
    ∧ (t.take.schedule = ⟨1#32, 2⟩ :: [] ∧ t.store.active.planDefined 2 = false)
    ∧ late.node.mode = .fallback ∧ late.watchdog.stream = false
    ∧ ScheduleEntry.isDue ⟨0xFFFFFFF0#32, 1⟩ late.take.clock = true
    ∧ late.store.active.planDefined 1 = true := by decide +kernel

theorem witness_WatchdogExpires :
    let at450 := fun (m : Mode) (policy : Byte) => { node m policy with now := 450 }
    (∀ m ∈ [Mode.inService, Mode.fallback], ∀ policy ∈ [0#8, 64#8],
      (at450 m policy).works = true ∧ (at450 m policy).watchdog.armed = true
        ∧ (at450 m policy).watchdog.start = some 0 ∧ (at450 m policy).node.mode = m
        ∧ 0 + (at450 m policy).store.active.watchdogMs - (at450 m policy).now = 50
        ∧ (at450 m policy).untilNext = 50)
    ∧ (node .inService).store.active.fallbackPolicy = 0
    ∧ (node .inService 64#8).store.active.fallbackPolicy = 64
    ∧ (node .inService 64#8).store.active.planTarget 64 0 = some .closed
    ∧ (node .inService 64#8).store.active.headExists 0 = true
    ∧ (walking false .mergeL (some .closed) .merging).gantry.heads[(2 : Fin 8)].stage
        = some .merging := by decide +kernel

/-- Head 0 held on its way from OPEN to CLOSED, head 1 STEADY on CLOSED, head 2 in `st` toward CLOSED, 50 ms
before the watchdog is due. -/
def expiring (policy : Byte) (st : Stage) : State :=
  let s := withHead (withHead (closing 2 st 0 0) 0 .open_ (some .closed) .held) 1
    .closed (some .closed) .steady
  { s with
    now := 450, node := { s.node with hold := true }
    store := { s.store with active := bankOf policy } }

/-- The stages of the HOLD policy: head 0 stays OPEN, head 1 as it is, head 2 goes on in MERGING, in
CLOSE_WAIT without its upstream record, and comes to CLOSED with it. -/
theorem witness_WatchdogExpires_stages :
    let s := expiring 0#8
    let fresh := { s .closeWait with
      sweep := { (s .closeWait).sweep with records := [⟨11#8, 5, .closed, .proven, some 449, true⟩] } }
    let t := after .watchdogExpiry (s .merging)
    (∀ u ∈ [s .merging, s .closeWait, fresh], u.works = true ∧ u.untilNext = 50
      ∧ u.watchdog.start = some 0 ∧ (after .watchdogExpiry u).node.mode = .fallback)
    ∧ ((s .merging).gantry.heads[(0 : Fin 8)].target ≠ some .open_
      ∧ t.gantry.heads[(0 : Fin 8)].target = some .open_
      ∧ t.gantry.heads[(0 : Fin 8)].stage = some .steady)
    ∧ t.gantry.heads[(1 : Fin 8)] = (s .merging).gantry.heads[(1 : Fin 8)]
    ∧ t.gantry.heads[(2 : Fin 8)].stage = some .merging
    ∧ (after .watchdogExpiry (s .closeWait)).gantry.heads[(2 : Fin 8)].stage = some .closeWait
    ∧ (after .watchdogExpiry fresh).gantry.heads[(2 : Fin 8)].displayed = .closed := by decide +kernel

/-- Under plan 64, which closes every face, head 0 shows its closing merge, the hold ended. -/
theorem test_fallback_plan_begins_paths :
    let t := after .watchdogExpiry (expiring 64#8 .merging)
    t.gantry.heads[(0 : Fin 8)].displayed = .mergeL ∧ t.gantry.heads[(0 : Fin 8)].stage = some .merging
      ∧ t.node.hold = false ∧ t.take.currentPlan = 64 := by decide +kernel

/-- The upstream record of head 2, fresh since time 0. -/
def upstreamRecord : Neighbour := ⟨11#8, 5, .closed, .proven, some 0, true⟩

theorem witness_SequencerTimersComplete :
    let seen := { merging with
      now := 190, sweep := { merging.sweep with records := [upstreamRecord] } }
    let waiting := closing 2 .closeWait 1000 4990
    let elapsed := clearing.elapse 10
    (merging.works = true ∧ merging.node.hold = false ∧ merging.store.active.headExists 2 = true
      ∧ merging.gantry.heads[(2 : Fin 8)].stage = some .merging
      ∧ merging.gantry.heads[(2 : Fin 8)].mergeSince ≠ none ∧ merging.untilNext = 10
      ∧ merging.env.upstreamHolds 2 = false ∧ seen.env.upstreamHolds 2 = true)
    ∧ (clearing.works = true ∧ clearing.node.hold = false ∧ clearing.store.active.tidal 0 = true
      ∧ clearing.gantry.lanes[(0 : Fin 4)].clearSince ≠ none
      ∧ clearing.gantry.lanes[(0 : Fin 4)].clear = false
      ∧ clearing.store.active.clearanceMs 0 = 10000 ∧ clearing.untilNext = 10
      ∧ clearing.store.active.faceHead 0 .asc = 0 ∧ clearing.store.active.faceHead 0 .desc = 1
      ∧ elapsed.gantry.heads[(1 : Fin 8)].stage = some .steady
      ∧ elapsed.gantry.heads[(0 : Fin 8)].stage = some .openingWait
      ∧ elapsed.gantry.heads[(0 : Fin 8)].target = some .open_
      ∧ elapsed.env.openingHolds 0 .open_ { elapsed.gantry with
          lanes := elapsed.gantry.lanes.set 0 { elapsed.gantry.lanes[(0 : Fin 4)] with
            clear := true } } = true)
    ∧ (waiting.works = true ∧ waiting.store.active.headExists 2 = true
      ∧ waiting.gantry.heads[(2 : Fin 8)].stage = some .closeWait
      ∧ waiting.gantry.heads[(2 : Fin 8)].waitStart ≠ none
      ∧ waiting.gantry.heads[(2 : Fin 8)].stalled = false ∧ waiting.untilNext = 10)
    ∧ seen.sweep.records.find? (fun r => r.address == 11#8 && r.head == 5) = some upstreamRecord
    ∧ upstreamRecord.fresh = true ∧ upstreamRecord.lastRefresh = some 0
    ∧ 0 + seen.store.active.staleMs - seen.now = 10 ∧ seen.untilNext = 10
    ∧ seen.store.active.refersTo 0 upstreamRecord = false
    ∧ seen.store.active.refersTo 2 upstreamRecord = true := by decide +kernel

/-! ## Witnesses: the sequencer, the lamps, events and safety -/

theorem witness_OpeningAndClosingConditions :
    let b := (node .inService).store.active
    (b.servedFace 0 = some (0, .asc) ∧ b.servedFace 1 = some (0, .desc)
      ∧ b.servedFace 2 = some (1, .asc))
    ∧ clearing.gantry.heads[(0 : Fin 8)].displayed = .closed ∧ Aspect.mergeL.merge = true
    ∧ (walking false .mergeR none .steady).gantry.heads[(2 : Fin 8)].displayed.merge = true := by
  decide +kernel

/-- The opening of head 2 from `d` to `a`, with its downstream record fresh or not. -/
def opening (hold fresh : Bool) (d a : Aspect) (served : Nat) : State :=
  let s := withHead (node .inService) 2 d (some a) .held
  let hd := { s.gantry.heads[(2 : Fin 8)] with mergeSince := some 0, mergeServed := served }
  { s with
    node := { s.node with hold := hold }
    sweep := { s.sweep with records := [upstreamRecord, ⟨13#8, 5, .open_, .degraded, some 0, fresh⟩] }
    gantry := { s.gantry with heads := s.gantry.heads.set 2 hd } }

theorem witness_PathsBeginAsTabled :
    let h := fun s : State => s.gantry.heads[(2 : Fin 8)]
    (∀ d a, (h (opening false false d a 0)).target = some a
      ∧ (h (opening false false d a 0)).displayed = d
      ∧ (h (opening false false d a 0)).stage = some .held)
    ∧ (∀ st, (h (walking false .mergeL (some .closed) st)).stage = some st
      ∧ (h (walking false .mergeL (some .closed) st)).target = some .closed
      ∧ (walking false .mergeL (some .closed) st).env.hold = false
      ∧ (walking true .mergeL (some .closed) st).env.hold = true)
    ∧ ((h (opening true true .open_ .closed 0)).target ≠ some .mergeL
      ∧ (h (opening true true .open_ .closed 0)).displayed ≠ .dark)
    ∧ ((opening true true .open_ .closed 0).env.hold = true
      ∧ (opening false true .open_ .closed 0).env.hold = false)
    ∧ (opening false true .mergeL .open_ 0).env.openingHolds 2 .open_
        (opening false true .mergeL .open_ 0).gantry = true
    ∧ (opening false false .mergeL .open_ 0).env.openingHolds 2 .open_
        (opening false false .mergeL .open_ 0).gantry = false
    ∧ (opening false true .closed .mergeL 0).env.openingHolds 2 .mergeL
        (opening false true .closed .mergeL 0).gantry = true
    ∧ (opening false true .mergeL .closed 999).env.bank.dwellMs = 1000
    ∧ (h (opening false true .mergeL .closed 1000)).mergeServed = 1000
    ∧ (h (opening false true .mergeL .closed 999)).mergeServed < 1000
    ∧ (opening false true .mergeL .closed 1000).env.upstreamHolds 2 = true :=
  ⟨fun _ _ => ⟨rfl, rfl, rfl⟩, fun _ => ⟨rfl, rfl, rfl, rfl⟩, by decide +kernel, by decide +kernel,
    by decide +kernel, by decide +kernel, by decide +kernel, by decide +kernel, by decide +kernel,
    by decide +kernel, by decide +kernel⟩

theorem witness_DriveCodeArithmetic :
    (node .inService).store.active.intensityAt 7 = 1000
    ∧ (node .inService).store.active.derateCap = 500 := by decide +kernel

theorem witness_OutputsFollowTheLitSet :
    let b := (node .inService).store.active
    let s := withHead (node .inService) 0 .open_ (some .open_) .steady
    let t := { s with gantry := { s.gantry with slew := some 1 } }
    let g := s.env.change 0 .closed .steady s.gantry
    ((2 : Fin 32) ∉ b.litChannels s.gantry.heads ∧ (2 : Fin 32) ∈ b.litChannels g.heads)
    ∧ ((0 : Fin 32) ∈ b.litChannels s.gantry.heads ∧ (0 : Fin 32) ∉ b.litChannels g.heads)
    ∧ ((0 : Fin 32) ∈ b.litChannels (s.env.change 0 .open_ .steady s.gantry).heads)
    ∧ ((31 : Fin 32) ∉ b.litChannels g.heads)
    ∧ g.heads[(0 : Fin 8)].shown ≠ s.gantry.heads[(0 : Fin 8)].shown
    ∧ (∃ x ∈ b.shownPattern 0 g.heads[(0 : Fin 8)], x.channel = 2)
    ∧ (b.servedFace 0 = some (0, .asc) ∧ b.servedFace 2 = some (1, .asc) ∧ b.servedFace 3 = none
      ∧ b.tidal 0 = true ∧ b.tidal 1 = false ∧ b.faceHead 0 Face.asc.other = 1
      ∧ clearing.gantry.heads[(0 : Fin 8)].displayed = .closed
      ∧ clearing.gantry.heads[(1 : Fin 8)].displayed = .closed
      ∧ s.gantry.heads[(0 : Fin 8)].displayed ≠ .closed)
    ∧ (testing.gantry.heads[(1 : Fin 8)].test = some ⟨.open_, .primary⟩ ∧ Head.reset.test = none
      ∧ Head.reset.displayed = .dark)
    ∧ t.works = true ∧ t.gantry.slew = some 1 ∧ b.slewTickMs - 1 = 9 ∧ t.untilNext = 9 := by
  decide +kernel

theorem witness_DerateFollowsTheTemperature :
    let late := fun s : State => { s with lamp := { s.lamp with sinceReading := 950 } }
    let hot := late { node .inService with lamp := { (node .inService).lamp with derate := true } }
    ((late State.reset).works = true ∧ (late State.reset).node.tablesValid = false
      ∧ 1000 - (late State.reset).lamp.sinceReading = 50 ∧ (late State.reset).untilNext = 50)
    ∧ (late (node .inService)).node.tablesValid = true
    ∧ (late (node .inService)).lamp.derate = false ∧ (late (node .inService)).untilNext = 50
    ∧ hot.untilNext = 50
    ∧ (node .inService).store.active.threshold = 85
    ∧ max (-40) (min 125 (85 : Int)) = 85 ∧ max (-40) (min 125 (84 : Int)) < 85
    ∧ hot.works = true ∧ hot.node.tablesValid = true ∧ hot.lamp.derate = true
    ∧ max (-40) (min 125 (75 : Int)) ≤ 85 - 10 ∧ (85 : Int) - 10 < max (-40) (min 125 76)
    ∧ max (-40) (min 125 (-300 : Int)) = -40 ∧ max (-40) (min 125 (300 : Int)) = 125 := by
  decide +kernel

/-- A lit, settled channel with this measured code and fault count. -/
def measured (m fault : Nat) (st : ChannelState := .ok) : Channel :=
  { Channel.reset with output := 1024, lastM := m, settle := 2, fault := fault, state := st }

/-- Bands 8 and 64 and a fault delay of 2: references 1024 leave the band at 1033 and 1089. -/
theorem witness_ChannelsAreJudged :
    let b := (node .inService).store.active
    let dev := fun m : Nat =>
      ((min ((measured m 0).lastM * 1024 / (measured m 0).output) 2047 : Nat) - (1024 : Int)).natAbs
    (b.trackBand = 8 ∧ b.faultBand = 64 ∧ b.faultDelay = 2)
    ∧ ((measured 0 0).settle = 2 ∧ (measured 0 0).state ≠ .failed ∧ 64 ≤ (measured 0 0).output)
    ∧ (dev 1032 = 8 ∧ dev 1033 = 9 ∧ dev 1088 = 64 ∧ dev 1089 = 65)
    ∧ ((measured 1089 0).fault + 1 < b.faultDelay ∧ b.faultDelay ≤ (measured 1089 1).fault + 1)
    ∧ (measured 0 0 .failed).state = .failed
    ∧ { measured 0 0 with output := 63 }.output < 64 ∧ { measured 0 0 with settle := 1 }.settle < 2
    ∧ ((measured 63 0).lastM < 64 ∧ 64 ≤ (measured 64 0).lastM)
    ∧ ({ measured 64 0 with stuck := 0 }.stuck + 1 < b.faultDelay
      ∧ b.faultDelay ≤ { measured 64 0 with stuck := 1 }.stuck + 1) := by decide +kernel

theorem witness_SampleEventJudgesTheGantry :
    let s := node .outOfService
    let b := s.store.active
    let m := (List.replicate 32 0).set 0 64 |>.set 4 64
    let once := after (.sampleEvent m) s
    (s.works = true ∧ s.node.mode = .outOfService ∧ State.reset.node.mode = .unconfigured
      ∧ (node .lockout).node.mode = .lockout ∧ s.untilNext = 100 ∧ State.reset.untilNext = 100
      ∧ (node .inService).untilNext = 100 ∧ once.untilNext = 100)
    ∧ (b.tidal 0 = true ∧ (0 : Fin 32) ∈ b.permissiveChannels (b.faceHead 0 .asc)
      ∧ (4 : Fin 32) ∈ b.permissiveChannels (b.faceHead 0 .desc))
    ∧ (s.gantry.lanes[(0 : Fin 4)].conflictCount = 0
      ∧ once.gantry.lanes[(0 : Fin 4)].conflictCount = 1)
    ∧ (let failing := withHead (node .inService) 2 .closed (some .closed) .steady
       let channels := failing.gantry.channels.set 10 (measured 0 1)
       let ready := { failing with gantry := { failing.gantry with channels := channels } }
       let t := after (.sampleEvent []) ready
       b.headExists 2 = true ∧ ready.gantry.heads[(2 : Fin 8)].proving ≠ .failed
        ∧ ready.gantry.heads[(2 : Fin 8)].test = none
        ∧ ready.gantry.heads[(2 : Fin 8)].shown = some (.closed, .primary)
        ∧ b.pattern 2 .closed .primary = [⟨10, true⟩] ∧ b.pattern 2 .closed .alternate ≠ []
        ∧ (ready.gantry.channels[(10 : Fin 32)].judgeLit b 10).channel.state = .failed
        ∧ (ready.gantry.channels[(10 : Fin 32)].judgeLit b 10).channel.settle = 2
        ∧ t.events.queue.map Event.kind
          = [.restarted .powerOn, .lampFailed 10, .alternateInUse 2 .closed]) := by
  decide +kernel

/-- Patterns of two channels, the first essential: settling, sound, and with either channel FAILED. -/
theorem witness_SampleEventJudgesTheGantry_proving :
    let p : List PatternEntry := [⟨0, true⟩, ⟨1, false⟩]
    let channels := fun x y : Channel => ((Vector.replicate 32 Channel.reset).set 0 x).set 1 y
    let ok := measured 1024 0
    let failed := measured 0 0 .failed
    provingOf p (channels ok { ok with settle := 1 }) = .unproven
    ∧ provingOf p (channels failed ok) = .failed ∧ provingOf p (channels ok failed) = .degraded
    ∧ provingOf p (channels ok ok) = .proven := by decide +kernel

theorem witness_PostsCoalesceOrOverflow :
    let e : Event := ⟨.taken 1, 0, 0, 0#32⟩
    let others := (List.range 16).map fun p => (⟨.taken (p + 2), 0, 0, 0#32⟩ : Event)
    (∃ x ∈ [e], x.kind = e.kind) ∧ (∀ x ∈ others, x.kind ≠ e.kind)
    ∧ others.length = 16 ∧ (others.take 15).length < 16 := by decide +kernel

/-- The small gantry in service with every head CLOSED, a plan pending, a fresh neighbour record, and
a tick of the slew timer in the queue. -/
def inService : State :=
  let s := after (.enterService (order [])) (addressed (node .outOfService) (order []))
  let t := after (.stage (order [1#8])) (addressed s (order [1#8]))
  { t with
    sweep := { t.sweep with records := [upstreamRecord, Neighbour.created ⟨13#8, 5⟩] }
    pending := [.slewTick] }

theorem inService_banks : (bankOf 0#8).inRanges := by
  unfold Bank.inRanges
  intro t
  cases t <;> decide +kernel

theorem inService_records : inService.recordsSound := by
  refine ⟨by decide +kernel, fun n hn hf => ?_⟩
  have h : n = upstreamRecord := by
    revert n
    decide +kernel
  exact ⟨0, by rw [h]; rfl, by decide +kernel, by decide +kernel⟩

theorem inService_clears :
    inService.gantry.clearsSound inService.store.active inService.node.mode := by
  have stands : ∀ k : Fin 4, inService.store.active.tidal k = true →
      inService.gantry.lanes[k].clearSince ≠ none ∧ inService.gantry.lanes[k].clear = false
        ∧ inService.gantry.heads[inService.store.active.faceHead k .asc].displayed = .closed
        ∧ inService.gantry.heads[inService.store.active.faceHead k .desc].displayed = .closed := by
    decide +kernel
  refine ⟨fun _ k hk => ?_, fun h => absurd h (by decide +kernel)⟩
  obtain ⟨since, clear, asc, desc⟩ := stands k hk
  exact ⟨⟨fun _ f => by cases f <;> assumption, fun _ => since⟩,
    fun h => absurd (clear.symm.trans h) (by decide)⟩

/-- The premises of the invariants hold together at a state whose step answers a next state. -/
theorem witness_invariants : inService.safe ∧ ∃ t, step inService = .next t := by
  refine ⟨⟨?_, ?_, ?_, ?_, ?_, ?_⟩, ⟨_, rfl⟩⟩
  · unfold State.queueSafe EventUnit.safe
    decide +kernel
  · unfold State.modesAgree
    decide +kernel
  · unfold State.stagedPlanDefined
    decide +kernel
  · refine ⟨by decide +kernel, by decide +kernel, ?_, ⟨inService_banks, inService_banks, ?_⟩, ?_, ?_,
      inService_records⟩
    · unfold TakeUnit.inRanges
      decide +kernel
    · decide +kernel
    · unfold LampDrive.inRanges
      decide +kernel
    · unfold Gantry.inRanges Channel.inRanges
      decide +kernel
  · unfold State.unlitDark Gantry.unlitDark
    decide +kernel
  · refine ⟨fun _ => by decide +kernel, ?_, ?_, inService_clears⟩
    · unfold Head.fits
      decide +kernel
    · unfold Gantry.facesOpposed
      decide +kernel

end Sys2Proof.Tests
end

section
/-! SUPPORT. The first member at fault of a list that a check visits in order, where the fault may depend on
the members visited before it. -/

namespace Sys2Proof.Machine

variable {α : Type} {fault : List α → α → Prop}

/-- No member is at fault beside those before it. -/
def Clean (fault : List α → α → Prop) (l : List α) : Prop :=
  ∀ before x after, l = before ++ x :: after → ¬fault before x

/-- The member is at fault, and none before it is. -/
def FirstAt (fault : List α → α → Prop) (l : List α) (x : α) : Prop :=
  ∃ before after, l = before ++ x :: after ∧ Clean fault before ∧ fault before x

theorem clean_nil : Clean fault [] := fun before x after h => by simp at h

theorem Clean.concat {l : List α} {x : α} (hl : Clean fault l) (hx : ¬fault l x) :
    Clean fault (l ++ [x]) := by
  intro before y after h
  rcases List.eq_nil_or_concat after with rfl | ⟨r, z, rfl⟩
  · obtain ⟨hl', hy⟩ := List.append_inj' h rfl
    obtain rfl : x = y := (List.cons.inj hy).1
    exact hl' ▸ hx
  · have h' : l ++ [x] = (before ++ y :: r) ++ [z] := by simpa using h
    exact hl before y r (List.append_inj' h' rfl).1

theorem FirstAt.not_clean {l : List α} {x : α} (h : FirstAt fault l x) : ¬Clean fault l := by
  obtain ⟨before, after, rfl, -, hx⟩ := h
  exact fun hc => hc before x after rfl hx

/-- In a list in order, whatever the order does not put after a member stands before it. -/
theorem mem_before {R : α → α → Prop} {before after : List α} {a x : α}
    (hs : (before ++ a :: after).Pairwise R) (hx : x ∈ before ++ a :: after) (hne : x ≠ a)
    (hr : ¬R a x) : x ∈ before := by
  rcases List.mem_append.1 hx with h | h
  · exact h
  · rcases List.mem_cons.1 h with rfl | h
    · exact absurd rfl hne
    · have hcons := (List.pairwise_append.1 hs).2.1
      exact absurd ((List.pairwise_cons.1 hcons).1 x h) hr

/-- What `find?` gives in a list in order: whatever the order does not put after it fails the test. -/
theorem find?_first {R : α → α → Prop} {l : List α} {p : α → Bool} {a : α} (hs : l.Pairwise R)
    (h : l.find? p = some a) : a ∈ l ∧ p a = true ∧ ∀ x ∈ l, x ≠ a → ¬R a x → p x = false := by
  obtain ⟨ha, before, after, rfl, hb⟩ := List.find?_eq_some_iff_append.1 h
  refine ⟨by simp, ha, fun x hx hne hr => ?_⟩
  simpa using hb x (mem_before hs hx hne hr)

end Sys2Proof.Machine
end

section
/-! SUPPORT. What the commissioning checks of a commit come to (R15 to R18). -/

namespace Sys2Proof.Machine

/-! ## Faces and existing heads in record order -/

theorem Bank.existing_sorted (b : Bank) : b.existing.Pairwise (· < ·) :=
  List.Pairwise.filter _ (by decide)

theorem Bank.faces_sorted (b : Bank) : b.faces.Pairwise fun x y => x.1 ≤ y.1 :=
  List.Pairwise.filter _ (by decide)

theorem Bank.faces_nodup (b : Bank) : b.faces.Nodup := List.Nodup.filter _ (by decide)

/-- A failure names the first existing head that fails. -/
def Bank.NamesFirstHead (b : Bank) (r : CommitResult) (fails : Fin 8 → Prop)
    (x : Option CommitFailure) : Prop :=
  ∀ f, x = some f → ∃ h : Fin 8, f = ⟨r, 3, h.val⟩ ∧ b.headExists h = true ∧ fails h
    ∧ ∀ h' < h, b.headExists h' = true → ¬fails h'

theorem failureAt_some {r : CommitResult} {t n : Nat} {x : Option (Fin n)} {f : CommitFailure} :
    failureAt r t x = some f ↔ ∃ i, x = some i ∧ f = ⟨r, t, i.val⟩ := by
  simp only [failureAt, Option.map_eq_some_iff, eq_comm (a := f)]

section
variable {b : Bank} {r : CommitResult} {p : Fin 8 → Bool}

/-- A check of each existing head passes when none fails. -/
theorem Bank.findHead_none :
    failureAt r 3 (b.existing.find? p) = none ↔ ∀ h, b.headExists h = true → p h = false := by
  simp only [failureAt_none, List.find?_eq_none, b.mem_existing, Bool.not_eq_true]

/-- It names the first that fails. -/
theorem Bank.findHead_first {fails : Fin 8 → Prop} (hp : ∀ h, p h = true ↔ fails h) :
    b.NamesFirstHead r fails (failureAt r 3 (b.existing.find? p)) := by
  intro f hf
  obtain ⟨h, hh, rfl⟩ := failureAt_some.1 hf
  obtain ⟨hm, ht, hb⟩ := find?_first b.existing_sorted hh
  refine ⟨h, rfl, (b.mem_existing h).1 hm, (hp h).1 ht, fun h' hlt he hf' => ?_⟩
  have := hb h' ((b.mem_existing h').2 he) hlt.ne hlt.asymm
  exact Bool.noConfusion (this.symm.trans ((hp h').2 hf'))

end

/-! ## LANE_HEAD_MISMATCH (R15) -/

/-- The head that a face entry names does not exist, or an entry before it names it too. -/
def Bank.EntryEarly (b : Bank) (before : List (Fin 4 × Face)) (kf : Fin 4 × Face) : Prop :=
  b.headExists (b.faceHead kf.1 kf.2) = false
    ∨ ∃ x ∈ before, b.faceHead x.1 x.2 = b.faceHead kf.1 kf.2

/-- The head that a face entry names is set up for another face. -/
def Bank.EntryAmiss (b : Bank) (kf : Fin 4 × Face) : Prop :=
  b.headLane (b.faceHead kf.1 kf.2) ≠ kf.1 ∨ b.headFace (b.faceHead kf.1 kf.2) ≠ kf.2

def Bank.entryFault (b : Bank) (before : List (Fin 4 × Face)) (kf : Fin 4 × Face) : Prop :=
  b.EntryEarly before kf ∨ b.EntryAmiss kf

/-- The first pass ends at a face entry at fault. -/
def Bank.FirstPassFails (b : Bank) (l : List (Fin 4 × Face)) (f : CommitFailure) : Prop :=
  ∃ before kf after, l = before ++ kf :: after ∧ Clean b.entryFault before
    ∧ ((b.EntryEarly before kf ∧ f = ⟨.laneHeadMismatch, 2, kf.1.val⟩)
      ∨ (¬b.EntryEarly before kf ∧ b.EntryAmiss kf
        ∧ f = ⟨.laneHeadMismatch, 3, (b.faceHead kf.1 kf.2).val⟩))

/-- The first pass finds no fault, and the second an existing head that no face names. -/
def Bank.SecondPassFails (b : Bank) (l : List (Fin 4 × Face)) (f : CommitFailure) : Prop :=
  ∃ h : Fin 8, f = ⟨.laneHeadMismatch, 3, h.val⟩ ∧ b.headExists h = true ∧ Clean b.entryFault l
    ∧ (∀ kf ∈ l, b.faceHead kf.1 kf.2 ≠ h)
    ∧ ∀ h' < h, b.headExists h' = true → ∃ kf ∈ l, b.faceHead kf.1 kf.2 = h'

/-- The heads that the entries visited so far name, the last first. -/
def Bank.namedBy (b : Bank) (visited : List (Fin 4 × Face)) : List (Fin 8) :=
  visited.reverse.map fun kf => b.faceHead kf.1 kf.2

theorem Bank.mem_namedBy (b : Bank) (visited : List (Fin 4 × Face)) (h : Fin 8) :
    h ∈ b.namedBy visited ↔ ∃ x ∈ visited, b.faceHead x.1 x.2 = h := by
  simp [Bank.namedBy]

theorem Bank.namedBy_concat (b : Bank) (visited : List (Fin 4 × Face)) (kf : Fin 4 × Face) :
    b.namedBy (visited ++ [kf]) = b.faceHead kf.1 kf.2 :: b.namedBy visited := by
  simp [Bank.namedBy]

/-- The second pass, with the heads that the faces visited name. -/
theorem Bank.checkLaneHeads_second {b : Bank} {visited : List (Fin 4 × Face)} {f : CommitFailure}
    (hv : Clean b.entryFault visited) (h : b.checkLaneHeads [] (b.namedBy visited) = some f) :
    b.SecondPassFails visited f := by
  unfold Bank.checkLaneHeads at h
  have unnamed : ∀ i : Fin 8, (!(b.namedBy visited).contains i) = true
      ↔ ¬∃ x ∈ visited, b.faceHead x.1 x.2 = i := fun i => by
    simp [← b.mem_namedBy]
  obtain ⟨i, rfl, he, hi, hb⟩ := Bank.findHead_first unnamed f h
  exact ⟨i, rfl, he, hv, fun kf hk hx => hi ⟨kf, hk, hx⟩, fun h' hlt he' => not_not.1 (hb h' hlt he')⟩

section
variable {b : Bank} {visited l : List (Fin 4 × Face)} {kf : Fin 4 × Face}

theorem Bank.checkLaneHeads_early (h : b.EntryEarly visited kf) :
    b.checkLaneHeads (kf :: l) (b.namedBy visited) = some ⟨.laneHeadMismatch, 2, kf.1.val⟩ := by
  unfold Bank.checkLaneHeads
  rcases h with h | h
  · simp [h]
  · simp [(b.mem_namedBy _ _).2 h]

/-- What an entry that is not early gives. -/
theorem Bank.checkLaneHeads_late (h : ¬b.EntryEarly visited kf) :
    (b.EntryAmiss kf → b.checkLaneHeads (kf :: l) (b.namedBy visited)
      = some ⟨.laneHeadMismatch, 3, (b.faceHead kf.1 kf.2).val⟩)
    ∧ (¬b.EntryAmiss kf → b.checkLaneHeads (kf :: l) (b.namedBy visited)
      = b.checkLaneHeads l (b.namedBy (visited ++ [kf]))) := by
  obtain ⟨he, hn⟩ := not_or.1 h
  rw [← b.mem_namedBy, ← List.contains_iff_mem] at hn
  refine ⟨fun ha => ?_, fun ha => ?_⟩
  · rw [Bank.checkLaneHeads, if_neg (by simpa using he), if_neg hn]
    exact if_pos ha
  · rw [Bank.checkLaneHeads, if_neg (by simpa using he), if_neg hn, b.namedBy_concat]
    exact if_neg ha

end

/-- A failure comes from the first face entry at fault, or from the second pass. `visited` are the entries
that the first pass has found sound. -/
theorem Bank.checkLaneHeads_some {b : Bank} {f : CommitFailure} (l visited : List (Fin 4 × Face))
    (hv : Clean b.entryFault visited) (h : b.checkLaneHeads l (b.namedBy visited) = some f) :
    b.FirstPassFails (visited ++ l) f ∨ b.SecondPassFails (visited ++ l) f := by
  induction l generalizing visited with
  | nil =>
    rw [List.append_nil]
    exact .inr (Bank.checkLaneHeads_second hv h)
  | cons kf l ih =>
    by_cases he : b.EntryEarly visited kf
    · rw [Bank.checkLaneHeads_early he] at h
      exact .inl ⟨visited, kf, l, rfl, hv, .inl ⟨he, (Option.some.inj h).symm⟩⟩
    · obtain ⟨late, sound⟩ := Bank.checkLaneHeads_late (l := l) he
      by_cases ha : b.EntryAmiss kf
      · rw [late ha] at h
        exact .inl ⟨visited, kf, l, rfl, hv, .inr ⟨he, ha, (Option.some.inj h).symm⟩⟩
      · rw [List.append_cons]
        exact ih _ (hv.concat (not_or.2 ⟨he, ha⟩)) (sound ha ▸ h)

/-- The faces and the existing heads correspond one to one. -/
def Bank.FacesMatchHeads (b : Bank) : Prop :=
  (∀ kf ∈ b.faces, b.headExists (b.faceHead kf.1 kf.2) = true
    ∧ b.headLane (b.faceHead kf.1 kf.2) = kf.1 ∧ b.headFace (b.faceHead kf.1 kf.2) = kf.2)
  ∧ ∀ h, b.headExists h = true → ∃ kf ∈ b.faces, b.faceHead kf.1 kf.2 = h

/-- Faces that match the heads are at no fault: a head's own fields say which face names it, so no two
faces name one head. -/
theorem Bank.FacesMatchHeads.clean {b : Bank} (hb : b.FacesMatchHeads) : Clean b.entryFault b.faces := by
  obtain ⟨own, -⟩ := hb
  rintro before kf after hs (he | ha)
  · have hkf : kf ∈ b.faces := hs ▸ by simp
    obtain ⟨hx, hl, hf⟩ := own kf hkf
    rcases he with he | ⟨x, hxm, hxe⟩
    · exact Bool.noConfusion (he.symm.trans hx)
    · obtain ⟨-, hxl, hxf⟩ := own x (hs ▸ List.mem_append_left _ hxm)
      rw [hxe] at hxl hxf
      obtain rfl : x = kf := Prod.ext (hxl.symm.trans hl) (hxf.symm.trans hf)
      have hnd := hs ▸ b.faces_nodup
      exact (List.nodup_append.1 hnd).2.2 x hxm x List.mem_cons_self rfl
  · obtain ⟨-, hl, hf⟩ := own kf (hs ▸ by simp)
    exact ha.elim (absurd hl) (absurd hf)

theorem Bank.checkLaneHeads_fails {b : Bank} {f : CommitFailure}
    (h : b.checkLaneHeads b.faces [] = some f) :
    b.FirstPassFails b.faces f ∨ b.SecondPassFails b.faces f :=
  Bank.checkLaneHeads_some b.faces [] clean_nil h

theorem Bank.checkLaneHeads_passes (b : Bank) :
    b.checkLaneHeads b.faces [] = none ↔ b.FacesMatchHeads := by
  constructor
  · intro h
    obtain ⟨own, named⟩ := b.checkLaneHeads_none _ _ h
    exact ⟨own, fun i hi => (named i hi).resolve_left (by simp)⟩
  · intro hb
    refine Option.eq_none_iff_forall_ne_some.2 fun f hf => ?_
    rcases Bank.checkLaneHeads_fails hf with ⟨before, kf, after, hs, -, hx⟩ | ⟨h, -, he, -, hn, -⟩
    · refine hb.clean before kf after hs ?_
      exact hx.elim (fun x => .inl x.1) (fun x => .inr x.2.1)
    · obtain ⟨kf, hk, hh⟩ := hb.2 h he
      exact hn kf hk hh

/-! ## PATTERN_NOT_FITTED (R16) -/

/-- OPEN, CLOSED and the closing merge are fitted. -/
def Bank.FittedOut (b : Bank) (h : Fin 8) : Prop :=
  b.fitted h .open_ = true ∧ b.fitted h .closed = true ∧ b.fitted h (b.closingMerge h) = true

/-- The test of `checkFitted`. -/
theorem Bank.unfitted_iff (b : Bank) (h : Fin 8) :
    (!(b.fitted h .open_ && b.fitted h .closed && b.fitted h (b.closingMerge h))) = true
      ↔ ¬b.FittedOut h := by
  simp only [Bank.FittedOut, Bool.not_eq_true', ← Bool.not_eq_true, Bool.and_eq_true, and_assoc]

theorem Bank.checkFitted_passes (b : Bank) :
    b.checkFitted = none ↔ ∀ h, b.headExists h = true → b.FittedOut h := by
  unfold Bank.checkFitted
  rw [Bank.findHead_none]
  refine forall₂_congr fun h _ => ?_
  rw [← Bool.not_eq_true, b.unfitted_iff, not_not]

theorem Bank.checkFitted_fails (b : Bank) :
    b.NamesFirstHead .patternNotFitted (fun h => ¬b.FittedOut h) b.checkFitted :=
  Bank.findHead_first b.unfitted_iff

/-! ## CHANNEL_SHARED (R16) -/

theorem Bank.mem_patternsAmong (b : Bank) (h : Fin 8) (as : List Aspect) (x : List PatternEntry) :
    x ∈ b.patternsAmong h as ↔ ∃ a ∈ as, b.fitted h a = true ∧ ∃ p, b.pattern h a p = x := by
  have kinds : ∀ a, x ∈ [b.pattern h a .primary, b.pattern h a .alternate]
      ↔ ∃ p, b.pattern h a p = x := fun a => by
    simp only [List.mem_cons, List.not_mem_nil, or_false]
    constructor
    · rintro (rfl | rfl)
      exacts [⟨_, rfl⟩, ⟨_, rfl⟩]
    · rintro ⟨p, rfl⟩
      cases p
      exacts [.inl rfl, .inr rfl]
  simp only [Bank.patternsAmong, List.mem_flatMap, List.mem_filter, kinds, and_assoc]

/-- Some pattern that belongs to a head passes a test. -/
theorem Bank.any_pattern (b : Bank) (h : Fin 8) (as : List Aspect) (q : List PatternEntry → Bool) :
    (b.patternsAmong h as).any q = true
      ↔ ∃ a ∈ as, b.fitted h a = true ∧ ∃ p, q (b.pattern h a p) = true := by
  simp only [List.any_eq_true, b.mem_patternsAmong]
  constructor
  · rintro ⟨x, ⟨a, ha, hf, p, rfl⟩, hq⟩
    exact ⟨a, ha, hf, p, hq⟩
  · rintro ⟨a, ha, hf, p, hq⟩
    exact ⟨_, ⟨a, ha, hf, p, rfl⟩, hq⟩

theorem repeats_iff (l : List (Fin 32)) : repeats l = true ↔ ¬l.Nodup := by
  induction l with
  | nil => simp [repeats]
  | cons c l ih =>
    rw [repeats, Bool.or_eq_true, ih, List.contains_iff_mem, List.nodup_cons, not_and_or, not_not]

/-- Some pattern of the head lists a channel twice. -/
def Bank.RepeatsChannel (b : Bank) (h : Fin 8) : Prop :=
  ∃ a ∈ litAspects, b.fitted h a = true ∧ ∃ p,
    ¬((b.pattern h a p).map PatternEntry.channel).Nodup

/-- The heads have a channel in common. -/
def Bank.SharesChannel (b : Bank) (h h' : Fin 8) : Prop :=
  ∃ c, c ∈ b.headChannels h ∧ c ∈ b.headChannels h'

theorem Bank.SharesChannel.symm {b : Bank} {h h' : Fin 8} (hs : b.SharesChannel h h') :
    b.SharesChannel h' h := hs.imp fun _ => And.symm

/-- A head that has a channel exists. -/
theorem Bank.exists_of_mem_headChannels {b : Bank} {h : Fin 8} {c : Fin 32}
    (hc : c ∈ b.headChannels h) : b.headExists h = true := by
  unfold Bank.headChannels at hc
  split at hc
  · assumption
  · simp at hc

/-- A head lists a channel twice, or has one of a head before it. -/
def Bank.shareFault (b : Bank) (before : List (Fin 8)) (h : Fin 8) : Prop :=
  b.RepeatsChannel h ∨ ∃ x ∈ before, b.SharesChannel h x

section
variable {b : Bank} {visited l : List (Fin 8)} {h : Fin 8}

/-- The two tests that `checkShared` makes of a head. -/
theorem Bank.shareFault_iff : b.shareFault visited h ↔
    ((b.patternsAmong h litAspects).any fun p => repeats (p.map PatternEntry.channel)) = true
      ∨ (b.headChannels h).any (visited.flatMap b.headChannels).contains = true := by
  refine or_congr ?_ ?_
  · simp only [b.any_pattern, repeats_iff, Bank.RepeatsChannel]
  · simp only [List.any_eq_true, List.contains_iff_mem, List.mem_flatMap, Bank.SharesChannel]
    constructor
    · rintro ⟨x, hx, c, hc, hc'⟩
      exact ⟨c, hc, x, hx, hc'⟩
    · rintro ⟨c, hc, x, hx, hc'⟩
      exact ⟨x, hx, c, hc, hc'⟩

theorem Bank.checkShared_fault (hf : b.shareFault visited h) :
    b.checkShared (h :: l) (visited.flatMap b.headChannels) = some ⟨.channelShared, 3, h.val⟩ := by
  rw [Bank.checkShared]
  rcases Bank.shareFault_iff.1 hf with hx | hx
  · rw [if_pos hx]
  · rw [if_pos hx, ite_self]

theorem Bank.checkShared_sound (hf : ¬b.shareFault visited h) :
    b.checkShared (h :: l) (visited.flatMap b.headChannels)
      = b.checkShared l ((visited ++ [h]).flatMap b.headChannels) := by
  obtain ⟨h1, h2⟩ := not_or.1 fun x => hf (Bank.shareFault_iff.2 x)
  rw [Bank.checkShared, if_neg h1, if_neg h2]
  simp

end

/-- The check passes when no head is at fault, and names the first that is. `visited` are the heads found
sound so far. -/
theorem Bank.checkShared_cases (b : Bank) (l visited : List (Fin 8)) (hv : Clean b.shareFault visited) :
    (b.checkShared l (visited.flatMap b.headChannels) = none ∧ Clean b.shareFault (visited ++ l))
    ∨ ∃ h, b.checkShared l (visited.flatMap b.headChannels) = some ⟨.channelShared, 3, h.val⟩
      ∧ FirstAt b.shareFault (visited ++ l) h := by
  induction l generalizing visited with
  | nil =>
    rw [List.append_nil]
    exact .inl ⟨rfl, hv⟩
  | cons h l ih =>
    by_cases hf : b.shareFault visited h
    · exact .inr ⟨h, Bank.checkShared_fault hf, visited, l, rfl, hv, hf⟩
    · rw [Bank.checkShared_sound hf, List.append_cons visited h l]
      exact ih _ (hv.concat hf)

/-- A head is at fault beside those before it. -/
def Bank.SharesEarlier (b : Bank) (h : Fin 8) : Prop :=
  b.RepeatsChannel h ∨ ∃ h' < h, b.SharesChannel h h'

/-- Among the existing heads in order, those before a head are the existing heads below it. -/
theorem Bank.shareFault_existing {b : Bank} {before after : List (Fin 8)} {h : Fin 8}
    (he : b.existing = before ++ h :: after) : b.shareFault before h ↔ b.SharesEarlier h := by
  have hs := he ▸ b.existing_sorted
  refine or_congr Iff.rfl ⟨?_, ?_⟩
  · rintro ⟨x, hx, hsh⟩
    exact ⟨x, (List.pairwise_append.1 hs).2.2 x hx h List.mem_cons_self, hsh⟩
  · rintro ⟨x, hx, c, hc, hc'⟩
    have hm : x ∈ before ++ h :: after := he ▸ (b.mem_existing x).2 (Bank.exists_of_mem_headChannels hc')
    exact ⟨x, mem_before hs hm hx.ne hx.asymm, c, hc, hc'⟩

/-- Members of a clean stretch of the existing heads are at no fault. -/
theorem Bank.not_sharesEarlier {b : Bank} {before after : List (Fin 8)} {h : Fin 8}
    (he : b.existing = before ++ after) (hc : Clean b.shareFault before) (hm : h ∈ before) :
    ¬b.SharesEarlier h := by
  obtain ⟨l, r, rfl⟩ := List.append_of_mem hm
  rw [← Bank.shareFault_existing (after := r ++ after) (by simpa using he)]
  exact hc l h r rfl

theorem Bank.clean_existing (b : Bank) : Clean b.shareFault b.existing ↔
    ∀ h, b.headExists h = true → ¬b.SharesEarlier h := by
  constructor
  · exact fun hc h hx =>
      Bank.not_sharesEarlier (List.append_nil _).symm hc ((b.mem_existing h).2 hx)
  · intro hn before h after he
    rw [Bank.shareFault_existing he]
    exact hn h ((b.mem_existing h).1 (he ▸ by simp))

theorem Bank.checkShared_fails (b : Bank) :
    b.NamesFirstHead .channelShared b.SharesEarlier (b.checkShared b.existing []) := by
  intro f hf
  rcases b.checkShared_cases b.existing [] clean_nil with ⟨hn, -⟩ | ⟨h, hs, before, after, he, hc, hx⟩
  · exact nomatch hn.symm.trans hf
  · rw [List.nil_append] at he
    have hm : h ∈ b.existing := he ▸ by simp
    refine ⟨h, Option.some.inj (hf.symm.trans hs), (b.mem_existing h).1 hm,
      (Bank.shareFault_existing he).1 hx, fun h' hlt hx' => ?_⟩
    have hm' : h' ∈ before ++ h :: after := he ▸ (b.mem_existing h').2 hx'
    exact Bank.not_sharesEarlier he hc (mem_before (he ▸ b.existing_sorted) hm' hlt.ne hlt.asymm)

theorem Bank.checkShared_passes (b : Bank) : b.checkShared b.existing [] = none ↔
    (∀ h, b.headExists h = true → ¬b.RepeatsChannel h) ∧ ∀ h h', h ≠ h' → ¬b.SharesChannel h h' := by
  have hclean : b.checkShared b.existing [] = none ↔ Clean b.shareFault b.existing := by
    rcases b.checkShared_cases b.existing [] clean_nil with ⟨hn, hc⟩ | ⟨h, hs, hf⟩
    · exact iff_of_true hn hc
    · exact iff_of_false (fun hn => nomatch hn.symm.trans hs) hf.not_clean
  rw [hclean, b.clean_existing]
  constructor
  · intro hn
    refine ⟨fun h hx hr => hn h hx (.inl hr), fun h h' hne hs => ?_⟩
    obtain ⟨c, hc, hc'⟩ := hs
    rcases lt_or_gt_of_ne hne with hlt | hlt
    · exact hn h' (Bank.exists_of_mem_headChannels hc') (.inr ⟨h, hlt, c, hc', hc⟩)
    · exact hn h (Bank.exists_of_mem_headChannels hc) (.inr ⟨h', hlt, c, hc, hc'⟩)
  · rintro ⟨hr, hs⟩ h hx (hf | ⟨h', hlt, hf⟩)
    · exact hr h hx hf
    · exact hs h h' hlt.ne' hf

/-! ## CHANNEL_CLASS_OVERLAP and NO_ESSENTIAL (R17) -/

/-- A channel of the head is both permissive and restrictive. -/
def Bank.Overlaps (b : Bank) (h : Fin 8) : Prop :=
  ∃ c, c ∈ b.permissiveChannels h ∧ c ∈ b.restrictiveChannels h

theorem Bank.overlaps_iff (b : Bank) (h : Fin 8) :
    (b.permissiveChannels h).any (b.restrictiveChannels h).contains = true ↔ b.Overlaps h := by
  simp only [List.any_eq_true, List.contains_iff_mem, Bank.Overlaps]

theorem Bank.exists_of_overlaps {b : Bank} {h : Fin 8} (ho : b.Overlaps h) :
    b.headExists h = true := by
  obtain ⟨c, hc, -⟩ := ho
  unfold Bank.permissiveChannels at hc
  split at hc
  · assumption
  · simp at hc

theorem Bank.checkOverlap_passes (b : Bank) : b.checkOverlap = none ↔
    ∀ h c, c ∈ b.permissiveChannels h → c ∉ b.restrictiveChannels h := by
  unfold Bank.checkOverlap
  rw [Bank.findHead_none]
  constructor
  · intro hn h c hp hr
    have ho : b.Overlaps h := ⟨c, hp, hr⟩
    have := hn h (Bank.exists_of_overlaps ho)
    exact Bool.noConfusion (this.symm.trans ((b.overlaps_iff h).2 ho))
  · intro hd h _
    rw [← Bool.not_eq_true, b.overlaps_iff]
    exact fun ⟨c, hp, hr⟩ => hd h c hp hr

theorem Bank.checkOverlap_fails (b : Bank) :
    b.NamesFirstHead .channelClassOverlap b.Overlaps b.checkOverlap :=
  Bank.findHead_first b.overlaps_iff

/-- Some pattern of the head that is not empty has no essential entry. -/
def Bank.LacksEssential (b : Bank) (h : Fin 8) : Prop :=
  ∃ a ∈ litAspects, b.fitted h a = true ∧ ∃ p,
    b.pattern h a p ≠ [] ∧ ∀ e ∈ b.pattern h a p, e.essential = false

theorem Bank.lacksEssential_iff (b : Bank) (h : Fin 8) :
    ((b.patternsAmong h litAspects).any fun p => !p.isEmpty && !p.any PatternEntry.essential) = true
      ↔ b.LacksEssential h := by
  simp only [b.any_pattern, Bank.LacksEssential, Bool.and_eq_true, Bool.not_eq_true',
    List.isEmpty_eq_false_iff, List.any_eq_false, Bool.not_eq_true]

theorem Bank.checkEssential_passes (b : Bank) : b.checkEssential = none ↔
    ∀ h, b.headExists h = true → ∀ a ∈ litAspects, b.fitted h a = true →
      ∀ p, b.pattern h a p ≠ [] → ∃ e ∈ b.pattern h a p, e.essential = true := by
  unfold Bank.checkEssential
  rw [Bank.findHead_none]
  refine forall₂_congr fun h _ => ?_
  rw [← Bool.not_eq_true, b.lacksEssential_iff]
  simp only [Bank.LacksEssential, not_exists, not_and, not_forall, Bool.not_eq_false, exists_prop]

theorem Bank.checkEssential_fails (b : Bank) :
    b.NamesFirstHead .noEssential b.LacksEssential b.checkEssential :=
  Bank.findHead_first b.lacksEssential_iff

/-! ## NEIGHBOUR_SELF and NO_LANES (R18) -/

/-- A reference of the face names the address. -/
def Bank.RefersToAddress (b : Bank) (address : Nat) (kf : Fin 4 × Face) : Prop :=
  ∃ r, (b.upstream kf.1 kf.2 = some r ∨ b.downstream kf.1 kf.2 = some r) ∧ r.address.toNat = address

/-- The test of `checkSelf`. -/
theorem Bank.refersToAddress_iff (b : Bank) (address : Nat) (kf : Fin 4 × Face) :
    (((b.upstream kf.1 kf.2).toList ++ (b.downstream kf.1 kf.2).toList).any
      fun r => r.address.toNat == address) = true ↔ b.RefersToAddress address kf := by
  simp only [List.any_eq_true, List.mem_append, Option.mem_toList, beq_iff_eq,
    Bank.RefersToAddress]

theorem Bank.checkSelf_passes (b : Bank) (address : Nat) : b.checkSelf address = none ↔
    address = 0 ∨ ∀ kf ∈ b.faces, ¬b.RefersToAddress address kf := by
  unfold Bank.checkSelf
  split
  · simp [*]
  · simp only [*, false_or, Option.map_eq_none_iff, List.find?_eq_none, b.refersToAddress_iff]

theorem Bank.checkSelf_fails {b : Bank} {address : Nat} {f : CommitFailure}
    (h : b.checkSelf address = some f) : ∃ kf ∈ b.faces, b.RefersToAddress address kf
      ∧ f = ⟨.neighbourSelf, 2, kf.1.val⟩
      ∧ ∀ x ∈ b.faces, x.1 < kf.1 → ¬b.RefersToAddress address x := by
  unfold Bank.checkSelf at h
  split at h
  · cases h
  · obtain ⟨kf, hk, rfl⟩ := Option.map_eq_some_iff.1 h
    obtain ⟨hm, ht, hb⟩ := find?_first b.faces_sorted hk
    refine ⟨kf, hm, (b.refersToAddress_iff _ _).1 ht, rfl, fun x hx hlt hr => ?_⟩
    have := hb x hx (fun he => hlt.ne (congrArg Prod.fst he)) (not_le.2 hlt)
    exact Bool.noConfusion (this.symm.trans ((b.refersToAddress_iff _ _).2 hr))

theorem mem_allLanes : ∀ k : Fin 4, k ∈ allLanes := by decide

theorem Bank.checkLanes_passes (b : Bank) : b.checkLanes = none ↔ ∃ k, b.laneKind k ≠ .absent := by
  unfold Bank.checkLanes
  simp only [ite_eq_right_iff, reduceCtorEq, imp_false, List.all_eq_true, mem_allLanes, true_implies,
    beq_iff_eq, not_forall, ne_eq]

theorem Bank.checkLanes_fails {b : Bank} {f : CommitFailure} (h : b.checkLanes = some f) :
    f = ⟨.noLanes, 2, 0⟩ := by
  unfold Bank.checkLanes at h
  split at h
  · exact (Option.some.inj h).symm
  · cases h

/-! ## The commissioning checks -/

/-- No entry of a clean stretch is early or amiss. -/
theorem Bank.not_fault_of_clean {b : Bank} {l : List (Fin 4 × Face)} (hc : Clean b.entryFault l) :
    ∀ before x after, l = before ++ x :: after → ¬b.EntryEarly before x ∧ ¬b.EntryAmiss x :=
  fun before x after h => not_or.1 (hc before x after h)

/-- Settles O40: each check is the first-fault search of its rule, over the faces or the existing heads in
record order. -/
theorem commissioningConstraints : Obligations.CommissioningConstraints := by
  unfold Obligations.CommissioningConstraints
  intro b
  refine ⟨b.checkLaneHeads_passes, fun f hf => ?_, b.checkFitted_passes, b.checkFitted_fails,
    b.checkShared_passes, b.checkShared_fails, b.checkOverlap_passes, b.checkOverlap_fails,
    b.checkEssential_passes, b.checkEssential_fails,
    fun address => ⟨b.checkSelf_passes address, fun _ => Bank.checkSelf_fails⟩,
    b.checkLanes_passes, fun _ => Bank.checkLanes_fails⟩
  rcases Bank.checkLaneHeads_fails hf with ⟨before, kf, after, hs, hc, hx⟩ | ⟨h, rfl, he, hc, hn, hb⟩
  · exact .inl ⟨before, kf, after, hs, Bank.not_fault_of_clean hc, hx⟩
  · exact .inr ⟨h, rfl, he, Bank.not_fault_of_clean hc, hn, hb⟩

end Sys2Proof.Machine
end

section
/-! SUPPORT. What the heads show, and what the lit set makes of channels, proving and lanes at a change of a
displayed aspect and at a slew tick (R11, R139, R142, R149, R153, R89). -/

namespace Sys2Proof.Machine

/-! ## What a head shows (R11) -/

theorem Head.shown_test {hd : Head} {x : LampTest} (h : hd.test = some x) :
    hd.shown = some (x.aspect, x.pattern) := by
  unfold Head.shown
  rw [h]

theorem Head.shown_dark {hd : Head} (h : hd.test = none) (hd' : hd.displayed = .dark) :
    hd.shown = none := by
  unfold Head.shown
  rw [h]
  exact if_pos hd'

theorem Head.shown_displayed {hd : Head} (h : hd.test = none) (hd' : hd.displayed ≠ .dark) :
    hd.shown
      = some (hd.displayed, if hd.altFlag hd.displayed then .alternate else .primary) := by
  unfold Head.shown
  rw [h]
  exact if_neg hd'

theorem Bank.mem_shownPattern (b : Bank) (h : Fin 8) (hd : Head) (x : PatternEntry) :
    x ∈ b.shownPattern h hd ↔
      b.headExists h = true ∧ ∃ a p, hd.shown = some (a, p) ∧ x ∈ b.pattern h a p := by
  unfold Bank.shownPattern
  cases b.headExists h
  · simp
  · rcases hd.shown with _ | ⟨a, p⟩ <;> simp

/-- The displayed pattern follows from what the head shows. -/
theorem Bank.shownPattern_congr (b : Bank) (h : Fin 8) {x y : Head} (hs : x.shown = y.shown) :
    b.shownPattern h x = b.shownPattern h y := by
  unfold Bank.shownPattern
  rw [hs]

/-! ## A change of a displayed aspect -/

/-- Every channel of the pattern that a head comes to show settles anew. -/
theorem Gantry.relit.settled {g g' : Gantry} {was is anew : Fin 32 → Prop} {c : Fin 32}
    (h : g.relit g' was is anew) (hi : is c) (ha : anew c) :
    g'.channels[c].settle = 0 ∧ g'.channels[c].fault = 0 := by
  obtain ⟨joins, -, restarts, -, -⟩ := h.1 c
  by_cases hw : was c
  · rw [restarts hw hi ha]
    exact ⟨rfl, rfl⟩
  · rw [joins hw hi]
    exact ⟨rfl, rfl⟩

/-- A channel that stays lit keeps its output, whether it settles anew or not. -/
theorem Gantry.relit.output {g g' : Gantry} {was is anew : Fin 32 → Prop} {c : Fin 32}
    (h : g.relit g' was is anew) (hw : was c) (hi : is c) :
    g'.channels[c].output = g.channels[c].output := by
  obtain ⟨-, -, restarts, stands, -⟩ := h.1 c
  by_cases ha : anew c
  · rw [restarts hw hi ha]
  · rw [stands hw hi ha]

/-- Channels and slew timer follow what the heads show before and after the event. -/
theorem Gantry.relit_shown (g : Gantry) (b : Bank) (heads : Vector Head 8) :
    let g' := g.relight b b (fun _ => false) heads
    g.relit g' (fun c => c ∈ b.litChannels g.heads) (fun c => c ∈ b.litChannels g'.heads)
      (fun c => ∃ i : Fin 8, g'.heads[i].shown ≠ g.heads[i].shown
        ∧ ∃ x ∈ b.shownPattern i g'.heads[i], x.channel = c) := by
  intro g'
  have hs := fun i => (g.relight_heads b b (fun _ => false) heads i).shown
  have hp := fun i => b.shownPattern_congr i (hs i)
  refine (g.relit_relight b b (fun _ => false) heads).congr (fun _ => Iff.rfl) (fun c => ?_)
    (fun c _ _ => ?_)
  · rw [g.relight_lit]
  · simp only [Bool.false_eq_true, false_or, g', hs, hp]

section
variable (e : Env) (h : Fin 8) (a : Aspect) (st : Stage) (g : Gantry)

/-- The event of a change of a displayed aspect. -/
theorem Env.change_relit : g.relit (e.change h a st g) (fun c => c ∈ e.bank.litChannels g.heads)
    (fun c => c ∈ e.bank.litChannels (e.change h a st g).heads)
    (fun c => ∃ i : Fin 8, (e.change h a st g).heads[i].shown ≠ g.heads[i].shown
      ∧ ∃ x ∈ e.bank.shownPattern i (e.change h a st g).heads[i], x.channel = c) :=
  (Gantry.relit_shown { g with lanes := e.lanesAfter h a g } e.bank _).of_eq rfl rfl

/-- The channels of a pattern that a head comes to show settle. -/
theorem Env.change_settles {i : Fin 8}
    (hm : (e.change h a st g).heads[i].shown ≠ g.heads[i].shown) {x : PatternEntry}
    (hx : x ∈ e.bank.shownPattern i (e.change h a st g).heads[i]) :
    (e.change h a st g).channels[x.channel].settle = 0
      ∧ (e.change h a st g).channels[x.channel].fault = 0 :=
  (e.change_relit h a st g).settled ((Bank.mem_litChannels _ _ _).2 ⟨i, x, hx, rfl⟩)
    ⟨i, hm, x, hx, rfl⟩

end

/-- A pattern whose channels settle is not judged. -/
theorem provingOf_settling {p : List PatternEntry} {channels : Vector Channel 32}
    (h : ∀ x ∈ p, channels[x.channel].settle = 0) : provingOf p channels = .unproven := by
  unfold provingOf
  cases p with
  | nil => rfl
  | cons x p =>
    have hx : ((x :: p).any fun e => channels[e.channel].settle < 2) = true :=
      List.any_eq_true.2 ⟨x, List.mem_cons_self,
        decide_eq_true (lt_of_eq_of_lt (h x List.mem_cons_self) two_pos)⟩
    rw [hx]
    rfl

/-- The proving state of a head is that of the record given, judged anew where its pattern changes. -/
theorem Gantry.relight_proving (g : Gantry) (b : Bank) (heads : Vector Head 8) (i : Fin 8) :
    let g' := g.relight b b (fun _ => false) heads
    g'.heads[i].proving = if g'.heads[i].shown = g.heads[i].shown then heads[i].proving
      else provingOf (b.shownPattern i g'.heads[i]) g'.channels := by
  intro g'
  have hs := (g.relight_heads b b (fun _ => false) heads i).shown
  rw [b.shownPattern_congr i hs, hs]
  by_cases hm : heads[i].shown = g.heads[i].shown
  · rw [if_pos hm]
    simp only [Fin.getElem_fin] at hm
    simp [g', Gantry.relight, hm]
  · rw [if_neg hm]
    simp only [Fin.getElem_fin] at hm
    simp [g', Gantry.relight, hm]

theorem Env.change_proving (e : Env) (h : Fin 8) (a : Aspect) (st : Stage) (g : Gantry) (i : Fin 8) :
    (e.change h a st g).heads[i].proving
      = if (e.change h a st g).heads[i].shown = g.heads[i].shown then g.heads[i].proving
        else .unproven := by
  have given : (g.heads.set h (g.heads[h].showing e.now a st))[i].proving = g.heads[i].proving := by
    by_cases hi : i = h
    · rw [hi, heads_set_self]
      rfl
    · rw [heads_set_ne _ _ _ _ hi]
  have hp : (e.change h a st g).heads[i].proving
      = if (e.change h a st g).heads[i].shown = g.heads[i].shown then
          (g.heads.set h (g.heads[h].showing e.now a st))[i].proving
        else provingOf (e.bank.shownPattern i (e.change h a st g).heads[i])
          (e.change h a st g).channels :=
    Gantry.relight_proving { g with lanes := e.lanesAfter h a g } e.bank _ i
  rw [hp, given]
  exact ite_congr rfl (fun _ => rfl)
    fun hm => provingOf_settling fun x hx => (e.change_settles h a st g hm hx).1

/-! ## The lanes at a change (R89) -/

section
variable {e : Env} {h : Fin 8} {k : Fin 4} {f : Face} (a : Aspect) (g : Gantry)

/-- A head that serves no face changes no lane. -/
theorem Env.lanesAfter_unserved (hs : e.bank.servedFace h = none) : e.lanesAfter h a g = g.lanes := by
  unfold Env.lanesAfter
  rw [hs]

/-- A head that serves a face of another lane than a TIDAL one changes none. -/
theorem Env.lanesAfter_not_tidal (hs : e.bank.servedFace h = some (k, f)) (hk : e.bank.tidal k = false) :
    e.lanesAfter h a g = g.lanes := by
  unfold Env.lanesAfter
  rw [hs]
  exact if_neg (by simp [hk])

/-- A head changes no lane but that of the face it serves. -/
theorem Env.lanesAfter_ne (hs : e.bank.servedFace h = some (k, f)) {j : Fin 4} (hj : j ≠ k) :
    (e.lanesAfter h a g)[j] = g.lanes[j] := by
  have other : ∀ x, (g.lanes.set k x)[j] = g.lanes[j] := fun x =>
    (lanes_set_get g.lanes k x j).trans (if_neg hj)
  unfold Env.lanesAfter
  rw [hs]
  dsimp only
  split_ifs
  exacts [other _, other _, rfl, rfl]

end

/-! ## A slew tick (R142) -/

/-- Time leaves what the heads show. -/
theorem Head.elapse_shown (n : Nat) (hd : Head) : (hd.elapse n).shown = hd.shown := rfl

/-- Time leaves the lit set. -/
theorem State.elapse_lit (s : State) (n : Nat) (b : Bank) :
    b.litChannels (s.elapse n).gantry.heads = b.litChannels s.gantry.heads := by
  refine b.litChannels_congr fun i => ?_
  simp only [State.elapse, Gantry.elapse]
  split
  · rfl
  · simp only [Fin.getElem_fin, Vector.getElem_ofFn]
    exact Head.elapse_shown n _

/-- The slew timer that runs is due when the time that it lacks has passed. -/
theorem State.elapse_slewDue {s : State} {n : Nat} (h : s.gantry.slew = some n) :
    (s.elapse (s.store.active.slewTickMs - n)).slewDue = true := by
  simp only [State.slewDue, State.elapse, Gantry.elapse, h, Option.map_some, decide_eq_true_eq]
  omega

/-- The step of a channel in signed arithmetic. -/
theorem Channel.slewMove_eq (x : Channel) (step : Nat) : x.slewMove step = { x with output :=
    if (x.target : Int) - x.output > step then x.output + step
    else if (x.output : Int) - x.target > step then x.output - step
    else x.target } := by
  have up : x.output + step < x.target ↔ (x.target : Int) - x.output > step := by omega
  have down : x.target + step < x.output ↔ (x.output : Int) - x.target > step := by omega
  simp only [Channel.slewMove, up, down]

theorem Gantry.slewTick_channel (g : Gantry) (b : Bank) (c : Fin 32) :
    (g.slewTick b).channels[c] = if c ∈ b.litChannels g.heads then g.channels[c].slewMove b.slewStep
      else g.channels[c] := by
  simp [Gantry.slewTick]

/-- After a tick the timer runs, from 0, while a lit channel ramps. -/
theorem Gantry.slewTick_slew (g : Gantry) (b : Bank)
    [Decidable (∃ c : Fin 32, c ∈ b.litChannels g.heads
      ∧ (g.slewTick b).channels[c].output ≠ (g.slewTick b).channels[c].target)] :
    (g.slewTick b).slew = if ∃ c : Fin 32, c ∈ b.litChannels g.heads
      ∧ (g.slewTick b).channels[c].output ≠ (g.slewTick b).channels[c].target then some 0 else none := by
  have ramps : ((b.litChannels g.heads).any fun c =>
      (g.slewTick b).channels[c].output != (g.slewTick b).channels[c].target) = true
      ↔ ∃ c : Fin 32, c ∈ b.litChannels g.heads
        ∧ (g.slewTick b).channels[c].output ≠ (g.slewTick b).channels[c].target := by
    simp only [List.any_eq_true, bne_iff_ne]
  exact if_congr ramps rfl rfl

/-- A slew tick with no timer due before it: time passes, the tick is made, and the schedule is tested. -/
theorem exec_slewTick_quiet {s : State} {n : Nat} (hw : s.works = true) (hn : s.gantry.slew = some n)
    (hq : s.store.active.slewTickMs - n ≤ s.untilNext) :
    exec .slewTick s = .next (s.elapse (s.store.active.slewTickMs - n)).slewTick.dueTest := by
  have hexec : exec .slewTick s = execSlewTick s := rfl
  rw [hexec, execSlewTick, live_of_works hw]
  simp only [hn, State.timed, State.reach_of_le hq]
  rw [State.dueSlew, if_pos (State.elapse_slewDue hn)]

/-! ## The statement's parts -/

/-- The channels at one change. -/
theorem Env.change_channel (e : Env) (h : Fin 8) (a : Aspect) (st : Stage) (g : Gantry) (c : Fin 32) :
    let was := c ∈ e.bank.litChannels g.heads
    let g' := e.change h a st g
    let is := c ∈ e.bank.litChannels g'.heads
    (¬was → is → g'.channels[c] = { g.channels[c] with
      output := g.channels[c].target, settle := 0, fault := 0, stuck := 0 })
    ∧ (was → ¬is → g'.channels[c] = { g.channels[c] with output := 0, settle := 0, fault := 0 })
    ∧ (was → is → g'.channels[c].output = g.channels[c].output)
    ∧ (¬was → ¬is → g'.channels[c] = g.channels[c])
    ∧ (g'.heads[h].shown ≠ g.heads[h].shown →
        (∃ x ∈ e.bank.shownPattern h g'.heads[h], x.channel = c) →
        g'.channels[c].settle = 0 ∧ g'.channels[c].fault = 0) := by
  have hr := e.change_relit h a st g
  obtain ⟨joins, leaves, -, -, stays⟩ := hr.1 c
  refine ⟨joins, leaves, hr.output, stays, ?_⟩
  rintro hm ⟨x, hx, rfl⟩
  exact e.change_settles h a st g hm hx

/-- The lane of a face at one change of the head that serves it. -/
theorem Env.change_lane {e : Env} {h : Fin 8} {k : Fin 4} {f : Face}
    (hs : e.bank.servedFace h = some (k, f)) (a : Aspect) (st : Stage) (g : Gantry) :
    let g' := e.change h a st g
    let was := g.heads[h].displayed
    (∀ j : Fin 4, j ≠ k → g'.lanes[j] = g.lanes[j])
    ∧ (e.bank.tidal k = false → g'.lanes[k] = g.lanes[k])
    ∧ (e.bank.tidal k = true →
      (was = .closed → a ≠ .closed → g'.lanes[k] = { g.lanes[k] with
        clearSince := none, clearCount := 0, clear := false })
      ∧ (was ≠ .closed → a = .closed →
        g'.lanes[k] = if g.heads[e.bank.faceHead k f.other].displayed = .closed then
          { g.lanes[k] with clearSince := some e.now, clearCount := 0, clear := false }
        else g.lanes[k])
      ∧ ((was = .closed ↔ a = .closed) → g'.lanes[k] = g.lanes[k])) := by
  dsimp only
  rw [e.change_lanes]
  refine ⟨fun j hj => Env.lanesAfter_ne a g hs hj, fun hk => by rw [Env.lanesAfter_not_tidal a g hs hk],
    fun hk => ?_⟩
  rw [e.lanesAfter_served h a g hs hk]
  refine ⟨fun hw ha => if_pos ⟨hw, ha⟩, fun hw ha => ?_, fun hwa => ?_⟩
  · rw [if_neg fun x => hw x.1]
    exact if_congr ⟨fun x => x.2.2, fun x => ⟨hw, ha, x⟩⟩ rfl rfl
  · rw [if_neg fun x => x.2 (hwa.1 x.1), if_neg fun x => x.1 (hwa.2 x.2.1)]

/-- Settles O48: what heads show and the lit set by their definitions, a change of a displayed aspect by
`Env.change_relit`, and a slew tick by its step on each lit channel. -/
theorem outputsFollowTheLitSet : Obligations.OutputsFollowTheLitSet := by
  unfold Obligations.OutputsFollowTheLitSet
  refine ⟨fun hd => ⟨fun _ => Head.shown_test, Head.shown_dark, fun ht hd' => ?_⟩,
    fun b heads => ⟨fun h => b.mem_shownPattern h heads[h], b.mem_litChannels heads⟩,
    Env.change_channel,
    fun e h a st g => ⟨e.change_proving h a st g, fun hs => ?_, fun k f hs => Env.change_lane hs a st g⟩,
    fun s n hw hn => ?_⟩
  · rw [Head.shown_displayed ht hd']
    cases hx : hd.displayed <;> rfl
  · rw [e.change_lanes, Env.lanesAfter_unserved a g hs]
  · intro b lit u hq
    have hlit : ∀ c, c ∈ b.litChannels u.gantry.heads ↔ lit c := fun c => by
      rw [s.elapse_lit]
    have channel := fun c => u.gantry.slewTick_channel b c
    refine ⟨u.slewTick, exec_slewTick_quiet hw hn hq, fun c hc => ?_, fun c hc => ?_, ?_, rfl⟩
    · exact (channel c).trans ((if_pos ((hlit c).2 hc)).trans (Channel.slewMove_eq _ _))
    · exact (channel c).trans (if_neg fun x => hc ((hlit c).1 x))
    · exact (u.gantry.slewTick_slew b).trans
        (if_congr (exists_congr fun c => and_congr_left' (hlit c)) rfl rfl)

end Sys2Proof.Machine
end

section
/-! SUPPORT. The ranges of the Take Unit under its operations (R66, R77 to R82). -/

namespace Sys2Proof.Machine

/-! ## The time remaining of a due time (R77, R79) -/

/-- An entry is not due while between 1 ms and half the clock's range remain. -/
theorem ScheduleEntry.not_due_iff (e : ScheduleEntry) (clock : Clock) :
    e.isDue clock = false ↔ 1 ≤ remaining e.due clock ∧ remaining e.due clock ≤ 2 ^ 31 := by
  simp only [ScheduleEntry.isDue, remaining, decide_eq_false_iff_not, BitVec.toNat_sub]
  have := e.due.isLt
  have := clock.isLt
  omega

/-- The time remaining tells due times apart. -/
theorem remaining_inj {a b clock : Clock} (h : remaining a clock = remaining b clock) : a = b :=
  sub_left_injective (BitVec.eq_of_toNat_eq h)

/-- As the clock goes on by no more than the time remaining, this falls by as much. -/
theorem remaining_later {due clock : Clock} {n : Nat} (h : n ≤ remaining due clock) :
    remaining due (clock + BitVec.ofNat 32 n) = remaining due clock - n := by
  simp only [remaining, BitVec.toNat_sub, BitVec.toNat_add, BitVec.toNat_ofNat] at h ⊢
  have := due.isLt
  have := clock.isLt
  omega

/-- Two due times that are not due on a clock newly set keep their order. -/
theorem remaining_order {a b clock clock' : Clock} (ha : 1 ≤ remaining a clock')
    (ha' : remaining a clock' ≤ 2 ^ 31) (hb : 1 ≤ remaining b clock')
    (hb' : remaining b clock' ≤ 2 ^ 31) (h : remaining a clock < remaining b clock)
    (hm : remaining b clock ≤ 2 ^ 31) : remaining a clock' < remaining b clock' := by
  simp only [remaining, BitVec.toNat_sub] at *
  have := a.isLt
  have := b.isLt
  have := clock.isLt
  have := clock'.isLt
  omega

/-! ## The ranges, operation by operation -/

section
variable {t : TakeUnit} (h : t.inRanges)
include h

theorem TakeUnit.inRanges_flag (b : Bool) : { t with scheduleFull := b }.inRanges := h

theorem TakeUnit.inRanges_plan {p : Nat} (hp : p ≤ 64) : { t with currentPlan := p }.inRanges := by
  obtain ⟨-, rest⟩ := h
  exact ⟨hp, rest⟩

theorem TakeUnit.inRanges_pending {o : Option Nat} (ho : ∀ p ∈ o, 1 ≤ p ∧ p ≤ 64) :
    { t with pendingPlan := o }.inRanges := by
  obtain ⟨current, -, rest⟩ := h
  exact ⟨current, ho, rest⟩

/-- A schedule with entries gone. -/
theorem TakeUnit.inRanges_sublist {l : List ScheduleEntry} (hl : l.Sublist t.schedule) :
    { t with schedule := l }.inRanges := by
  obtain ⟨current, pending, count, dues, order, entries⟩ := h
  exact ⟨current, pending, hl.length_le.trans count, dues.sublist (hl.map _), order.sublist hl,
    fun e he => entries e (hl.subset he)⟩

theorem TakeUnit.inRanges_cleared : t.cleared.inRanges :=
  TakeUnit.inRanges_pending (TakeUnit.inRanges_sublist h (List.nil_sublist _)) (by simp [TakeUnit.cleared])

/-- The clock set, and the entries gone that are due then. -/
theorem TakeUnit.inRanges_fired (c : Clock) :
    { t with clock := c, schedule := t.schedule.filter fun e => !e.isDue c }.inRanges := by
  obtain ⟨current, pending, count, dues, order, entries⟩ :=
    TakeUnit.inRanges_sublist h (List.filter_sublist (p := fun e => !e.isDue c))
  have left : ∀ e ∈ t.schedule.filter fun e => !e.isDue c,
      1 ≤ remaining e.due c ∧ remaining e.due c ≤ 2 ^ 31 := fun e he =>
    (e.not_due_iff c).1 (by simpa using (List.mem_filter.1 he).2)
  refine ⟨current, pending, count, dues, order.imp_of_mem fun {x y} hx hy hxy => ?_, fun e he => ?_⟩
  · obtain ⟨x1, x2⟩ := left x hx
    obtain ⟨y1, y2⟩ := left y hy
    exact remaining_order x1 x2 y1 y2 hxy (entries y hy).1
  · exact ⟨(left e he).2, (entries e he).2⟩

/-- The clock goes on by no more than the time remaining of any entry. -/
theorem TakeUnit.inRanges_elapse {n : Nat} (hn : ∀ e ∈ t.schedule, n ≤ remaining e.due t.clock) :
    { t with clock := t.clock + BitVec.ofNat 32 n }.inRanges := by
  obtain ⟨current, pending, count, dues, order, entries⟩ := h
  refine ⟨current, pending, count, dues, order.imp_of_mem fun {x y} hx hy hxy => ?_, fun e he => ?_⟩
  · have := hn x hx
    simp only [remaining_later (hn x hx), remaining_later (hn y hy)]
    omega
  · obtain ⟨far, plan⟩ := entries e he
    simp only [remaining_later (hn e he)]
    exact ⟨by omega, plan⟩

/-- The entry of a due time given another plan. -/
theorem TakeUnit.inRanges_replace {due : Clock} {p : Nat} (hp : 1 ≤ p ∧ p ≤ 64) :
    { t with schedule := t.schedule.map fun (e : ScheduleEntry) =>
      if e.due = due then ⟨due, p⟩ else e }.inRanges := by
  obtain ⟨current, pending, count, dues, order, entries⟩ := h
  have same : ∀ e : ScheduleEntry, (if e.due = due then ⟨due, p⟩ else e : ScheduleEntry).due = e.due := by
    intro e
    split
    · exact Eq.symm ‹_›
    · rfl
  refine ⟨current, pending, by simpa using count, ?_, ?_, ?_⟩
  · simpa only [List.map_map, Function.comp_def, same] using dues
  · simpa only [List.pairwise_map, same] using order
  · intro x hx
    obtain ⟨e, he, rfl⟩ := List.mem_map.1 hx
    obtain ⟨far, plan⟩ := entries e he
    refine ⟨by simpa only [same] using far, ?_⟩
    split
    · exact hp
    · exact plan

end

/-! ## An entry put at its place (R77, R78) -/

theorem insertEntry_perm (clock : Clock) (e : ScheduleEntry) (l : List ScheduleEntry) :
    (insertEntry clock e l).Perm (e :: l) := by
  induction l with
  | nil => rfl
  | cons x l ih =>
    unfold insertEntry
    split
    · rfl
    · exact (ih.cons x).trans (List.Perm.swap e x l)

theorem insertEntry_sorted {clock : Clock} {e : ScheduleEntry} {l : List ScheduleEntry}
    (hl : l.Pairwise fun x y => remaining x.due clock < remaining y.due clock)
    (he : ∀ x ∈ l, x.due ≠ e.due) :
    (insertEntry clock e l).Pairwise fun x y => remaining x.due clock < remaining y.due clock := by
  induction l with
  | nil => simp [insertEntry]
  | cons x l ih =>
    obtain ⟨hx, hs⟩ := List.pairwise_cons.1 hl
    unfold insertEntry
    split
    · rename_i hlt
      refine List.pairwise_cons.2 ⟨fun y hy => ?_, hl⟩
      rcases List.mem_cons.1 hy with rfl | hy
      · exact hlt
      · exact hlt.trans (hx y hy)
    · rename_i hge
      refine List.pairwise_cons.2 ⟨fun y hy => ?_, ih hs fun y hy => he y (List.mem_cons_of_mem _ hy)⟩
      rcases List.mem_cons.1 ((insertEntry_perm clock e l).mem_iff.1 hy) with rfl | hy
      · have hne : remaining x.due clock ≠ remaining y.due clock := fun h =>
          he x List.mem_cons_self (remaining_inj h)
        omega
      · exact hx y hy

theorem TakeUnit.inRanges_insert {t : TakeUnit} (h : t.inRanges) {due : Clock} {p : Nat}
    (hp : 1 ≤ p ∧ p ≤ 64) (hd : remaining due t.clock ≤ 2 ^ 31) (hn : t.schedule.length < 4)
    (hf : ∀ x ∈ t.schedule, x.due ≠ due) :
    { t with schedule := insertEntry t.clock ⟨due, p⟩ t.schedule }.inRanges := by
  obtain ⟨current, pending, -, dues, order, entries⟩ := h
  have perm := insertEntry_perm t.clock ⟨due, p⟩ t.schedule
  refine ⟨current, pending, perm.length_eq.trans_le hn, ?_, insertEntry_sorted order hf, fun e he => ?_⟩
  · refine (perm.map ScheduleEntry.due).nodup_iff.2 (List.nodup_cons.2 ⟨fun hm => ?_, dues⟩)
    obtain ⟨x, hx, hxd⟩ := List.mem_map.1 hm
    exact hf x hx hxd
  · rcases List.mem_cons.1 (perm.mem_iff.1 he) with rfl | he
    · exact ⟨hd, hp⟩
    · exact entries e he

end Sys2Proof.Machine
end

section
/-! SUPPORT. The ranges of the banks, the lamps and the neighbour records under the operations of their
owners (R54 to R58, R117 to R120, R135, R147 to R152). -/

namespace Sys2Proof.Machine

/-! ## Banks -/

theorem Bank.inRanges_reset : Bank.reset.inRanges := fun _ _ _ => .inl rfl

/-- A write sets a record of its own table. -/
theorem Bank.rows_write (b : Bank) (t t' : Table) (i : Nat) (r : List Byte) :
    (b.write t i r).rows t' = if t' = t then (b.rows t').set i r else b.rows t' := by
  cases t <;> cases t' <;> rfl

/-- A place of a list after a write holds what was written, or what it held. -/
theorem getD_set_cases (l : List (List Byte)) (i j : Nat) (r : List Byte) :
    (l.set i r).getD j [] = r ∨ (l.set i r).getD j [] = l.getD j [] := by
  simp only [List.getD_eq_getElem?_getD, List.getElem?_set]
  split
  · split
    · exact .inl rfl
    · exact .inr (by rw [List.getElem?_eq_none (by omega)])
  · exact .inr rfl

/-- A record in its range written. -/
theorem Bank.inRanges_write {b : Bank} (h : b.inRanges) (t : Table) (i : Nat) {r : List Byte}
    (hr : t.recordOk r = true) : (b.write t i r).inRanges := by
  intro t' j hj
  unfold Bank.row
  rw [b.rows_write]
  split
  · rename_i ht
    subst ht
    rcases getD_set_cases (b.rows t') i j r with hrow | hrow <;> rw [hrow]
    · exact .inr hr
    · exact h t' j hj
  · exact h t' j hj

theorem Bank.inRanges.faultDelay_le {b : Bank} (h : b.inRanges) : b.faultDelay ≤ 64 := by
  unfold Bank.faultDelay
  rcases h .node 0 (by decide) with hr | hr
  · rw [hr]
    decide
  · simp only [Table.recordOk, nodeOk, inRange, Bool.and_eq_true, decide_eq_true_eq] at hr
    exact hr.2.2

theorem Bank.inRanges.fallbackPolicy_le {b : Bank} (h : b.inRanges) : b.fallbackPolicy ≤ 64 := by
  unfold Bank.fallbackPolicy
  rcases h .timing 0 (by decide) with hr | hr
  · rw [hr]
    decide
  · simp only [Table.recordOk, timingOk, Bool.and_eq_true, decide_eq_true_eq] at hr
    omega

theorem Bank.planDefined_range {b : Bank} {p : Nat} (h : b.planDefined p = true) : 1 ≤ p ∧ p ≤ 64 := by
  simp only [Bank.planDefined, Bool.and_eq_true, decide_eq_true_eq] at h
  exact h.1

/-! ## Channels -/

theorem clampInt_range {lo hi : Int} (h : lo ≤ hi) (x : Int) :
    lo ≤ clampInt x lo hi ∧ clampInt x lo hi ≤ hi := by
  unfold clampInt
  omega

/-- A target code is at most 4095 (R136). -/
theorem Bank.targetCode_le (b : Bank) (valid : Bool) (level : Nat) (derate : Bool) (c : Fin 32) :
    b.targetCode valid level derate c ≤ 4095 := by
  unfold Bank.targetCode
  split
  · have := clampInt_range (lo := 0) (hi := 4095) (by decide)
      ((b.baseCode level derate * b.gain c / 32768 : Nat) + b.offset c)
    unfold driveCode
    omega
  · omega

theorem trackReference_range (ref q : Nat) :
    512 ≤ trackReference ref q ∧ trackReference ref q ≤ 1536 := by
  have := clampInt_range (lo := 512) (hi := 1536) (by decide) ((ref : Int) + ((q : Int) - ref).tdiv 16)
  unfold trackReference
  omega

section
variable {ch : Channel} (h : ch.inRanges)
include h

theorem Channel.inRanges_target {n : Nat} (hn : n ≤ 4095) : { ch with target := n }.inRanges := by
  obtain ⟨-, rest⟩ := h
  exact ⟨hn, rest⟩

theorem Channel.inRanges_output {n : Nat} (hn : n ≤ 4095) : { ch with output := n }.inRanges := by
  obtain ⟨target, -, rest⟩ := h
  exact ⟨target, hn, rest⟩

theorem Channel.inRanges_lastM {n : Nat} (hn : n ≤ 4095) : { ch with lastM := n }.inRanges := by
  obtain ⟨target, output, -, rest⟩ := h
  exact ⟨target, output, hn, rest⟩

theorem Channel.inRanges_ref {n : Nat} (hn : 512 ≤ n ∧ n ≤ 1536) : { ch with ref := n }.inRanges := by
  obtain ⟨target, output, lastM, -, -, rest⟩ := h
  exact ⟨target, output, lastM, hn.1, hn.2, rest⟩

/-- The judgement and the counters at other values. -/
theorem Channel.inRanges_judged (state : ChannelState) (kind : FailureKind) {settle fault stuck : Nat}
    (hs : settle ≤ 2) (hf : fault ≤ 64) (hk : stuck ≤ 64) :
    { ch with state := state, kind := kind, settle := settle, fault := fault, stuck := stuck }.inRanges := by
  obtain ⟨target, output, lastM, low, high, -⟩ := h
  exact ⟨target, output, lastM, low, high, hs, hf, hk⟩

theorem Channel.slewMove_inRanges (step : Nat) : (ch.slewMove step).inRanges := by
  obtain ⟨target, output, -⟩ := id h
  refine Channel.inRanges_output h ?_
  split
  · omega
  · split <;> omega

theorem Channel.cleared_inRanges : ch.cleared.inRanges := by
  obtain ⟨-, -, -, -, -, settle, -⟩ := id h
  exact Channel.inRanges_judged h _ _ settle (Nat.zero_le _) (Nat.zero_le _)

/-- A measured channel judged: a fault count that reaches the fault delay fails the channel. -/
theorem Channel.measure_inRanges {b : Bank} (hb : b.faultDelay ≤ 64) (c : Fin 32) :
    (ch.measure b c).channel.inRanges := by
  obtain ⟨-, -, -, -, -, settle, -, stuck⟩ := id h
  simp only [Channel.measure]
  split
  · exact Channel.inRanges_judged (Channel.inRanges_ref h (trackReference_range _ _)) _ _ settle
      (Nat.zero_le _) stuck
  · split
    · exact Channel.inRanges_judged h _ _ settle (Nat.zero_le _) stuck
    · split
      · exact Channel.inRanges_judged h _ _ settle (Nat.zero_le _) stuck
      · exact Channel.inRanges_judged h _ _ settle (by omega) stuck

theorem Channel.judgeLit_inRanges {b : Bank} (hb : b.faultDelay ≤ 64) (c : Fin 32) :
    (ch.judgeLit b c).channel.inRanges := by
  obtain ⟨-, -, -, -, -, -, fault, stuck⟩ := id h
  unfold Channel.judgeLit
  split
  · exact Channel.inRanges_judged h _ _ (by omega) fault stuck
  · split
    · exact h
    · exact Channel.measure_inRanges h hb c

theorem Channel.judgeUnlit_inRanges {b : Bank} (hb : b.faultDelay ≤ 64) (c : Fin 32) :
    (ch.judgeUnlit b c).channel.inRanges := by
  obtain ⟨-, -, -, -, -, settle, fault, -⟩ := id h
  unfold Channel.judgeUnlit
  split
  · exact h
  · split
    · exact Channel.inRanges_judged h _ _ settle fault (Nat.zero_le _)
    · split
      · exact Channel.inRanges_judged h _ _ settle fault (Nat.zero_le _)
      · exact Channel.inRanges_judged h _ _ settle fault (by omega)

end

/-! ## The gantry -/

section
variable {g : Gantry} (h : g.inRanges)
include h

theorem Gantry.inRanges_heads (heads : Vector Head 8) (slew : Option Nat) :
    { g with heads := heads, slew := slew }.inRanges := h

/-- Every channel changed. -/
theorem Gantry.inRanges_channels {f : Fin 32 → Channel} (hf : ∀ c, (f c).inRanges) :
    { g with channels := Vector.ofFn f }.inRanges := by
  refine ⟨fun c => ?_, h.2⟩
  simp only [Fin.getElem_fin, Vector.getElem_ofFn]
  exact hf _

/-- Every lane changed but for its conflict count, or this as well, within its range. -/
theorem Gantry.inRanges_ofLanes {f : Fin 4 → Lane} (hf : ∀ k, (f k).conflictCount ≤ 2) :
    { g with lanes := Vector.ofFn f }.inRanges := by
  refine ⟨h.1, fun k => ?_⟩
  simp only [Fin.getElem_fin, Vector.getElem_ofFn]
  exact hf _

theorem Gantry.retarget_inRanges (b : Bank) {code : Fin 32 → Nat} (hc : ∀ c, code c ≤ 4095) :
    (g.retarget b code).inRanges :=
  Gantry.inRanges_channels h fun c => Channel.inRanges_target (h.1 c) (hc c)

theorem Gantry.slewTick_inRanges (b : Bank) : (g.slewTick b).inRanges := by
  refine Gantry.inRanges_channels h fun c => ?_
  split
  · exact Channel.slewMove_inRanges (h.1 c) _
  · exact h.1 c

theorem Gantry.elapse_inRanges (hold : Bool) (n : Nat) : (g.elapse hold n).inRanges := by
  cases hold
  · exact Gantry.inRanges_ofLanes h fun k => h.2 k
  · exact h

theorem Gantry.darken_inRanges (b : Bank) : (g.darken b).inRanges :=
  Gantry.relight_inRanges (Gantry.inRanges_ofLanes h (f := fun k => g.lanes[k].unclear) h.2) _ _ _ _

theorem Gantry.outputsOff_inRanges : g.outputsOff.inRanges :=
  Gantry.inRanges_channels h fun c => Channel.inRanges_output (h.1 c) (Nat.zero_le _)

theorem Gantry.conflictsOff_inRanges : g.conflictsOff.inRanges :=
  Gantry.inRanges_ofLanes h fun _ => Nat.zero_le _

theorem Gantry.enter_inRanges (b : Bank) (now : Nat) : (g.enter b now).inRanges := by
  refine Gantry.relight_inRanges (Gantry.inRanges_ofLanes h fun k => ?_) _ _ _ _
  split <;> exact h.2 k

theorem Gantry.clearFaults_inRanges (b : Bank) (x : Nat) : (g.clearFaults b x).inRanges := by
  refine Gantry.relight_inRanges (Gantry.inRanges_channels h fun c => ?_) _ _ _ _
  split
  · exact Channel.cleared_inRanges (h.1 c)
  · exact h.1 c

theorem Gantry.relearn_inRanges (x : Nat) : (g.relearn x).inRanges := by
  refine Gantry.inRanges_channels h fun c => ?_
  split
  · exact Channel.inRanges_ref (h.1 c) (by decide)
  · exact h.1 c

theorem Env.raisedClearances_inRanges (e : Env) : (e.raisedClearances g).inRanges := by
  refine Gantry.inRanges_ofLanes h fun k => ?_
  split <;> exact h.2 k

theorem Gantry.judged_inRanges {b : Bank} (hb : b.faultDelay ≤ 64) (m : List Nat) :
    (g.judged b m).inRanges := by
  refine Gantry.inRanges_channels (Gantry.inRanges_heads h _ g.slew) fun c => ?_
  have measured : { g.channels[c] with lastM := sense m c }.inRanges :=
    Channel.inRanges_lastM (h.1 c) (Nat.min_le_right _ _)
  unfold Gantry.judge
  simp only
  split
  · exact Channel.judgeLit_inRanges measured hb c
  · exact Channel.judgeUnlit_inRanges measured hb c

theorem Gantry.judgeConflicts_inRanges (b : Bank) (m : List Nat) : (g.judgeConflicts b m).inRanges := by
  refine Gantry.inRanges_ofLanes h fun k => ?_
  unfold Bank.conflictCount
  split
  · exact Nat.min_le_left _ _
  · exact Nat.zero_le _

end

/-! ## Neighbour records (R117, R119, R120) -/

/-- The reference that a record is of. -/
def Neighbour.reference (n : Neighbour) : Reference := ⟨n.address, n.head⟩

/-- A record is fresh no longer than the stale limit. -/
def Neighbour.timely (n : Neighbour) (now limit : Nat) : Prop :=
  n.fresh = true → ∃ t, n.lastRefresh = some t ∧ t ≤ now ∧ now ≤ t + limit

theorem State.recordsSound_iff (s : State) : s.recordsSound ↔
    s.sweep.records.map Neighbour.reference = s.store.active.references
      ∧ ∀ n ∈ s.sweep.records, n.timely s.now s.store.active.staleMs := Iff.rfl

theorem Neighbour.refresh_reference (n : Neighbour) (now : Nat) (k : Byte) (c : Option Captured) :
    (n.refresh now k c).reference = n.reference := by
  unfold Neighbour.refresh
  split
  · rfl
  · split <;> rfl

theorem Neighbour.refresh_timely {n : Neighbour} {now limit : Nat} (h : n.timely now limit) (k : Byte)
    (c : Option Captured) : (n.refresh now k c).timely now limit := by
  unfold Neighbour.refresh
  split
  · exact h
  · split
    · exact fun _ => ⟨now, rfl, le_rfl, Nat.le_add_right _ _⟩
    · exact h

theorem Neighbour.created_timely (r : Reference) (now limit : Nat) :
    (Neighbour.created r).timely now limit := fun h => nomatch h

theorem Neighbour.refreshed_references (records : List Neighbour) (capture : List (Option Captured))
    (hl : capture.length = records.length) (now : Nat) (k : Byte) :
    ((records.zip capture).map fun p => p.1.refresh now k p.2).map Neighbour.reference
      = records.map Neighbour.reference := by
  rw [List.map_map]
  calc (records.zip capture).map (Neighbour.reference ∘ fun p => p.1.refresh now k p.2)
      = (records.zip capture).map (Neighbour.reference ∘ Prod.fst) :=
        List.map_congr_left fun p _ => p.1.refresh_reference now k p.2
    _ = records.map Neighbour.reference := by
        rw [← List.map_map, List.map_fst_zip hl.ge]

/-- The records of a set changed one by one, each to one of the same pair. -/
theorem State.recordsSound_map {s : State} (h : s.recordsSound) {f : Neighbour → Neighbour}
    (hr : ∀ n, (f n).reference = n.reference)
    (ht : ∀ n, n.timely s.now s.store.active.staleMs → (f n).timely s.now s.store.active.staleMs) :
    { s with sweep := { s.sweep with records := s.sweep.records.map f } }.recordsSound := by
  obtain ⟨refs, times⟩ := s.recordsSound_iff.1 h
  refine (State.recordsSound_iff _).2 ⟨Eq.trans ?_ refs, fun n hn => ?_⟩
  · rw [List.map_map]
    exact List.map_congr_left fun n _ => hr n
  · obtain ⟨x, hx, rfl⟩ := List.mem_map.1 hn
    exact ht x (times x hx)

end Sys2Proof.Machine
end

section
/-! The ranges of every item, kept by every step. -/

namespace Sys2Proof.Machine

/-! ## One item replaced -/

section
variable {s : State} (h : s.rangesKept)
include h

theorem State.rangesKept_line {l : LinePort} (hl : s.line.Follows l) : { s with line := l }.rangesKept := by
  obtain ⟨errors, address, rest⟩ := h
  obtain ⟨he, ha⟩ := hl
  exact ⟨by dsimp only; omega, by dsimp only; omega, rest⟩

theorem State.rangesKept_take {t : TakeUnit} (ht : t.inRanges) : { s with take := t }.rangesKept := by
  obtain ⟨errors, address, -, rest⟩ := h
  exact ⟨errors, address, ht, rest⟩

/-- The Table Store with ACTIVE as it stands. -/
theorem State.rangesKept_store {u : TableStore} (hu : u.inRanges) (ha : u.active = s.store.active) :
    { s with store := u }.rangesKept := by
  obtain ⟨errors, address, take, -, lamp, gantry, records⟩ := h
  refine ⟨errors, address, take, hu, lamp, gantry, ?_⟩
  unfold State.recordsSound at *
  rw [ha]
  exact records

theorem State.rangesKept_lamp {u : LampDrive} (hu : u.inRanges) : { s with lamp := u }.rangesKept := by
  obtain ⟨errors, address, take, store, -, rest⟩ := h
  exact ⟨errors, address, take, store, hu, rest⟩

theorem State.rangesKept_gantry {g : Gantry} (hg : g.inRanges) : { s with gantry := g }.rangesKept := by
  obtain ⟨errors, address, take, store, lamp, -, records⟩ := h
  exact ⟨errors, address, take, store, lamp, hg, records⟩

theorem State.rangesKept_sweep {w : SweepUnit} (hw : { s with sweep := w }.recordsSound) :
    { s with sweep := w }.rangesKept := by
  obtain ⟨errors, address, take, store, lamp, gantry, -⟩ := h
  exact ⟨errors, address, take, store, lamp, gantry, hw⟩

/-- The items that have no range. -/
theorem State.rangesKept_free (node : NodeControl) (watchdog : Watchdog) (events : EventUnit)
    (inputReads : Nat) (pending : List Instr) :
    { s with node := node, watchdog := watchdog, events := events, inputReads := inputReads
             pending := pending }.rangesKept := h

theorem State.rangesKept.take : s.take.inRanges := by
  obtain ⟨-, -, take, -⟩ := h
  exact take

theorem State.rangesKept.store : s.store.inRanges := by
  obtain ⟨-, -, -, store, -⟩ := h
  exact store

theorem State.rangesKept.lamp : s.lamp.inRanges := by
  obtain ⟨-, -, -, -, lamp, -⟩ := h
  exact lamp

theorem State.rangesKept.gantry : s.gantry.inRanges := by
  obtain ⟨-, -, -, -, -, gantry, -⟩ := h
  exact gantry

theorem State.rangesKept.records : s.recordsSound := by
  obtain ⟨-, -, -, -, -, -, records⟩ := h
  exact records

/-! ## The sequencer, the drive and the Take Unit -/

theorem State.rangesKept_seq {f : Env → Gantry → Gantry} (hf : Env.Walk f) : (s.seq f).rangesKept :=
  State.rangesKept_gantry h (hf s.env Gantry.inRanges s.env.inRanges_walks s.gantry h.gantry)

theorem State.rangesKept_retarget : s.retarget.rangesKept :=
  State.rangesKept_gantry h (Gantry.retarget_inRanges h.gantry _ fun c => Bank.targetCode_le _ _ _ _ c)

theorem State.rangesKept_post (k : EventKind) : (s.post k).rangesKept := h

theorem State.rangesKept_postAll (ks : List EventKind) : (s.postAll ks).rangesKept := by
  unfold State.postAll
  induction ks generalizing s with
  | nil => exact h
  | cons k ks ih => exact ih (State.rangesKept_post h k)

theorem State.rangesKept_takeRecord {p : Nat} (hp : p ≤ 64) : (s.takeRecord p).rangesKept := by
  have recorded := State.rangesKept_take h (TakeUnit.inRanges_plan h.take hp)
  simp only [State.takeRecord]
  split
  · exact recorded
  · exact recorded

theorem State.rangesKept_takeTargets (p : Nat) (returned : Bool) :
    (s.takeTargets p returned).rangesKept := by
  have given := State.rangesKept_seq h (Env.walk_takeTargets p)
  simp only [State.takeTargets]
  split
  · exact State.rangesKept_seq given Env.walk_retestExisting
  · exact given

theorem State.rangesKept_dueStalls : s.dueStalls.rangesKept := by
  unfold State.dueStalls
  induction allHeads generalizing s with
  | nil => exact h
  | cons i is ih =>
    rw [List.foldl_cons]
    split
    · exact ih (State.rangesKept_gantry h h.gantry)
    · exact ih h

theorem State.rangesKept_dueSequencer : s.dueSequencer.rangesKept :=
  State.rangesKept_dueStalls (State.rangesKept_seq
    (State.rangesKept_seq h Env.walk_dueDwells) (Env.walk_dueClearances allLanes))

end

/-! ## The due test (R79) -/

theorem fireEntry_rangesKept {acc : State × Option Nat} (h : acc.1.rangesKept) {e : ScheduleEntry}
    (he : e.plan ≤ 64) : (fireEntry acc e).1.rangesKept := by
  simp only [fireEntry]
  split
  · exact h
  · split
    · exact State.rangesKept_takeRecord h he
    · split
      · exact State.rangesKept_takeRecord h he
      · exact h
    all_goals exact h

theorem fireEntries_rangesKept {l : List ScheduleEntry} (hl : ∀ e ∈ l, e.plan ≤ 64)
    {acc : State × Option Nat} (h : acc.1.rangesKept) : (l.foldl fireEntry acc).1.rangesKept := by
  induction l generalizing acc with
  | nil => exact h
  | cons e l ih =>
    exact ih (fun x hx => hl x (List.mem_cons_of_mem _ hx))
      (fireEntry_rangesKept h (hl e List.mem_cons_self))

/-- The due test on a clock newly set. -/
theorem State.rangesKept_sync {s : State} (h : s.rangesKept) (c : Clock) :
    { s with take := { s.take with clock := c } }.dueTest.rangesKept := by
  have plans : ∀ e ∈ s.take.schedule.filter fun e => e.isDue c, e.plan ≤ 64 := fun e he => by
    obtain ⟨-, -, -, -, -, entries⟩ := h.take
    exact (entries e (List.mem_filter.1 he).1).2.2
  have fired := fireEntries_rangesKept (acc := (_, none)) plans
    (State.rangesKept_take h (TakeUnit.inRanges_fired h.take c))
  simp only [State.dueTest]
  split
  · exact fired
  · exact State.rangesKept_takeTargets fired _ _

theorem State.rangesKept_dueTest {s : State} (h : s.rangesKept) : s.dueTest.rangesKept :=
  State.rangesKept_sync h s.take.clock

/-! ## Fallback, commit, sample and reset -/

theorem State.rangesKept_cleared {s : State} (h : s.rangesKept) :
    { s with take := s.take.cleared }.rangesKept :=
  State.rangesKept_take h (TakeUnit.inRanges_cleared h.take)

/-- The Take Unit cleared with its current plan none. -/
theorem State.rangesKept_noPlan {s : State} (h : s.rangesKept) :
    { s with take := { s.take.cleared with currentPlan := 0 } }.rangesKept :=
  State.rangesKept_take h (TakeUnit.inRanges_plan (TakeUnit.inRanges_cleared h.take) (Nat.zero_le _))

theorem State.rangesKept_applyPolicy {s : State} (h : s.rangesKept) : s.applyPolicy.rangesKept := by
  have walked := State.rangesKept_seq h (Env.walk_policy s.store.active.fallbackPolicy)
  obtain ⟨active, -⟩ := h.store
  exact State.rangesKept_take walked (TakeUnit.inRanges_plan walked.take active.fallbackPolicy_le)

theorem State.rangesKept_fallbackEntry {s : State} (h : s.rangesKept) : s.fallbackEntry.rangesKept := by
  have entered := State.rangesKept_cleared (State.rangesKept_post (s :=
    { s with node := { s.node with mode := .fallback } }) h .fallbackEntered)
  have unheld := State.rangesKept_free entered { s.node with mode := .fallback, hold := false }
  exact State.rangesKept_seq (State.rangesKept_free (State.rangesKept_applyPolicy
    (unheld _ _ _ _)) _ _ _ _ _) Env.walk_retestExisting

theorem State.rangesKept_watchdogExpire {s : State} (h : s.rangesKept) : s.watchdogExpire.rangesKept := by
  unfold State.watchdogExpire
  split
  · exact State.rangesKept_fallbackEntry h
  all_goals exact h

theorem State.rangesKept_dueWatchdog {s : State} (h : s.rangesKept) : s.dueWatchdog.rangesKept := by
  unfold State.dueWatchdog
  split
  · exact State.rangesKept_watchdogExpire h
  · exact h

/-- A rebuild makes the neighbour records those of ACTIVE (R119). -/
theorem State.rangesKept_rebuild {s : State} (errors : s.line.lineErrors ≤ 255)
    (address : s.line.address ≤ 200) (take : s.take.inRanges) (store : s.store.inRanges)
    (lamp : s.lamp.inRanges) (gantry : s.gantry.inRanges) : s.rebuildNeighbours.rangesKept := by
  refine ⟨errors, address, take, store, lamp, gantry, List.map_map.trans (List.map_id _), fun n hn => ?_⟩
  obtain ⟨r, -, rfl⟩ := List.mem_map.1 hn
  exact Neighbour.created_timely r _ _

/-- The model in force replaced, with the neighbour records rebuilt for it (R63, R119). -/
theorem State.rangesKept_activated {s : State} (h : s.rangesKept) :
    (s.activate.seq Env.raisedClearances).rebuildNeighbours.rangesKept := by
  obtain ⟨errors, address, take, ⟨-, shadow, -⟩, lamp, gantry, -⟩ := h
  have takeUnit : (s.take.dropUndefined s.store.shadow).inRanges := by
    unfold TakeUnit.dropUndefined
    split
    · exact take
    · split
      · exact take
      · exact TakeUnit.inRanges_pending take (by simp)
  have relit : (s.gantry.commit s.store.active s.store.shadow).inRanges :=
    Gantry.relight_inRanges gantry _ _ _ _
  exact State.rangesKept_rebuild errors address takeUnit
    ⟨shadow, shadow, fun hv => nomatch hv⟩ lamp (Env.raisedClearances_inRanges relit _)

theorem State.rangesKept_slewTick {s : State} (h : s.rangesKept) : s.slewTick.rangesKept :=
  State.rangesKept_gantry h (Gantry.slewTick_inRanges h.gantry _)

theorem State.rangesKept_dueSlew {s : State} (h : s.rangesKept) : s.dueSlew.rangesKept := by
  unfold State.dueSlew
  split
  · exact State.rangesKept_slewTick h
  · exact h

theorem State.rangesKept_dueLowered {s : State} (h : s.rangesKept) (old : Bank) :
    (s.dueLowered old).rangesKept := by
  have dwelt : (if s.store.active.dwellMs < old.dwellMs then s.seq Env.dueDwells else s).rangesKept := by
    split
    · exact State.rangesKept_seq h Env.walk_dueDwells
    · exact h
  have cleared := State.rangesKept_seq dwelt (Env.walk_dueClearances
    (allLanes.filter fun k => s.store.active.clearanceMs k < old.clearanceMs k))
  simp only [State.dueLowered]
  split
  · exact State.rangesKept_dueStalls cleared
  · exact cleared

theorem State.rangesKept_dueAtCommit {s : State} (h : s.rangesKept) (old : Bank) :
    (s.dueAtCommit old).rangesKept := by
  have timers : (if s.node.hold then s.dueLowered old else s.dueSequencer).rangesKept := by
    split
    · exact State.rangesKept_dueLowered h old
    · exact State.rangesKept_dueSequencer h
  exact State.rangesKept_dueSlew (State.rangesKept_dueWatchdog timers)

theorem State.rangesKept_commitComplete {s : State} (h : s.rangesKept) : s.commitComplete.rangesKept := by
  unfold State.commitComplete
  split
  · exact State.rangesKept_dueAtCommit (State.rangesKept_post (State.rangesKept_retarget
      (State.rangesKept_seq (State.rangesKept_activated h) Env.walk_retestExisting)) _) _
  · obtain ⟨active, shadow, -⟩ := h.store
    exact State.rangesKept_store h ⟨active, shadow, fun hv => nomatch hv⟩ rfl

theorem State.rangesKept_lockout {s : State} (h : s.rangesKept) : s.lockout.rangesKept := by
  have dark := Gantry.conflictsOff_inRanges
    (Gantry.outputsOff_inRanges (Gantry.darken_inRanges h.gantry s.store.active))
  exact State.rangesKept_lamp (State.rangesKept_gantry (State.rangesKept_noPlan h) dark)
    (u := { s.lamp with power := false }) h.lamp

theorem State.rangesKept_sample {s : State} (h : s.rangesKept) (m : List Nat) :
    (s.sample m).rangesKept := by
  have faultDelay : s.store.active.faultDelay ≤ 64 := by
    obtain ⟨active, -⟩ := h.store
    exact active.faultDelay_le
  have judged := Gantry.judged_inRanges h.gantry faultDelay m
  have switched := fun failed => Gantry.relight_inRanges judged s.store.active s.store.active
    (fun _ => false) failed
  have posted := fun failed ks ls => State.rangesKept_postAll (State.rangesKept_postAll
    (State.rangesKept_gantry h (Gantry.judgeConflicts_inRanges (switched failed) s.store.active m)) ks) ls
  unfold State.sample
  split
  · exact h
  · simp only
    split
    · exact State.rangesKept_seq (posted _ _ _) (Env.walk_retestOpposites _)
    · exact State.rangesKept_lockout (posted _ _ _)

theorem State.rangesKept_readTemperature {s : State} (h : s.rangesKept) (reading : Int) :
    (s.readTemperature reading).rangesKept := by
  obtain ⟨level, -, -, since⟩ := h.lamp
  have bounds := clampInt_range (lo := -40) (hi := 125) (by decide) reading
  have shown := fun derate => State.rangesKept_lamp h (u := { s.lamp with
    derate := derate, temperature := clampInt reading (-40) 125 }) ⟨level, bounds.1, bounds.2, since⟩
  simp only [State.readTemperature]
  split
  · exact shown _
  · split
    · exact State.rangesKept_retarget (State.rangesKept_post (shown true) _)
    · split
      · exact State.rangesKept_retarget (State.rangesKept_post (shown false) _)
      · exact shown _

theorem strapAddress_le (b : Byte) : strapAddress b ≤ 200 := by
  unfold strapAddress
  split <;> omega

theorem TakeUnit.inRanges_reset (c : Clock) : { State.reset.take with clock := c }.inRanges := by
  simp [TakeUnit.inRanges, State.reset]

theorem Channel.inRanges_reset : Channel.reset.inRanges := by
  simp [Channel.inRanges, Channel.reset]

theorem Gantry.inRanges_reset : State.reset.gantry.inRanges := by
  refine ⟨fun c => ?_, fun k => ?_⟩
  · simp only [State.reset, Fin.getElem_fin, Vector.getElem_replicate]
    exact Channel.inRanges_reset
  · simp [State.reset, Lane.reset]

theorem LampDrive.inRanges_reset (die : Int) :
    { State.reset.lamp with temperature := clampInt die (-40) 125 }.inRanges := by
  have bounds := clampInt_range (lo := -40) (hi := 125) (by decide) die
  exact ⟨le_rfl, bounds.1, bounds.2, Nat.zero_le _, Nat.zero_le _⟩

theorem Bank.references_reset : Bank.reset.references = [] := by decide

theorem State.rangesKept_powerUp (s : State) (c : Cause) (p : ResetInputs) :
    (s.powerUp c p).rangesKept := by
  refine ⟨Nat.zero_le _, ?_, TakeUnit.inRanges_reset 0#32,
    ⟨Bank.inRanges_reset, Bank.inRanges_reset, fun hv => nomatch hv⟩, LampDrive.inRanges_reset _,
    Gantry.inRanges_reset, Bank.references_reset.symm, fun n hn => nomatch hn⟩
  simp only [State.powerUp]
  split
  · exact Nat.zero_le _
  · exact strapAddress_le _

theorem State.rangesKept_keepRestart {s : State} (h : s.rangesKept) (p : ResetInputs) :
    (s.keepRestart p).rangesKept := by
  obtain ⟨-, address, -, ⟨active, -⟩, -, gantry, -⟩ := h
  refine State.rangesKept_readTemperature
    (State.rangesKept_retarget (State.rangesKept_rebuild ?_ ?_ ?_ ?_ ?_ ?_)) _
  · exact Nat.zero_le _
  · dsimp only
    split
    · exact address
    · exact strapAddress_le _
  · exact TakeUnit.inRanges_reset _
  · exact ⟨active, active, fun hv => nomatch hv⟩
  · exact LampDrive.inRanges_reset _
  · refine Gantry.inRanges_channels Gantry.inRanges_reset fun c => ?_
    obtain ⟨-, -, -, low, high, -⟩ := gantry.1 c
    exact Channel.inRanges_ref (Gantry.inRanges_reset.1 c) ⟨low, high⟩

/-! ## Sweeps, time and TAKE_AT -/

theorem State.rangesKept_refresh {s : State} (h : s.rangesKept) (k : Byte)
    (hl : s.sweep.capture.length = s.sweep.records.length) : (s.refreshNeighbours k).rangesKept := by
  obtain ⟨refs, times⟩ := h.records
  refine State.rangesKept_seq (State.rangesKept_sweep h ⟨?_, fun n hn => ?_⟩)
    (Env.walk_retestAll fun e => e.bank.existing.filter _)
  · exact (Neighbour.refreshed_references _ _ hl s.now k).trans refs
  · obtain ⟨x, hx, rfl⟩ := List.mem_map.1 hn
    exact Neighbour.refresh_timely (times x.1 (List.of_mem_zip hx).1) k x.2

theorem State.rangesKept_goStale {s : State} (h : s.rangesKept) (n : Neighbour) :
    (s.goStale n).rangesKept := by
  refine State.rangesKept_seq (State.rangesKept_sweep h (State.recordsSound_map h.records
    (fun r => ?_) fun r hr => ?_)) (Env.walk_retestAll fun e => e.bank.existing.filter _)
  · split <;> rfl
  · split
    · exact fun hx => nomatch hx
    · exact hr

theorem State.rangesKept_takeLevel {s : State} (h : s.rangesKept) {l : Nat} (hl : l ≤ 7) :
    (s.takeLevel l).rangesKept := by
  obtain ⟨-, rest⟩ := h.lamp
  unfold State.takeLevel
  split
  · exact h
  · exact State.rangesKept_retarget (State.rangesKept_lamp h ⟨hl, rest⟩)

/-- A stretch in which nothing falls due before its end: each age comes to its limit at most. -/
theorem State.rangesKept_elapse {s : State} (h : s.rangesKept) {n : Nat} (hr : s.Ready)
    (hn : n ≤ max 1 s.untilNext) : (s.elapse n).rangesKept := by
  have before : ∀ {d : Nat}, s.untilNext ≤ d → 1 ≤ d → n ≤ d := fun hd h1 =>
    hn.trans (Nat.max_le.2 ⟨h1, hd⟩)
  obtain ⟨errors, address, take, ⟨active, shadow, -⟩, ⟨level, low, high, -⟩, gantry, refs, times⟩ := h
  refine ⟨errors, address, TakeUnit.inRanges_elapse take fun e he => ?_, ⟨active, shadow, fun hv => ?_⟩,
    ⟨level, low, high, ?_, ?_⟩, Gantry.elapse_inRanges gantry _ _, refs, fun x hx hf => ?_⟩
  · have due := s.untilNext_le_entry he
    have quiet := hr.schedule e he
    rw [State.untilEntry, quiet] at due
    exact before due ((e.not_due_iff _).1 quiet).1
  · have hv : s.store.validating = true := hv
    have young := hr.commit hv
    have := before (s.untilNext_le_commit hv) (by omega)
    simp only [State.elapse, hv, if_true]
    omega
  · have young := hr.reading
    have := before s.untilNext_le_reading (by omega)
    simp only [State.elapse]
    omega
  · have young := hr.sample
    have := before s.untilNext_le_sample (by omega)
    simp only [State.elapse]
    omega
  · obtain ⟨t, ht, past, -⟩ := times x hx hf
    have young := hr.records x hx
    simp only [State.expires, hf, ht, Bool.true_and, decide_eq_false_iff_not, Nat.not_le] at young
    have := before (s.untilNext_le_stale hx hf ht) (by omega)
    simp only [State.elapse]
    exact ⟨t, ht, by omega, by omega⟩

theorem State.rangesKept_scheduleTake {s : State} (h : s.rangesKept) {due : Clock} {p : Nat}
    (hp : s.take.pendingPlan = some p) (hc : s.takeAtCheck due = none) :
    (s.scheduleTake due p).rangesKept := by
  have plan : 1 ≤ p ∧ p ≤ 64 := by
    obtain ⟨-, pending, -⟩ := h.take
    exact pending p hp
  have near : remaining due s.take.clock ≤ 2 ^ 31 ∧ (s.scheduled due = true ∨ s.take.schedule.length < 4) := by
    simp only [State.takeAtCheck] at hc
    split at hc
    · cases hc
    · split at hc
      · cases hc
      · split at hc
        · cases hc
        · rename_i late far full
          refine ⟨by omega, ?_⟩
          simpa [or_iff_not_imp_left] using full
  have taken : { s.take with schedule := (s.scheduleTake due p).take.schedule }.inRanges := by
    simp only [State.scheduleTake]
    split
    · exact TakeUnit.inRanges_replace h.take plan
    · rename_i hs
      refine TakeUnit.inRanges_insert h.take plan near.1 (near.2.resolve_left hs) fun x hx he => hs ?_
      exact List.any_eq_true.2 ⟨x, hx, beq_iff_eq.2 he⟩
  exact State.rangesKept_take h (TakeUnit.inRanges_flag (TakeUnit.inRanges_pending taken (o := none)
    (by simp)) false)

theorem State.rangesKept_takePlan {s : State} (h : s.rangesKept) {p : Nat}
    (hp : s.take.pendingPlan = some p) : ((s.takePlan p).setPending none).rangesKept := by
  have plan : p ≤ 64 := by
    obtain ⟨-, pending, -⟩ := h.take
    exact (pending p hp).2
  have taken := State.rangesKept_takeTargets (State.rangesKept_takeRecord h plan) p
    (s.node.mode == .fallback)
  exact State.rangesKept_take taken (TakeUnit.inRanges_pending taken.take (by simp))

/-! ## The bank written, supply and service -/

theorem State.rangesKept_setShadow {s : State} (h : s.rangesKept) {b : Bank} (hb : b.inRanges) :
    (s.setShadow b).rangesKept := by
  obtain ⟨active, -, age⟩ := h.store
  exact State.rangesKept_store h ⟨active, hb, age⟩ rfl

theorem State.rangesKept_holdInReset {s : State} (h : s.rangesKept) : s.holdInReset.rangesKept :=
  State.rangesKept_lamp (State.rangesKept_gantry h
    (Gantry.outputsOff_inRanges (Gantry.darken_inRanges h.gantry s.store.active)))
    (u := { s.lamp with power := false }) h.lamp

theorem State.rangesKept_releaseHold {s : State} (h : s.rangesKept) : s.releaseHold.rangesKept := by
  unfold State.releaseHold
  split
  · exact State.rangesKept_seq (State.rangesKept_dueSequencer (s := s.setHold false) h)
      Env.walk_retestExisting
  · exact h

theorem State.rangesKept_setHead {s : State} (h : s.rangesKept) (i : Fin 8) (hd : Head) (forced : Bool) :
    (s.setHead i hd forced).rangesKept :=
  State.rangesKept_gantry h (Gantry.relight_inRanges h.gantry _ _ _ _)

theorem State.rangesKept_cancel {s : State} (h : s.rangesKept) {body : List Byte} {l : List ScheduleEntry}
    (hl : s.cancelled body = some l) : (s.withSchedule l).rangesKept := by
  have sub : l.Sublist s.take.schedule := by
    unfold State.cancelled at hl
    split at hl
    · cases hl
      exact List.nil_sublist _
    · split at hl
      · cases hl
        exact List.filter_sublist
      · cases hl
  exact State.rangesKept_take h (TakeUnit.inRanges_flag (TakeUnit.inRanges_sublist h.take sub) false)

/-! ## Every step -/

/-- Every event keeps every item in its range. -/
theorem kept_rangesKept : Kept State.rangesKept where
  queue _ _ h := h
  line _ _ hl h := State.rangesKept_line h hl
  key _ _ h := h
  capture _ _ h := h
  post _ _ _ _ h := h
  heartbeat _ _ h := h
  refresh _ k hl h := State.rangesKept_refresh h k hl
  level _ _ hl h := State.rangesKept_takeLevel h hl
  sync _ c h := State.rangesKept_sync h c
  dueTest _ h := State.rangesKept_dueTest h
  elapse _ _ hr hn h := State.rangesKept_elapse h hr hn
  expire _ h := State.rangesKept_watchdogExpire h
  dwell _ i _ h := State.rangesKept_seq h (Env.walk_dwellComplete i)
  clearance s k hd h :=
    State.rangesKept_gantry h (s.env.inRanges_walks.clearanceComplete k s.gantry hd h.gantry)
  stall _ _ h := h
  sequencer _ h := State.rangesKept_dueSequencer h
  stale _ n h := State.rangesKept_goStale h n
  slew _ h := State.rangesKept_slewTick h
  atReading s h := State.rangesKept_lamp h (u := { s.lamp with sinceReading := 0 }) (by
    obtain ⟨level, low, high, -, sample⟩ := h.lamp
    exact ⟨level, low, high, Nat.zero_le _, sample⟩)
  temperature _ r h := State.rangesKept_readTemperature h r
  atSample s h := State.rangesKept_lamp h (u := { s.lamp with sinceSample := 0 }) (by
    obtain ⟨level, low, high, reading, -⟩ := h.lamp
    exact ⟨level, low, high, reading, Nat.zero_le _⟩)
  sample _ m h := State.rangesKept_sample h m
  nextRead _ h := h
  commit _ _ h := State.rangesKept_commitComplete h
  restartDue _ _ h := h
  powerUp s c p _ := State.rangesKept_powerUp s c p
  keepRestart _ p h := State.rangesKept_keepRestart h p
  supplyLoss _ h := State.rangesKept_holdInReset h
  resetLow _ h := State.rangesKept_holdInReset h
  supplyBack _ _ h := h
  resetBack _ _ h := h
  readEvents _ h := h
  write s t i r _ hr h := State.rangesKept_setShadow h (by
    obtain ⟨-, shadow, -⟩ := h.store
    exact Bank.inRanges_write shadow t i hr)
  revert s h := State.rangesKept_setShadow h (by
    obtain ⟨active, -⟩ := h.store
    exact active)
  validating s h := by
    obtain ⟨active, shadow, -⟩ := h.store
    exact State.rangesKept_store h ⟨active, shadow, fun _ => Nat.zero_le _⟩ rfl
  discard s h := by
    obtain ⟨active, -⟩ := h.store
    exact State.rangesKept_store h ⟨active, active, fun hv => nomatch hv⟩ rfl
  stage _ p _ hp h := State.rangesKept_take h (TakeUnit.inRanges_pending h.take (by
    rintro _ ⟨⟩
    exact Bank.planDefined_range hp))
  unstage _ h := State.rangesKept_take h (TakeUnit.inRanges_pending h.take (by simp))
  take _ _ _ hp h := State.rangesKept_takePlan h hp
  schedule _ _ _ _ hp hc h := State.rangesKept_scheduleTake h hp hc
  scheduleFull _ _ h := h
  cancel _ _ _ hl h := State.rangesKept_cancel h hl
  enter s _ h := State.rangesKept_gantry (State.rangesKept_noPlan h)
    (Gantry.enter_inRanges h.gantry s.store.active s.now)
  leave s _ h := State.rangesKept_gantry (State.rangesKept_noPlan h)
    (Gantry.darken_inRanges h.gantry s.store.active)
  hold _ _ h := h
  stepHeads _ _ h := State.rangesKept_seq h Env.walk_stepExisting
  release _ _ h := State.rangesKept_releaseHold h
  lampTest _ i _ _ _ _ _ _ h := State.rangesKept_setHead h i _ true
  lampOff _ i _ h := State.rangesKept_setHead h i _ false
  clearFault _ x h := State.rangesKept_seq
    (State.rangesKept_gantry h (Gantry.clearFaults_inRanges h.gantry _ x))
    (Env.walk_retestOpposites _)
  relearn _ x h := State.rangesKept_gantry h (Gantry.relearn_inRanges h.gantry x)
  restart _ _ h := h

/-- Settles O58: each event of `Kept` keeps every item in its range. -/
theorem itemsStayInRange : Obligations.ItemsStayInRange := by
  unfold Obligations.ItemsStayInRange
  exact fun s t hs ht => kept_rangesKept.step hs ht

end Sys2Proof.Machine
end

section
/-! SUPPORT. A start bit on IN, the faults of a frame, and its header (R19, R20, R25 to R28). -/

namespace Sys2Proof.Machine

/-! ## The commands of the line -/

section
variable (s : State)

theorem exec_frameStart_eq (k x : Byte) : exec (.frameStart k x) s = execFrameStart k x s := rfl
theorem exec_framingError_eq : exec .framingError s = execFramingError s := rfl
theorem exec_unknownFrame_eq : exec .unknownFrame s = execUnknownFrame s := rfl
theorem exec_frameTruncation_eq : exec .frameTruncation s = execFrameTruncation s := rfl
theorem exec_surplusBytes_eq : exec .surplusBytes s = execSurplusBytes s := rfl
theorem exec_inIdleGap_eq : exec .inIdleGap s = execInIdleGap s := rfl
theorem exec_badFcsFrameEnd_eq (frame : List Byte) :
    exec (.badFcsFrameEnd frame) s = execBadFcsFrameEnd frame s := rfl
theorem exec_sweep_eq (f : SweepFrame) : exec (.sweep f) s = execSweep f s := rfl
theorem exec_ownSlotWrite_eq (n : Byte) : exec (.ownSlotWrite n) s = execOwnSlotWrite n s := rfl
theorem exec_replyFrame_eq (f : ReplyFrame) : exec (.replyFrame f) s = execReplyFrame f s := rfl
theorem exec_enumerate_eq (next flags : Byte) :
    exec (.enumerate next flags) s = execEnumerate next flags s := rfl
theorem exec_orderNotActedOn_eq (code : Byte) (o : Order) (fcs : Fcs) :
    exec (.orderNotActedOn code o fcs) s = execOrderNotActedOn code o fcs s := rfl
theorem exec_unknownOrder_eq (code : Byte) (o : Order) :
    exec (.unknownOrder code o) s = execUnknownOrder code o s := rfl
theorem exec_outGapElapsed_eq : exec .outGapElapsed s = execOutGapElapsed s := rfl
theorem exec_replyLeftOut_eq : exec .replyLeftOut s = execReplyLeftOut s := rfl
theorem exec_passThroughLeftOut_eq : exec .passThroughLeftOut s = execPassThroughLeftOut s := rfl
theorem exec_lineBreak_eq : exec .lineBreak s = execLineBreak s := rfl
theorem exec_lineReset_eq : exec .lineReset s = execLineReset s := rfl
theorem exec_orderForwardedOnly_eq (code : Byte) (o : Order) :
    exec (.orderForwardedOnly code o) s = execOrderForwardedOnly code o s := rfl

end

/-! ## A frame begins (R25 to R27) -/

theorem knownKind_iff (k : Byte) :
    knownKind k = true ↔ k = 0x31#8 ∨ k = 0x42#8 ∨ k = 0x43#8 ∨ k = 0x44#8 := by
  simp [knownKind, sweepKind, orderKind, replyKind, enumerateKind]

theorem LinePort.absorbs_iff (l : LinePort) (k x : Byte) :
    l.absorbs k x = true ↔ k = 0x42#8 ∧ l.address ≠ 0 ∧ x.toNat = l.address := by
  simp [LinePort.absorbs, orderKind, and_assoc]

theorem Mode.reassignable_eq (m : Mode) :
    m.reassignable = decide (m ≠ .inService ∧ m ≠ .fallback) := by
  cases m <;> rfl

section
variable {l : LinePort} {reassignable : Bool} {k x : Byte}

theorem LinePort.beginFrame_unknown (hk : knownKind k = false) :
    l.beginFrame reassignable k x = { l.countError with rx := .discard } := by
  simp [LinePort.beginFrame, hk]

theorem LinePort.beginFrame_absorbed (ha : l.absorbs k x = true) :
    l.beginFrame reassignable k x = { l with
      rx := .frame, rxFrame := some ⟨k, x, .absorbed, false, true, reassignable⟩, absorb := [k, x] } := by
  have hk : knownKind k = true := (knownKind_iff k).2 (.inr (.inl ((l.absorbs_iff k x).1 ha).1))
  simp [LinePort.beginFrame, hk, ha]

section
variable (hk : knownKind k = true) (ha : l.absorbs k x = false)
include hk ha

/-- A frame that is not absorbed finds the elastic buffer occupied. -/
theorem LinePort.beginFrame_occupied (he : l.elastic ≠ none) :
    l.beginFrame reassignable k x = { l.countError with rx := .discard } := by
  simp [LinePort.beginFrame, hk, ha, Option.isSome_iff_ne_none.2 he]

theorem LinePort.beginFrame_through (he : l.elastic = none) (ht : l.tx = .idle) :
    l.beginFrame reassignable k x = { l with
      rx := .frame, rxFrame := some ⟨k, x, .through, false, true, reassignable⟩
      thru := some (OutFrame.begin_ k x), tx := .passing } := by
  simp [LinePort.beginFrame, hk, ha, he, ht]

theorem LinePort.beginFrame_buffered (he : l.elastic = none) (ht : l.tx ≠ .idle) :
    l.beginFrame reassignable k x = { l with
      rx := .frame, rxFrame := some ⟨k, x, .buffered, false, true, reassignable⟩
      elastic := some (OutFrame.begin_ k x) } := by
  simp [LinePort.beginFrame, hk, ha, he, ht]

end

end

/-- A start bit reaches the Line Port of a working node. -/
theorem exec_frameStart {s : State} (hw : s.works = true) (k x : Byte) : exec (.frameStart k x) s
    = .next { s with line := s.line.startBit s.node.mode.reassignable k x } :=
  (exec_frameStart_eq s k x).trans (live_works hw _)

/-- In IDLE it begins a frame. -/
theorem exec_frameStart_idle {s : State} (hw : s.works = true) (hr : s.line.rx = .idle) (k x : Byte) :
    exec (.frameStart k x) s
      = .next { s with line := s.line.beginFrame s.node.mode.reassignable k x } := by
  rw [exec_frameStart hw, LinePort.startBit, hr]

/-- Settles O7: each receive state by `startBit`, and in IDLE each route by `beginFrame`. -/
theorem frameBegins : Obligations.FrameBegins := by
  unfold Obligations.FrameBegins
  refine ⟨fun k x s hw hr => ?_, fun k x s hw hr => ?_, fun k x s hw hr => ?_⟩
  · simp only [exec_frameStart_idle hw hr, ← s.node.mode.reassignable_eq, ← knownKind_iff,
      ← s.line.absorbs_iff]
    refine ⟨fun hk => ?_, fun ha => ?_, fun hk ha => ⟨fun he => ?_, fun he ht => ?_, fun he ht => ?_⟩⟩
    · rw [LinePort.beginFrame_unknown (by simpa using hk)]
      rfl
    · rw [LinePort.beginFrame_absorbed ha]
    · rw [LinePort.beginFrame_occupied hk (by simpa using ha) he]
      rfl
    · rw [LinePort.beginFrame_through hk (by simpa using ha) he ht]
      rfl
    · rw [LinePort.beginFrame_buffered hk (by simpa using ha) he ht]
      rfl
  · rw [exec_frameStart hw, LinePort.startBit, hr]
    rfl
  · rw [exec_frameStart hw]
    rcases hr with hr | hr | hr | hr <;> rw [LinePort.startBit, hr]

/-! ## The faults of a frame (R20, R28) -/

theorem LinePort.countFor_lineErrors (l : LinePort) (f : RxFrame) : (l.countFor f).lineErrors
    = if f.damaged then l.lineErrors else min 255 (l.lineErrors + 1) := by
  unfold LinePort.countFor
  split <;> rfl

@[simp] theorem LinePort.countFor_rx (l : LinePort) (f : RxFrame) : (l.countFor f).rx = l.rx := by
  unfold LinePort.countFor; split <;> rfl
@[simp] theorem LinePort.countFor_rxFrame (l : LinePort) (f : RxFrame) : (l.countFor f).rxFrame = l.rxFrame := by
  unfold LinePort.countFor; split <;> rfl
@[simp] theorem LinePort.countFor_absorb (l : LinePort) (f : RxFrame) : (l.countFor f).absorb = l.absorb := by
  unfold LinePort.countFor; split <;> rfl
@[simp] theorem LinePort.countFor_address (l : LinePort) (f : RxFrame) : (l.countFor f).address = l.address := by
  unfold LinePort.countFor; split <;> rfl
@[simp] theorem LinePort.countFor_ring (l : LinePort) (f : RxFrame) : (l.countFor f).ring = l.ring := by
  unfold LinePort.countFor; split <;> rfl
@[simp] theorem LinePort.countFor_thru (l : LinePort) (f : RxFrame) : (l.countFor f).thru = l.thru := by
  unfold LinePort.countFor; split <;> rfl
@[simp] theorem LinePort.countFor_elastic (l : LinePort) (f : RxFrame) : (l.countFor f).elastic = l.elastic := by
  unfold LinePort.countFor; split <;> rfl
@[simp] theorem LinePort.countFor_replySlot (l : LinePort) (f : RxFrame) : (l.countFor f).replySlot = l.replySlot := by
  unfold LinePort.countFor; split <;> rfl
@[simp] theorem LinePort.countFor_tx (l : LinePort) (f : RxFrame) : (l.countFor f).tx = l.tx := by
  unfold LinePort.countFor; split <;> rfl
@[simp] theorem LinePort.countFor_outGap (l : LinePort) (f : RxFrame) : (l.countFor f).outGap = l.outGap := by
  unfold LinePort.countFor; split <;> rfl
@[simp] theorem LinePort.countFor_lastSent (l : LinePort) (f : RxFrame) : (l.countFor f).lastSent = l.lastSent := by
  unfold LinePort.countFor; split <;> rfl

/-- Nothing but the error counter. -/
theorem LinePort.countFor_eq (l : LinePort) (f : RxFrame) :
    l.countFor f = { l with lineErrors := (l.countFor f).lineErrors } := by
  unfold LinePort.countFor
  split <;> rfl

/-- A truncation stops the frame as an unknown kind does, but for the receive state. -/
theorem State.truncate_stops (s : State) (f : RxFrame) : s.stopsFrame f (s.truncate f) .idle := by
  obtain ⟨whole, -, rest⟩ := s.unknownFrame_stops f
  exact ⟨rfl, rfl, rest⟩

section
variable {s : State} (hw : s.works = true)
include hw

theorem exec_framingError {f : RxFrame} (hr : s.line.rx = .frame) (hf : s.line.rxFrame = some f) :
    exec .framingError s
      = .next { s with line := { s.line.countFor f with rxFrame := some { f with damaged := true } } } := by
  refine (exec_framingError_eq s).trans ((live_works hw _).trans ?_)
  simp only [State.onLine, hr, hf]

theorem exec_unknownFrame {f : RxFrame} (hr : s.line.rx = .frame) (hf : s.line.rxFrame = some f) :
    exec .unknownFrame s = .next (s.unknownFrame f) := by
  refine (exec_unknownFrame_eq s).trans ((live_works hw _).trans ?_)
  simp only [hr, hf]

theorem exec_frameTruncation {f : RxFrame} (hr : s.line.rx = .frame) (hf : s.line.rxFrame = some f) :
    exec .frameTruncation s = .next (s.truncate f) := by
  refine (exec_frameTruncation_eq s).trans ((live_works hw _).trans ?_)
  simp only [hr, hf]

/-- The gap within a frame is its truncation. -/
theorem exec_inIdleGap_frame {f : RxFrame} (hr : s.line.rx = .frame) (hf : s.line.rxFrame = some f) :
    exec .inIdleGap s = .next (s.truncate f) := by
  refine (exec_inIdleGap_eq s).trans ((live_works hw _).trans ?_)
  simp only [hr, hf]

/-- The gap between frames leads to IDLE. -/
theorem exec_inIdleGap_between
    (hr : s.line.rx = .settling ∨ s.line.rx = .ended ∨ s.line.rx = .discard) :
    exec .inIdleGap s = .next { s with line := { s.line with rx := .idle } } := by
  refine (exec_inIdleGap_eq s).trans ((live_works hw _).trans ?_)
  rcases hr with hr | hr | hr <;> simp only [hr, State.onLine]

theorem exec_surplusBytes (hr : s.line.rx = .ended) :
    exec .surplusBytes s = .next { s with line := s.line.surplus } := by
  refine (exec_surplusBytes_eq s).trans ((live_works hw _).trans ?_)
  simp only [State.onLine, hr, if_true]

end

/-! ## Frame ends by their commands (R20) -/

/-- The command of a catalogue row runs that row. -/
theorem exec_orderRow {c : Instr} {q : OrderSpec} {o : Order} (h : orderRow c = some (q, o))
    (s : State) : exec c s = q.run o s := by
  cases c <;> simp only [orderRow, Option.some.injEq, Prod.mk.injEq, reduceCtorEq] at h
  all_goals
    obtain ⟨rfl, rfl⟩ := h
    rfl

/-- UNKNOWN_ORDER is the frame end of an ORDER whose code is not of the catalogue. -/
theorem exec_unknownOrder {s : State} (hw : s.works = true) {code : Byte}
    (hc : catalogue.contains code = false) (o : Order) : exec (.unknownOrder code o) s
      = .next (orderEnd code o (fun s => .refuse s .unknownOrder) (fun s => s) s) := by
  refine (exec_unknownOrder_eq s code o).trans ((live_works hw _).trans ?_)
  rw [if_neg (by simpa using hc)]

/-- A command that is a frame end ends its frame, with an act of its own. -/
theorem exec_frameOf {c : Instr} {frame : List Byte} (h : frameOf c = some frame) :
    ∃ act, ∀ s : State, s.works = true → exec c s = .next (s.frameEnd frame act) := by
  have row : ∀ {c : Instr}, ((orderRow c).map fun x => withFcs (x.2.frame x.1.code)) = some frame →
      ∃ act, ∀ s : State, s.works = true → exec c s = .next (s.frameEnd frame act) := by
    intro c h
    obtain ⟨⟨q, o⟩, hq, rfl⟩ := Option.map_eq_some_iff.1 h
    exact ⟨_, fun s hw => (exec_orderRow hq s).trans (live_works hw _)⟩
  cases c with
  | badFcsFrameEnd frame =>
    cases h
    exact ⟨_, fun s hw => (exec_badFcsFrameEnd_eq s frame).trans (live_works hw _)⟩
  | sweep f =>
    cases h
    exact ⟨_, fun s hw => (exec_sweep_eq s f).trans (live_works hw _)⟩
  | replyFrame f =>
    cases h
    exact ⟨_, fun s hw => (exec_replyFrame_eq s f).trans (live_works hw _)⟩
  | enumerate next flags =>
    cases h
    exact ⟨_, fun s hw => (exec_enumerate_eq s next flags).trans (live_works hw _)⟩
  | orderNotActedOn code o fcs =>
    cases h
    exact ⟨_, fun s hw => (exec_orderNotActedOn_eq s code o fcs).trans (live_works hw _)⟩
  | orderForwardedOnly code o =>
    cases h
    exact ⟨_, fun s hw => (exec_orderForwardedOnly_eq s code o).trans (live_works hw _)⟩
  | unknownOrder code o =>
    obtain ⟨hc, rfl⟩ : catalogue.contains code = false ∧ withFcs (o.frame code) = frame := by
      simpa [frameOf] using h
    exact ⟨_, fun s hw => (exec_unknownOrder hw hc o).trans rfl⟩
  | _ => exact row h

/-- Bytes of another length than the header gives are no frame end. -/
theorem State.frameEnd_otherLength {frame : List Byte} {n : Nat} (hl : headerOf frame = .expects n)
    (hn : frame.length ≠ n) (s : State) (act : RxFrame → State → State) : s.frameEnd frame act = s := by
  unfold State.frameEnd
  split
  · rfl
  · rw [hl]
    exact if_neg hn

/-- What a header byte in place says: the length it gives, or an unknown frame. -/
theorem headerAt_eq {frame : List Byte} {i lo hi unit : Nat} (hl : i < frame.length) :
    headerAt frame i lo hi unit = if natAt frame i < lo ∨ hi < natAt frame i then .unknown
      else .expects (i + 1 + unit * natAt frame i + 2) := by
  split
  · exact headerAt_of_not_inRange hl ‹_›
  · exact headerAt_of_inRange hl (by omega)

section
variable {frame : List Byte} (h : frame ≠ [])
include h

theorem headerOf_sweepKind (hk : byteAt frame 0 = 0x31#8) : headerOf frame = headerAt frame 7 1 200 12 := by
  simp [headerOf, h, hk, sweepKind]

theorem headerOf_orderKind (hk : byteAt frame 0 = 0x42#8) : headerOf frame = headerAt frame 5 0 240 1 := by
  simp [headerOf, h, hk, sweepKind, orderKind]

theorem headerOf_replyKind (hk : byteAt frame 0 = 0x43#8) : headerOf frame = headerAt frame 5 4 244 1 := by
  simp [headerOf, h, hk, sweepKind, orderKind, replyKind]

theorem headerOf_enumerateKind (hk : byteAt frame 0 = 0x44#8) : headerOf frame = .expects 5 := by
  simp [headerOf, h, hk, sweepKind, orderKind, replyKind, enumerateKind]

end

/-- Settles O8: the faults by `countFor` and `stopsFrame`, the header by its kind byte, and every frame
end by `exec_frameOf`. -/
theorem lineFaultsAreCounted : Obligations.LineFaultsAreCounted := by
  unfold Obligations.LineFaultsAreCounted
  refine ⟨fun s f hw hr hf => ⟨?_, ?_, ?_, ?_⟩, fun s hw hr => exec_surplusBytes hw hr,
    fun s hw hr => exec_inIdleGap_between hw hr, fun frame h => ⟨?_, ?_, ?_, ?_, ?_⟩,
    fun c frame s f hc hf => ?_⟩
  · rw [exec_framingError hw hr hf, s.line.countFor_eq, LinePort.countFor_lineErrors]
  · exact ⟨_, exec_unknownFrame hw hr hf, s.unknownFrame_stops f⟩
  · exact ⟨_, exec_frameTruncation hw hr hf, s.truncate_stops f⟩
  · exact ⟨_, exec_inIdleGap_frame hw hr hf, s.truncate_stops f⟩
  · intro hk hl
    rw [headerOf_sweepKind h hk, headerAt_eq hl]
    exact if_congr (by omega) rfl rfl
  · intro hk hl
    rw [headerOf_orderKind h hk, headerAt_eq hl, Nat.one_mul]
    exact if_congr (by omega) rfl rfl
  · intro hk hl
    rw [headerOf_replyKind h hk, headerAt_eq hl, Nat.one_mul]
  · exact headerOf_enumerateKind h
  · intro h1 h2 h3 h4
    obtain ⟨k, rest, rfl⟩ := List.exists_cons_of_ne_nil h
    refine headerOf_unknownKind rest (Bool.eq_false_iff.2 fun hk => ?_)
    rcases (knownKind_iff k).1 hk with hk | hk | hk | hk
    exacts [h1 hk, h2 hk, h3 hk, h4 hk]
  · obtain ⟨act, hact⟩ := exec_frameOf hc
    rw [hact s hf.works]
    refine ⟨fun hu => ⟨_, rfl, ?_⟩, fun n hl hn => ?_⟩
    · rw [hf.frameEnd_unknown hu]
      exact s.unknownFrame_stops f
    · rw [State.frameEnd_otherLength hl hn]

end Sys2Proof.Machine
end

section
/-! SUPPORT. The frame check sequence, frames passed on, and absorbed ORDERs that are not acted on (R22, R23,
R25, R28, R32). -/

namespace Sys2Proof.Machine

/-! ## The frame check sequence (R22) -/

/-- One step of the division: bit `i` of a byte, most significant first, taken into the remainder. -/
def divideBit (x : Byte) (r : Fcs) (i : Nat) : Fcs :=
  (r <<< 1) ^^^ (if r.getLsbD 15 = x.getLsbD (7 - i) then 0#16 else 0x1021#16)

/-- The byte put over the remainder beforehand gives the same division bit by bit: after `i` bits what is
left of the byte stands shifted over the remainder. -/
theorem crcBit_xor_shift (r : Fcs) (x : Byte) {i : Nat} (hi : i < 8) :
    crcBit (r ^^^ (x.setWidth 16 <<< (8 + i))) = divideBit x r i ^^^ (x.setWidth 16 <<< (8 + (i + 1))) := by
  have top : (r ^^^ (x.setWidth 16 <<< (8 + i))).msb = (r.getLsbD 15 ^^ x.getLsbD (7 - i)) := by
    have place : 15 - (8 + i) = 7 - i := by omega
    have inside : ¬15 < 8 + i := by omega
    simp [BitVec.msb_eq_getLsbD_last, place, inside]
  have shifted : (r ^^^ (x.setWidth 16 <<< (8 + i))) <<< 1
      = (r <<< 1) ^^^ (x.setWidth 16 <<< (8 + (i + 1))) := by
    rw [BitVec.shiftLeft_xor_distrib, ← BitVec.shiftLeft_add]
    rfl
  simp only [crcBit, divideBit, top, shifted]
  cases r.getLsbD 15 <;> cases x.getLsbD (7 - i) <;> simp [BitVec.xor_assoc, BitVec.xor_comm _ 0x1021#16]

theorem crcByte_eq_divide (c : Fcs) (x : Byte) :
    crcByte c x = (List.range 8).foldl (divideBit x) c := by
  have gone : x.setWidth 16 <<< 16 = 0#16 := BitVec.shiftLeft_eq_zero le_rfl
  have start : c ^^^ (x.setWidth 16 <<< 8) = c ^^^ (x.setWidth 16 <<< (8 + 0)) := rfl
  unfold crcByte
  rw [start, crcBit_xor_shift _ x (i := 0) (by decide), crcBit_xor_shift _ x (by decide),
    crcBit_xor_shift _ x (by decide), crcBit_xor_shift _ x (by decide),
    crcBit_xor_shift _ x (by decide), crcBit_xor_shift _ x (by decide),
    crcBit_xor_shift _ x (by decide), crcBit_xor_shift _ x (by decide)]
  simp only [gone, Nat.reduceAdd, BitVec.xor_zero]
  rfl

/-- One byte more is divided into the remainder of those before it. -/
theorem crc_concat (l : List Byte) (x : Byte) :
    crc (l ++ [x]) = (List.range 8).foldl (divideBit x) (crc l) := by
  rw [← crcByte_eq_divide, crc, List.foldl_append]
  rfl

/-! ## A frame passed on (R23) -/

/-- A frame that leaves carries the own slot over the bytes received, and a fresh FCS. -/
theorem OutFrame.sentBytes_eq {x : OutFrame} {sent : List Byte}
    (h : patchSlot (frameBody x.bytes) x.slot = sent) :
    x.sentBytes = sent ++ fcsBytes (if x.bad then ~~~(crc sent) else crc sent) := by
  rw [← h]
  rfl

/-- A frame that a pass-through owns, as its end on IN leaves it. -/
def OutFrame.closed (x : OutFrame) (bytes : List Byte) (bad : Bool) : OutFrame :=
  { x with bytes := bytes, ended := true, bad := bad }

section
variable (l : LinePort) (f : RxFrame) (bytes : List Byte) (good : Bool)

@[simp] theorem LinePort.closeFrame_rx : (l.closeFrame f bytes good).rx = .ended := by
  unfold LinePort.closeFrame; cases f.route <;> rfl
@[simp] theorem LinePort.closeFrame_rxFrame : (l.closeFrame f bytes good).rxFrame = none := by
  unfold LinePort.closeFrame; cases f.route <;> rfl
@[simp] theorem LinePort.closeFrame_absorb : (l.closeFrame f bytes good).absorb = [] := by
  unfold LinePort.closeFrame; cases f.route <;> rfl
@[simp] theorem LinePort.closeFrame_lineErrors : (l.closeFrame f bytes good).lineErrors = l.lineErrors := by
  unfold LinePort.closeFrame; cases f.route <;> rfl
@[simp] theorem LinePort.closeFrame_address : (l.closeFrame f bytes good).address = l.address := by
  unfold LinePort.closeFrame; cases f.route <;> rfl
@[simp] theorem LinePort.closeFrame_ring : (l.closeFrame f bytes good).ring = l.ring := by
  unfold LinePort.closeFrame; cases f.route <;> rfl
@[simp] theorem LinePort.closeFrame_replySlot : (l.closeFrame f bytes good).replySlot = l.replySlot := by
  unfold LinePort.closeFrame; cases f.route <;> rfl
@[simp] theorem LinePort.closeFrame_tx : (l.closeFrame f bytes good).tx = l.tx := by
  unfold LinePort.closeFrame; cases f.route <;> rfl
@[simp] theorem LinePort.closeFrame_outGap : (l.closeFrame f bytes good).outGap = l.outGap := by
  unfold LinePort.closeFrame; cases f.route <;> rfl
@[simp] theorem LinePort.closeFrame_lastSent : (l.closeFrame f bytes good).lastSent = l.lastSent := by
  unfold LinePort.closeFrame; cases f.route <;> rfl

theorem LinePort.closeFrame_thru : (l.closeFrame f bytes good).thru
    = if f.route = .through then l.thru.map fun x => x.closed bytes (!good || f.damaged) else l.thru := by
  unfold LinePort.closeFrame
  cases f.route <;> rfl

theorem LinePort.closeFrame_elastic : (l.closeFrame f bytes good).elastic
    = if f.route = .buffered then l.elastic.map fun x => x.closed bytes (!good || f.damaged)
      else l.elastic := by
  unfold LinePort.closeFrame
  cases f.route <;> rfl

/-- A frame end touches the receive side and the frame that is passed. -/
theorem LinePort.closeFrame_eq : l.closeFrame f bytes good = { l with
    rx := .ended, rxFrame := none, absorb := []
    thru := (l.closeFrame f bytes good).thru, elastic := (l.closeFrame f bytes good).elastic } := by
  unfold LinePort.closeFrame
  cases f.route <;> rfl

/-- It leaves the address. -/
theorem LinePort.closeFrame_setAddress :
    { l.closeFrame f bytes good with address := l.address } = l.closeFrame f bytes good := by
  unfold LinePort.closeFrame
  cases f.route <;> rfl

end

/-! ## ENUMERATE (R32) -/

theorem State.eligible_iff (s : State) (f : RxFrame) (flags : Byte) : s.eligible f flags = true ↔
    s.line.ring = true ∧ (s.line.address = 0 ∨ (flags.getLsbD 0 = true ∧ f.reassignable = true)) := by
  simp [State.eligible]

theorem takesAddress_iff (next : Byte) : takesAddress next = true ↔ 1 ≤ next.toNat ∧ next.toNat ≤ 200 := by
  simp [takesAddress, inRange]

theorem set_byteAt (frame : List Byte) (i : Nat) : frame.set i (byteAt frame i) = frame := by
  by_cases hi : i < frame.length
  · rw [byteAt, List.getD_eq_getElem _ _ hi, List.set_getElem_self]
  · exact List.set_eq_of_length_le (by omega)

/-- An ENUMERATE is rewritten where the node is eligible for it, and nothing else is. -/
theorem State.rewritten_eq (s : State) (f : RxFrame) (frame : List Byte) : s.rewritten f frame =
    if byteAt frame 0 = enumerateKind ∧ s.eligible f (byteAt frame 2) = true
      ∧ takesAddress (byteAt frame 1) = true then frame.set 1 (byteAt frame 1 + 1#8) else frame := by
  unfold State.rewritten State.enumerateOut
  by_cases hk : byteAt frame 0 = enumerateKind
  · by_cases he : s.eligible f (byteAt frame 2) = true ∧ takesAddress (byteAt frame 1) = true
    · simp [hk, he]
    · rw [if_pos hk, if_neg (by simpa using he), if_neg fun h => he h.2, set_byteAt]
  · rw [if_neg hk, if_neg fun h => hk h.1]

/-- What an ENUMERATE at its good frame end does, on the line alone. -/
theorem exec_enumerate {s : State} {next : Byte} {r : RxFrame} (h : s.Receives enumerateKind next r)
    (flags : Byte) : exec (.enumerate next flags) s = .next { s with
      line := { s.line.closeFrame r (s.rewritten r (enumerateBytes next flags)) true with
        address := if r.damaged = false ∧ s.eligible r flags = true ∧ takesAddress next = true
          then next.toNat else s.line.address } } := by
  have ends := State.Receives.frameEnd (frame := enumerateBytes next flags) h (headerOf_enumerate next flags)
  refine (exec_enumerate_eq s next flags).trans ((live_works h.works _).trans ?_)
  rw [ends]
  by_cases ht : r.damaged = false ∧ s.eligible r flags = true ∧ takesAddress next = true
  · rw [if_pos ht, if_pos (by simpa [and_assoc] using ht)]
    rfl
  · rw [if_neg ht, if_neg (by simpa [and_assoc] using ht)]
    simp only [State.onLine, LinePort.closeFrame_setAddress]

/-- Settles O15: eligibility and the address as `eligible` and `takesAddress` say, the bytes by
`rewritten`. -/
theorem enumerateAssignsAddresses : Obligations.EnumerateAssignsAddresses := by
  unfold Obligations.EnumerateAssignsAddresses
  intro next flags s r h
  simp only [← takesAddress_iff, ← s.eligible_iff r flags]
  have kind : byteAt (enumerateBytes next flags) 0 = enumerateKind := rfl
  have second : byteAt (enumerateBytes next flags) 1 = next := rfl
  have third : byteAt (enumerateBytes next flags) 2 = flags := rfl
  rw [exec_enumerate h, s.rewritten_eq, kind, second, third]
  refine ⟨fun ht => ?_, fun ht => ?_⟩
  · rw [if_pos ⟨rfl, ht⟩]
    cases hd : r.damaged
    · rw [if_pos ⟨rfl, ht⟩]
      rfl
    · rw [if_neg (by simp)]
      rfl
  · rw [if_neg fun x => ht x.2, if_neg fun x => ht x.2, LinePort.closeFrame_setAddress]
    rfl

/-! ## A bad frame (R22, R23) -/

/-- A bad frame that is passed on: counted unless it was, and closed as bad; nothing is acted on. -/
theorem exec_badFcsFrameEnd_passed {s : State} {frame : List Byte} {f : RxFrame}
    (h : s.Receives (byteAt frame 0) (byteAt frame 1) f) (hl : headerOf frame = .expects frame.length)
    (hr : f.route ≠ .absorbed) (hb : fcsGood frame = false) :
    exec (.badFcsFrameEnd frame) s = .next { s with
      line := (s.line.countFor f).closeFrame f (s.rewritten f frame) false
      sweep := { s.sweep with capture := [] } } := by
  refine (exec_badFcsFrameEnd_eq s frame).trans ((live_works h.works _).trans ?_)
  rw [h.frameEnd hl, hb, if_neg Bool.false_ne_true, if_neg hr]
  rfl

/-- Settles O9: the FCS by `crc_concat`, the layouts by their definitions, a frame end by `closeFrame`. -/
theorem badFrameIsPassedOnBad : Obligations.BadFrameIsPassedOnBad := by
  unfold Obligations.BadFrameIsPassedOnBad
  refine ⟨by decide +kernel, rfl, crc_concat, fun l => ⟨rfl, rfl⟩, fun code o => rfl, fun f => rfl,
    fun f => ?_, fun x sent hn hs => ?_, fun l f frame => ⟨l.closeFrame_eq f frame true, ?_⟩,
    fun frame s f h hl hr hb => ?_⟩
  · simp [SweepFrame.bytes, be32, sweepKind]
  · have body : patchSlot (frameBody x.bytes) x.slot = sent := by
      cases hx : x.slot with
      | none => exact (hn hx).symm
      | some written => exact (hs written.1 written.2 hx).symm
    exact OutFrame.sentBytes_eq body
  · rw [l.closeFrame_thru, l.closeFrame_elastic]
    refine ⟨fun hr => ?_, fun hr => ?_, fun hr => ?_⟩ <;> rw [hr] <;> exact ⟨rfl, rfl⟩
  · intro next sent
    have bytes : s.rewritten f frame = sent := by
      rw [s.rewritten_eq]
      exact if_congr (and_congr Iff.rfl
        ((and_congr (s.eligible_iff f _) (takesAddress_iff _)).trans and_assoc)) rfl rfl
    refine ⟨_, exec_badFcsFrameEnd_passed h hl hr hb, ?_⟩
    rw [bytes]
    simp only [LinePort.closeFrame_rx, LinePort.closeFrame_rxFrame, LinePort.closeFrame_absorb,
      LinePort.closeFrame_lineErrors, LinePort.closeFrame_address, LinePort.closeFrame_replySlot,
      LinePort.closeFrame_tx, LinePort.closeFrame_thru, LinePort.closeFrame_elastic,
      LinePort.countFor_lineErrors, LinePort.countFor_address, LinePort.countFor_replySlot,
      LinePort.countFor_tx, LinePort.countFor_thru, LinePort.countFor_elastic, true_and, and_true]
    refine ⟨fun hr => ⟨?_, fun x hx => ?_⟩, fun hr => ⟨?_, fun x hx => ?_⟩⟩ <;> rw [hr]
    · rfl
    · rw [hx]
      rfl
    · rfl
    · rw [hx]
      rfl

end Sys2Proof.Machine
end

section
/-! SUPPORT. Absorbed ORDERs that are not acted on, unknown and foreign ORDERs (R24, R25, R42, R43). -/

namespace Sys2Proof.Machine

/-! ## An absorbed ORDER that is not acted on (R25) -/

/-- The line once an absorbed ORDER has ended and is counted. -/
def LinePort.dropped (l : LinePort) (f : RxFrame) : LinePort :=
  { l.countFor f with rx := .ended, rxFrame := none, absorb := [] }

/-- What stands in the reply slot for an ORDER that is re-emitted: the frame, made bad if it is good. -/
def reemitted (frame : List Byte) : List Byte :=
  if fcsGood frame then frameBody frame ++ fcsBytes (~~~(crc (frameBody frame))) else frame

section
variable {l : LinePort} {f : RxFrame} {frame : List Byte} (hr : f.route = .absorbed)
include hr

theorem LinePort.closeFrame_absorbed (bytes : List Byte) (good : Bool) :
    l.closeFrame f bytes good = { l with rx := .ended, rxFrame := none, absorb := [] } := by
  simp only [LinePort.closeFrame, hr]

theorem LinePort.closeFrame_countFor (bytes : List Byte) (good : Bool) :
    (l.closeFrame f bytes good).countFor f = l.dropped f := by
  rw [LinePort.closeFrame_absorbed hr, LinePort.dropped, LinePort.countFor, LinePort.countFor]
  split <;> rfl

/-- With the reply slot occupied it is dropped. -/
theorem LinePort.notActedOn_occupied (hs : l.replySlot ≠ none) : l.notActedOn f frame = l.dropped f := by
  have counted := LinePort.closeFrame_countFor (l := l) hr frame (fcsGood frame)
  simp only [LinePort.notActedOn, counted]
  split
  · rename_i hg
    obtain ⟨-, hd⟩ : fcsGood frame = true ∧ f.damaged = false := by simpa using hg
    rw [← counted, LinePort.countFor, hd]
    rfl
  · rw [if_pos]
    simpa [LinePort.dropped, Option.isSome_iff_ne_none] using hs

/-- Bad or damaged, with the slot empty, it is placed there for re-emission. -/
theorem LinePort.notActedOn_empty (hs : l.replySlot = none)
    (hb : fcsGood frame = false ∨ f.damaged = true) :
    l.notActedOn f frame = (l.dropped f).placeReply (reemitted frame) := by
  have counted := LinePort.closeFrame_countFor (l := l) hr frame (fcsGood frame)
  have amiss : ¬(fcsGood frame && !f.damaged) = true := by
    rcases hb with hb | hb <;> simp [hb]
  have empty : ¬(l.dropped f).replySlot.isSome = true := by simp [LinePort.dropped, hs]
  simp only [LinePort.notActedOn, counted]
  rw [if_neg amiss, if_neg empty]
  rfl

end

/-- A state whose line is that of an absorbed ORDER not acted on. -/
theorem State.droppedOrder_notActedOn {s t : State} {f : RxFrame} {frame : List Byte}
    (hr : f.route = .absorbed)
    (h : fcsGood frame = false ∨ f.damaged = true ∨ s.line.replySlot.isSome = true)
    (ht : t.line = s.line.notActedOn f frame) : s.droppedOrder f frame t := by
  unfold State.droppedOrder
  rw [ht]
  by_cases hs : s.line.replySlot = none
  · have hb : fcsGood frame = false ∨ f.damaged = true := by simpa [hs] using h
    rw [LinePort.notActedOn_empty hr hs hb]
    simp [LinePort.dropped, LinePort.placeReply, LinePort.countFor_lineErrors, hs, reemitted]
  · rw [LinePort.notActedOn_occupied hr hs]
    simp [LinePort.dropped, LinePort.countFor_lineErrors, hs]

theorem order_wf_iff (o : Order) : o.wf = true ↔ o.body.length ≤ 240 := by simp [Order.wf]

theorem exec_orderNotActedOn {code : Byte} {o : Order} {fcs : Fcs} {s : State} {f : RxFrame}
    (hw : o.wf = true) (h : s.Receives orderKind o.dest f) (hr : f.route = .absorbed)
    (hb : fcsGood (o.frame code ++ fcsBytes fcs) = false ∨ f.damaged = true
      ∨ s.line.replySlot.isSome = true) :
    exec (.orderNotActedOn code o fcs) s = .next { s with
      line := s.line.notActedOn f (o.frame code ++ fcsBytes fcs)
      node := { s.node with key := o.key } } := by
  have ends := State.Receives.frameEnd (frame := o.frame code ++ fcsBytes fcs) h (headerOf_order hw code fcs)
  refine (exec_orderNotActedOn_eq s code o fcs).trans ((live_works h.works _).trans ?_)
  simp only [ends]
  rw [if_pos ⟨hr, hb⟩]
  rfl

theorem exec_badFcsFrameEnd_absorbed {s : State} {frame : List Byte} {f : RxFrame}
    (h : s.Receives (byteAt frame 0) (byteAt frame 1) f) (hl : headerOf frame = .expects frame.length)
    (hr : f.route = .absorbed) (hb : fcsGood frame = false) :
    exec (.badFcsFrameEnd frame) s = .next { s with line := s.line.notActedOn f frame } := by
  refine (exec_badFcsFrameEnd_eq s frame).trans ((live_works h.works _).trans ?_)
  rw [h.frameEnd hl, hb, if_neg Bool.false_ne_true, if_pos hr]
  rfl

/-- Settles O10: both commands leave the line of `notActedOn`. -/
theorem orderNotActedOnIsCountedOrReemitted : Obligations.OrderNotActedOnIsCountedOrReemitted := by
  unfold Obligations.OrderNotActedOnIsCountedOrReemitted
  refine ⟨fun code o fcs s f hl h hr hb => ?_, fun frame s f h hl hr hb => ?_⟩
  · exact ⟨_, exec_orderNotActedOn ((order_wf_iff o).2 hl) h hr hb,
      State.droppedOrder_notActedOn hr hb rfl, rfl⟩
  · exact ⟨_, exec_badFcsFrameEnd_absorbed h hl hr hb,
      State.droppedOrder_notActedOn hr (.inl hb) rfl, rfl⟩

/-! ## Unknown and foreign ORDERs (R24, R42, R43) -/

/-- Settles O18: an unknown ORDER ends as `orderEnd` says, a foreign one is closed on the line alone. -/
theorem unknownAndForeignOrders : Obligations.UnknownAndForeignOrders := by
  unfold Obligations.UnknownAndForeignOrders
  refine ⟨fun code o s hc h => ?_, fun code o s f hc h => ?_, fun code o s f hl h hr hg => ?_⟩
  · rw [exec_unknownOrder h.works hc, orderEnd_addressed h]
    rfl
  · obtain ⟨-, received, -⟩ := id h
    rw [exec_unknownOrder received.works hc, orderEnd_overheard h]
  · have ends := State.Receives.frameEnd (frame := withFcs (o.frame code)) h
      (headerOf_order ((order_wf_iff o).2 hl) code _)
    refine (exec_orderForwardedOnly_eq s code o).trans ((live_works h.works _).trans ?_)
    rw [ends, if_neg (by simp [hr, hg])]
    rfl

end Sys2Proof.Machine
end

section
/-! SUPPORT. The OUT arbiter, breaks, and reports of a duplicate address (R26, R27, R29, R30, R34). -/

namespace Sys2Proof.Machine

/-! ## The OUT arbiter (R26, R27) -/

/-- A buffered frame does not leave before the gap. -/
theorem LinePort.leaving_gap {l : LinePort} (hn : l.thru = none) (hg : l.outGap = false) :
    l.leaving = none := by
  unfold LinePort.leaving
  rw [hn, hg]
  exact ite_self _

theorem LinePort.gapElapsed_idle {l : LinePort} (ht : l.tx = .idle) (hb : l.rx ≠ .brk) :
    l.gapElapsed = { l with
      outGap := true
      tx := if l.replySlot ≠ none then .replying else if l.elastic ≠ none then .passing else .idle } := by
  simp only [LinePort.gapElapsed, if_neg hb, ht, Option.isSome_iff_ne_none]

theorem LinePort.gapElapsed_buffered {l : LinePort} (ht : l.tx = .passing) (hn : l.thru = none)
    (hb : l.rx ≠ .brk) : l.gapElapsed = { l with outGap := true } := by
  simp [LinePort.gapElapsed, hb, ht, hn]

section
variable {s : State} (hw : s.works = true)
include hw

theorem exec_outGapElapsed : exec .outGapElapsed s = .next { s with line := s.line.gapElapsed } :=
  (exec_outGapElapsed_eq s).trans (live_works hw _)

/-- Nothing leaves OUT: no pass-through frame has left, and no own slot is written. -/
theorem exec_none_leaving (hl : s.line.leaving = none) :
    exec .passThroughLeftOut s = .next s ∧ ∀ n, exec (.ownSlotWrite n) s = .next s := by
  refine ⟨(exec_passThroughLeftOut_eq s).trans ((live_works hw _).trans ?_),
    fun n => (exec_ownSlotWrite_eq s n).trans ((live_works hw _).trans ?_)⟩ <;> simp only [hl]

theorem exec_passThroughLeftOut {x : OutFrame} (hl : s.line.leaving = some x) (he : x.ended = true) :
    exec .passThroughLeftOut s = .next { s with line := s.line.passedLeft (s.withSlot x) } := by
  refine (exec_passThroughLeftOut_eq s).trans ((live_works hw _).trans ?_)
  simp only [hl, he, if_true]
  rfl

theorem exec_replyLeftOut {reply : List Byte} (ht : s.line.tx = .replying) (hb : s.line.rx ≠ .brk)
    (hs : s.line.replySlot = some reply) : exec .replyLeftOut s = .next { s with
      line := s.line.replyLeft reply
      node := { s.node with restartDue := s.node.restartPending.isSome } } := by
  refine (exec_replyLeftOut_eq s).trans ((live_works hw _).trans ?_)
  simp only [ht, hs, if_neg hb]

/-- A reply is sent. -/
theorem State.outLevel_replying (hb : s.line.rx ≠ .brk) (ht : s.line.tx = .replying) :
    s.outLevel = .sending := by
  simp [State.outLevel, State.works.not_held hw, hb, ht]

/-- A buffered frame is sent once the gap before it has passed, OUT at mark until then. -/
theorem State.outLevel_buffered (hb : s.line.rx ≠ .brk) (ht : s.line.tx = .passing)
    (hn : s.line.thru = none) : s.outLevel = if s.line.outGap then .sending else .mark := by
  simp [State.outLevel, State.works.not_held hw, hb, ht, hn]

end

/-- Settles O16: each event of OUT by what it does to the line. -/
theorem outArbiterHandsOutOn : Obligations.OutArbiterHandsOutOn := by
  unfold Obligations.OutArbiterHandsOutOn
  refine ⟨fun s hw ht hb => ?_, fun s hw ht hn hb => ⟨?_, fun hg => ⟨?_, ?_⟩, fun hg => ?_⟩,
    fun s reply hw ht hb hs => ⟨?_, ?_⟩, fun s x hw ht hb he hx => ?_,
    fun s x hw ht hb he hn hx hg => ?_⟩
  · rw [exec_outGapElapsed hw, LinePort.gapElapsed_idle ht hb]
  · rw [exec_outGapElapsed hw, LinePort.gapElapsed_buffered ht hn hb]
  · rw [State.outLevel_buffered hw hb ht hn, hg]
    rfl
  · exact exec_none_leaving hw (LinePort.leaving_gap hn hg)
  · rw [State.outLevel_buffered hw hb ht hn, hg]
    rfl
  · exact State.outLevel_replying hw hb ht
  · rw [exec_replyLeftOut hw ht hb hs]
    simp only [LinePort.replyLeft, Option.isSome_iff_ne_none]
  · rw [exec_passThroughLeftOut hw (LinePort.leaving_thru ht hb hx) he]
    simp [LinePort.passedLeft, hx, Option.isSome_iff_ne_none]
  · rw [exec_passThroughLeftOut hw (LinePort.leaving_elastic ht hb hn hx hg) he]
    simp [LinePort.passedLeft, hn]

/-! ## Breaks (R29, R30) -/

/-- Settles O17: the break and its end at the Line Port. -/
theorem breakResetsTheLine : Obligations.BreakResetsTheLine := by
  unfold Obligations.BreakResetsTheLine
  refine ⟨fun s hw => ⟨(exec_lineBreak_eq s).trans (live_works hw _), ?_⟩, fun s hw hb => ?_⟩
  · have unheld : ({ s with line := { s.line with rx := .brk } } : State).held = false :=
      State.works.not_held hw
    rw [State.outLevel, unheld]
    rfl
  · refine (exec_lineReset_eq s).trans ((live_works hw _).trans ?_)
    rw [if_pos hb]
    rfl

/-! ## A duplicate address (R34) -/

/-- The event is reported: it stands in the queue, or an event was lost. -/
def EventUnit.reports (u : EventUnit) (k : EventKind) : Prop :=
  (∃ e ∈ u.queue, e.kind = k) ∨ u.overflow = true

/-- What is reported stays so at later posts. -/
theorem EventUnit.reports_post {u : EventUnit} {k : EventKind} (h : u.reports k) (e : Event) :
    (u.post e).reports k := by
  unfold EventUnit.post
  split
  · exact h
  · split
    · exact h.imp_left fun ⟨x, hx, hk⟩ => ⟨x, List.mem_append_left _ hx, hk⟩
    · exact .inr rfl

/-- A post reports its event. -/
theorem EventUnit.post_reports (u : EventUnit) (e : Event) : (u.post e).reports e.kind := by
  unfold EventUnit.post
  split
  · rename_i h
    obtain ⟨x, hx, hk⟩ := List.any_eq_true.1 h
    exact .inl ⟨x, hx, beq_iff_eq.1 hk⟩
  · split
    · exact .inl ⟨e, by simp, rfl⟩
    · exact .inr rfl

section
variable {k : EventKind}

theorem State.takeRecord_reports {s : State} (h : s.events.reports k) (p : Nat) :
    (s.takeRecord p).events.reports k := by
  have taken := EventUnit.reports_post h ⟨.taken p, 0, 0, s.take.clock⟩
  simp only [State.takeRecord]
  split
  · exact EventUnit.reports_post taken _
  · exact taken

theorem fireEntry_reports {acc : State × Option Nat} (h : acc.1.events.reports k) (e : ScheduleEntry) :
    (fireEntry acc e).1.events.reports k := by
  have failed : (acc.1.post (.scheduledTakeFailed e.plan)).events.reports k :=
    EventUnit.reports_post h _
  simp only [fireEntry]
  split
  · exact failed
  · split
    · exact State.takeRecord_reports h _
    · split
      · exact State.takeRecord_reports h _
      · exact failed
    all_goals exact h

theorem State.dueTest_reports {s : State} (h : s.events.reports k) : s.dueTest.events.reports k := by
  have fired : ∀ (l : List ScheduleEntry) (acc : State × Option Nat), acc.1.events.reports k →
      (l.foldl fireEntry acc).1.events.reports k := by
    intro l
    induction l with
    | nil => exact fun _ h => h
    | cons e l ih => exact fun acc h => ih _ (fireEntry_reports h e)
  simp only [State.dueTest]
  split
  · exact fired _ _ h
  · rw [State.takeTargets_events]
    exact fired _ _ h

theorem State.sweepEvent_reports {s : State} (h : s.events.reports k) (f : SweepFrame) :
    (s.sweepEvent f).events.reports k := by
  unfold State.sweepEvent
  split
  · exact EventUnit.reports_post h _
  · simp only [State.syncClock]
    split
    · simpa using h
    · refine State.dueTest_reports ?_
      simpa using h

end

/-- An undamaged SWEEP at its good frame end. -/
theorem exec_sweep_undamaged {f : SweepFrame} {s : State} {r : RxFrame} (hf : f.wf = true)
    (h : s.Receives sweepKind f.number r) (hd : r.damaged = false) :
    let s1 := s.onLine fun l => l.closeFrame r f.bytes true
    let s2 := if s1.sweepShowsDuplicate f then s1.post .duplicateAddress else s1
    exec (.sweep f) s = .next ((s2.captureSlots f r.capturing).sweepEvent f) := by
  have ends := State.Receives.frameEnd (frame := f.bytes) h (headerOf_sweep hf)
  refine (exec_sweep_eq s f).trans ((live_works h.works _).trans ?_)
  simp only [ends, hd]
  rfl

theorem exec_replyFrame {f : ReplyFrame} {s : State} {r : RxFrame} (hf : f.wf = true)
    (h : s.Receives replyKind f.source r) : exec (.replyFrame f) s = .next { s with
      line := s.line.closeFrame r f.bytes true
      events := if r.damaged = false ∧ s.line.address ≠ 0 ∧ f.source.toNat = s.line.address
        then s.events.post ⟨.duplicateAddress, 0, 0, s.take.clock⟩ else s.events } := by
  have ends := State.Receives.frameEnd (frame := f.bytes) h (headerOf_reply hf)
  refine (exec_replyFrame_eq s f).trans ((live_works h.works _).trans ?_)
  simp only [ends]
  by_cases hc : r.damaged = false ∧ s.line.address ≠ 0 ∧ f.source.toNat = s.line.address
  · rw [if_pos hc, if_pos (by simpa [and_assoc] using hc)]
    rfl
  · rw [if_neg hc, if_neg (by simpa [and_assoc] using hc)]
    rfl

/-- Settles O14: a REPLY posts by `exec_replyFrame`; what a SWEEP posts first stays reported. -/
theorem duplicateAddressIsPosted : Obligations.DuplicateAddressIsPosted := by
  unfold Obligations.DuplicateAddressIsPosted
  refine ⟨fun f s r hf h => exec_replyFrame hf h, fun f s r hf h hd ha hn hb => ?_⟩
  refine ⟨_, exec_sweep_undamaged hf h hd, State.sweepEvent_reports ?_ f⟩
  have shows : (s.onLine fun l => l.closeFrame r f.bytes true).sweepShowsDuplicate f = true := by
    simp [State.sweepShowsDuplicate, State.onLine, inRange, ha, hn, SweepFrame.slotByte, hb]
  rw [if_pos shows]
  exact EventUnit.post_reports _ _

end Sys2Proof.Machine
end

section
/-! SUPPORT. What every head DARK, and every head entering service, makes of the gantry (R47, R48, R52). -/

namespace Sys2Proof.Machine

/-! ## No head shows a pattern -/

/-- No channel is lit. -/
theorem Bank.litChannels_dark (b : Bank) {heads : Vector Head 8} (h : ∀ i : Fin 8, heads[i].shown = none) :
    b.litChannels heads = [] := by
  refine List.eq_nil_iff_forall_not_mem.2 fun c hc => ?_
  obtain ⟨i, x, hx, -⟩ := (b.mem_litChannels heads c).1 hc
  obtain ⟨-, a, p, hs, -⟩ := (b.mem_shownPattern i _ x).1 hx
  rw [h i] at hs
  cases hs

/-- No lit channel, no ramp: the slew timer idles (R141). -/
theorem slewAfter_nil (channels : Vector Channel 32) (slew : Option Nat) : slewAfter [] channels slew = none := rfl

theorem Head.shown_darken (hd : Head) : hd.darken.shown = none := Head.shown_dark rfl rfl

theorem Bank.shownPattern_none (b : Bank) (h : Fin 8) {hd : Head} (hs : hd.shown = none) :
    b.shownPattern h hd = [] := by
  simp [Bank.shownPattern, hs]

/-- The record given, its proving state afresh where the head is forced or comes to show another pattern. -/
theorem Gantry.relight_head_eq (g : Gantry) (old new : Bank) (forced : Fin 8 → Bool) (heads : Vector Head 8)
    (h : Fin 8) : (g.relight old new forced heads).heads[h] =
      if forced h = true ∨ heads[h].shown ≠ g.heads[h].shown then { heads[h] with
        proving := provingOf (new.shownPattern h heads[h]) (g.relight old new forced heads).channels }
      else heads[h] := by
  simp [Gantry.relight]

/-- A head that comes to show nothing is UNPROVEN, and keeps its proving state where it showed nothing (R153). -/
theorem Gantry.relight_head_dark (g : Gantry) (old new : Bank) {forced : Fin 8 → Bool} {heads : Vector Head 8}
    {h : Fin 8} (hf : forced h = false) (hs : heads[h].shown = none) :
    (g.relight old new forced heads).heads[h] = { heads[h] with
      proving := if g.heads[h].shown = none then heads[h].proving else .unproven } := by
  rw [Gantry.relight_head_eq, Bank.shownPattern_none _ _ hs, hs, hf]
  by_cases dark : g.heads[h].shown = none
  · rw [dark, if_neg (by simp), if_pos rfl]
  · rw [if_pos (.inr (Ne.symm dark)), if_neg dark]
    rfl

/-! ## Every head DARK (R48) -/

section
variable (g : Gantry) (b : Bank)

theorem Gantry.darken_lit : b.litChannels (Vector.ofFn fun h : Fin 8 => g.heads[h].darken) = [] :=
  b.litChannels_dark fun i => by
    simp only [Fin.getElem_fin, Vector.getElem_ofFn]
    exact Head.shown_darken _

theorem Gantry.darken_heads (h : Fin 8) : (g.darken b).heads[h] = { g.heads[h].darken with
    proving := if g.heads[h].shown = none then g.heads[h].proving else .unproven } := by
  have given : (Vector.ofFn fun i : Fin 8 => g.heads[i].darken)[h] = g.heads[h].darken := by simp
  unfold Gantry.darken
  rw [Gantry.relight_head_dark _ b b rfl (by rw [given, Head.shown_darken]), given]
  rfl

theorem Gantry.darken_lanes (k : Fin 4) : (g.darken b).lanes[k] = g.lanes[k].unclear := by
  simp [Gantry.darken]

theorem Gantry.darken_channels (c : Fin 32) : (g.darken b).channels[c] =
    if c ∈ b.litChannels g.heads then { g.channels[c] with output := 0, settle := 0, fault := 0 }
    else g.channels[c] := by
  obtain ⟨each, -⟩ := Gantry.relit_relight { g with lanes := Vector.ofFn fun k : Fin 4 => g.lanes[k].unclear } b b
    (fun _ => false) (Vector.ofFn fun h : Fin 8 => g.heads[h].darken)
  obtain ⟨-, leaves, -, -, stays⟩ := each c
  have unlit : c ∉ b.litChannels (Vector.ofFn fun h : Fin 8 => g.heads[h].darken) := by
    rw [g.darken_lit b]
    exact List.not_mem_nil
  split
  · rename_i lit
    exact leaves lit unlit
  · rename_i dark
    exact stays dark unlit

theorem Gantry.darken_slew : (g.darken b).slew = none :=
  if_neg (by rw [g.darken_lit b]; exact Bool.false_ne_true)

end

/-! ## Every existing head CLOSED (R47) -/

theorem Head.shown_entering (hd : Head) :
    (hd.entering true).shown = some (.closed, .primary) ∧ (hd.entering false).shown = none := ⟨rfl, rfl⟩

section
variable (g : Gantry) (b : Bank) (now : Nat)

/-- The gantry as `Gantry.enter` relights it. -/
theorem Gantry.enter_eq : g.enter b now = { g with
    lanes := Vector.ofFn fun k : Fin 4 =>
      if b.tidal k then { g.lanes[k] with clearSince := some now, clearCount := 0, clear := false }
      else g.lanes[k] }.relight b b b.headExists
    (Vector.ofFn fun h : Fin 8 => g.heads[h].entering (b.headExists h)) := rfl

theorem Gantry.entering_get (h : Fin 8) :
    (Vector.ofFn fun i : Fin 8 => g.heads[i].entering (b.headExists i))[h]
      = g.heads[h].entering (b.headExists h) := by
  simp

/-- What lights a head at the start of service is its CLOSED primary pattern. -/
theorem Bank.shownPattern_entering (h : Fin 8) (hd : Head) (e : PatternEntry) :
    e ∈ b.shownPattern h (hd.entering (b.headExists h)) ↔
      b.headExists h = true ∧ e ∈ b.pattern h .closed .primary := by
  rw [b.mem_shownPattern]
  refine and_congr_right fun hx => ?_
  rw [hx, (Head.shown_entering hd).1]
  simp

theorem Gantry.mem_enter_lit (c : Fin 32) :
    c ∈ b.litChannels (Vector.ofFn fun h : Fin 8 => g.heads[h].entering (b.headExists h)) ↔
      ∃ h : Fin 8, b.headExists h = true ∧ ∃ e ∈ b.pattern h .closed .primary, e.channel = c := by
  simp only [b.mem_litChannels, g.entering_get, b.shownPattern_entering, and_assoc, exists_and_left]

theorem Gantry.enter_relit : g.relit (g.enter b now) (fun c => c ∈ b.litChannels g.heads)
    (fun c => ∃ h : Fin 8, b.headExists h = true ∧ ∃ e ∈ b.pattern h .closed .primary, e.channel = c)
    (fun _ => True) := by
  refine ((Gantry.relit_relight _ b b b.headExists _).of_eq rfl rfl).congr (fun _ => Iff.rfl)
    (g.mem_enter_lit b) fun c _ lit => iff_true_intro ?_
  obtain ⟨h, hx, e, he, rfl⟩ := lit
  refine ⟨h, .inl hx, e, ?_, rfl⟩
  rw [g.entering_get]
  exact (b.shownPattern_entering h _ e).2 ⟨hx, he⟩

theorem Gantry.enter_settles {h : Fin 8} (hx : b.headExists h = true) {e : PatternEntry}
    (he : e ∈ b.pattern h .closed .primary) : (g.enter b now).channels[e.channel].settle = 0 :=
  ((g.enter_relit b now).settled ⟨h, hx, e, he, rfl⟩ trivial).1

theorem Gantry.enter_lanes (k : Fin 4) : (g.enter b now).lanes[k] = if b.tidal k then
    { g.lanes[k] with clearSince := some now, clearCount := 0, clear := false } else g.lanes[k] := by
  simp [Gantry.enter_eq]

theorem Gantry.enter_present {h : Fin 8} (hx : b.headExists h = true) :
    (g.enter b now).heads[h] = { Head.reset with
      displayed := .closed, target := some .closed, stage := some .steady, proving := .unproven } := by
  have settling : provingOf (b.shownPattern h (g.heads[h].entering (b.headExists h))) (g.enter b now).channels
      = .unproven :=
    provingOf_settling fun e he => g.enter_settles b now hx ((b.shownPattern_entering h _ e).1 he).2
  rw [g.enter_eq, Gantry.relight_head_eq, if_pos (.inl hx), ← g.enter_eq, g.entering_get, settling, hx]
  rfl

theorem Gantry.enter_absent {h : Fin 8} (hx : b.headExists h = false) :
    (g.enter b now).heads[h] = { Head.reset with
      proving := if g.heads[h].shown = none then g.heads[h].proving else .unproven } := by
  have given := g.entering_get b h
  rw [hx] at given
  rw [g.enter_eq, Gantry.relight_head_dark _ b b hx (by rw [given, (Head.shown_entering _).2]), given]
  rfl

end

end Sys2Proof.Machine
end

section
/-! SUPPORT. What the node resets leave: power-on, RESET_N and RESTART FULL the power-on state (R51), RESTART
KEEP_TABLES the items of R50's table, and supply loss or RESET_N low a node dark and silent. -/

namespace Sys2Proof.Machine

/-! ## Power-on, RESET_N and RESTART FULL (R51) -/

theorem State.powerUp_eq (s : State) (c : Cause) (p : ResetInputs) : s.powerUp c p = s.restarted c p := rfl

/-- A pending restart that is due takes effect with the readings of its command (R49). -/
theorem State.effectOf_due {s : State} {k : RestartKind} (held : s.held = false)
    (pending : s.node.restartPending = some k) (due : s.node.restartDue = true) (p : ResetInputs) :
    s.effectOf k p = s.restartEffect k p := by
  unfold State.effectOf
  rw [if_neg (by simp [held]), if_pos ⟨pending, due⟩]

/-- The effect of a restart is none on a node held in reset (log 11). -/
theorem State.effectOf_held {s : State} (h : s.held = true) (k : RestartKind) (p : ResetInputs) :
    s.effectOf k p = s := if_pos h

/-- A node just reset reports nothing: no head exists and every alarm condition is clear. -/
theorem State.restarted_alarms (s : State) (c : Cause) (p : ResetInputs) (k : Fin 8) :
    (s.restarted c p).alarm k = false := by
  have none : (s.restarted c p).existing = [] := by
    have b : Bank.reset.existing = [] := by decide
    simp [State.existing, State.restarted, b]
  fin_cases k
  · simp [State.alarm, none]
  · simp [State.alarm, none]
  all_goals rfl

/-- Settles O4: each of the three is `powerUp`, and nothing of `restarted` raises an alarm. -/
theorem resetsLeaveThePowerOnState : Obligations.ResetsLeaveThePowerOnState := by
  unfold Obligations.ResetsLeaveThePowerOnState
  refine ⟨fun p s high => ?_, fun p s supply => ?_, fun p s held pending due => ?_,
    fun c p s => ⟨?_, rfl⟩, rfl⟩
  · exact congrArg Host.Outcome.next ((if_pos high).trans (s.powerUp_eq .powerOn p))
  · exact congrArg Host.Outcome.next ((if_pos supply).trans (s.powerUp_eq .resetPin p))
  · exact congrArg Host.Outcome.next
      ((State.effectOf_due held pending due p).trans (s.powerUp_eq .restartFull p))
  · have quiet := State.restarted_alarms s c p
    have unheld : (s.restarted c p).held = false := rfl
    simp [State.alarmPin, State.alarmSummary, quiet, unheld]

/-! ## Held in reset (R51, log 11) -/

/-- With the supply down or RESET_N low a node put in reset is held, dark and silent. -/
theorem State.holdInReset_heldAfter (s : State) {n : NodeControl} (mode : n.mode = s.node.mode)
    (restart : n.restartPending = none) (low : (n.supplyOk && n.resetNHigh) = false) :
    { s.holdInReset with node := n }.heldAfter s := by
  have held : { s.holdInReset with node := n }.held = true := by simp [State.held, low]
  refine ⟨held, rfl, ?_, if_pos held, fun c => ?_, fun h => ?_, rfl, mode, restart, rfl, rfl, rfl, rfl, rfl,
    rfl, rfl⟩
  · rw [State.alarmPin, held]
    rfl
  · simp [State.holdInReset, Gantry.outputsOff]
  · have dark := (s.gantry).darken_heads s.store.active h
    simp only [State.holdInReset, Gantry.outputsOff, dark]
    rfl

/-- Settles O5: both put the node in reset, and one pin alone does not bring it back. -/
theorem heldInReset : Obligations.HeldInReset := by
  unfold Obligations.HeldInReset
  refine ⟨fun s => ⟨_, rfl, rfl, rfl, State.holdInReset_heldAfter s rfl rfl rfl⟩,
    fun s => ⟨_, rfl, rfl, rfl, State.holdInReset_heldAfter s rfl rfl (Bool.and_false _)⟩,
    fun p s low => congrArg Host.Outcome.next (if_neg (by simp [low])),
    fun p s low => congrArg Host.Outcome.next (if_neg (by simp [low]))⟩

/-! ## The temperature reading (R144, R145) -/

/-- A reading touches the flag and the temperature of the drive alone. -/
theorem State.readTemperature_lamp (s : State) (r : Int) :
    (s.readTemperature r).lamp = { s.lamp with
      temperature := clampInt r (-40) 125, derate := (s.readTemperature r).lamp.derate } := by
  simp only [State.readTemperature]
  repeat' split
  all_goals rfl

/-- Where the derate state is clear, a reading at the threshold or above sets it, posts and recomputes. -/
theorem State.readTemperature_underated {s : State} (h : s.lamp.derate = false) (r : Int) {hot : Bool}
    (hh : (s.node.tablesValid && decide (s.store.active.threshold ≤ clampInt r (-40) 125)) = hot) :
    s.readTemperature r = bif hot then
        ({ s with lamp := { s.lamp with temperature := clampInt r (-40) 125, derate := true } }.post
          .overTemperature).retarget
      else { s with lamp := { s.lamp with temperature := clampInt r (-40) 125 } } := by
  subst hh
  simp only [State.readTemperature]
  cases valid : s.node.tablesValid
  · simp
  · by_cases hot : s.store.active.threshold ≤ clampInt r (-40) 125
    · simp [h, hot]
    · simp [h, hot]

/-! ## RESTART KEEP_TABLES (R50), block by block -/

section
variable (s : State) (p : ResetInputs)

theorem State.keepRestart_line : (s.keepRestart p).line =
    { (s.restarted .restartKeep p).line with
      address := if p.ring then s.line.address else strapAddress p.straps } := by
  simp only [State.keepRestart, State.readTemperature_line, State.retarget_line]
  rfl

theorem State.keepRestart_node : (s.keepRestart p).node =
    { (s.restarted .restartKeep p).node with
      mode := if s.node.tablesValid then .outOfService else .unconfigured
      tablesValid := s.node.tablesValid
      tablesRetained := true } := by
  simp only [State.keepRestart, State.readTemperature_node, State.retarget_node]
  rfl

theorem State.keepRestart_store : (s.keepRestart p).store =
    { s.store with shadow := s.store.active, validating := false, commitAge := 0 } := by
  simp only [State.keepRestart, State.readTemperature_store, State.retarget_store]
  rfl

theorem State.keepRestart_take : (s.keepRestart p).take =
    { (s.restarted .restartKeep p).take with clock := s.take.clock } := by
  simp only [State.keepRestart, State.readTemperature_take, State.retarget_take]
  rfl

theorem State.keepRestart_sweep : (s.keepRestart p).sweep =
    { lastPhase := none, records := s.store.active.references.map Neighbour.created, capture := [] } := by
  simp only [State.keepRestart, State.readTemperature_sweep, State.retarget_sweep]
  rfl

theorem State.keepRestart_watchdog : (s.keepRestart p).watchdog = Watchdog.stopped := by
  simp only [State.keepRestart, State.readTemperature_watchdog, State.retarget_watchdog]
  rfl

theorem State.keepRestart_now : (s.keepRestart p).now = 0 := by
  simp only [State.keepRestart, State.readTemperature_now, State.retarget_now]
  rfl

end

/-! ## The gantry after RESTART KEEP_TABLES -/

/-- `g'` is a gantry as reset leaves it, but for the learned references, those of `g`, and the target codes. -/
structure Gantry.KeepsRefs (g g' : Gantry) (code : Fin 32 → Nat) : Prop where
  heads : g'.heads = Vector.replicate 8 Head.reset
  lanes : g'.lanes = Vector.replicate 4 Lane.reset
  slew : g'.slew = none
  channels : ∀ c : Fin 32, g'.channels[c] = { Channel.reset with ref := g.channels[c].ref, target := code c }

/-- A recomputation gives such a gantry new target codes; no head is lit, so nothing ramps. -/
theorem Gantry.KeepsRefs.retarget {g g' : Gantry} {code : Fin 32 → Nat} (h : g.KeepsRefs g' code) (b : Bank)
    (new : Fin 32 → Nat) : g.KeepsRefs (g'.retarget b new) new where
  heads := by simpa only [Gantry.retarget] using h.heads
  lanes := by simpa only [Gantry.retarget] using h.lanes
  slew := by
    have dark : b.litChannels g'.heads = [] := b.litChannels_dark fun i => by
      simp [h.heads, Head.shown, Head.reset]
    simp only [Gantry.retarget, dark, slewAfter_nil]
  channels c := by
    have was := h.channels c
    simp only [Fin.getElem_fin] at was
    simp [Gantry.retarget, was]

/-- What RESTART KEEP_TABLES makes of gantry, drive and events: the reading is judged on a gantry that keeps the
learned references, with the events cleared to RESTARTED. -/
theorem State.keepRestart_judged (s : State) (p : ResetInputs) : ∃ u : State,
    s.keepRestart p = u.readTemperature p.die ∧ u.node.tablesValid = s.node.tablesValid
      ∧ u.store.active = s.store.active ∧ u.lamp = (s.restarted .restartKeep p).lamp
      ∧ u.take.clock = s.take.clock ∧ u.events = restartedQueue .restartKeep s.take.clock
      ∧ s.gantry.KeepsRefs u.gantry (s.store.active.targetCode s.node.tablesValid 7 false) := by
  refine ⟨_, rfl, rfl, rfl, rfl, rfl, rfl,
    Gantry.KeepsRefs.retarget (code := fun _ => 0) ⟨rfl, rfl, rfl, fun c => ?_⟩ _ _⟩
  simp [State.rebuildNeighbours, State.powerUp, State.reset, Channel.reset]

theorem State.keepRestart_drive (s : State) (p : ResetInputs) :
    let t := s.keepRestart p
    t.lamp = { (s.restarted .restartKeep p).lamp with
        derate := s.node.tablesValid && decide (s.store.active.threshold ≤ max (-40) (min 125 p.die)) }
      ∧ t.events = {
        queue := ⟨.restarted .restartKeep, 0, 0, s.take.clock⟩ ::
          (if t.lamp.derate then [⟨.overTemperature, 0, 0, s.take.clock⟩] else [])
        overflow := false }
      ∧ s.gantry.KeepsRefs t.gantry (s.store.active.targetCode s.node.tablesValid 7 t.lamp.derate) := by
  obtain ⟨u, judged, valid, active, lamp, clock, events, gantry⟩ := s.keepRestart_judged p
  have clear : u.lamp.derate = false := by rw [lamp]; rfl
  rw [← valid, ← active] at gantry ⊢
  change let t := s.keepRestart p
    t.lamp = { (s.restarted .restartKeep p).lamp with
      derate := u.node.tablesValid && decide (u.store.active.threshold ≤ clampInt p.die (-40) 125) } ∧ _
  cases hot : u.node.tablesValid && decide (u.store.active.threshold ≤ clampInt p.die (-40) 125)
  all_goals rw [judged, State.readTemperature_underated clear p.die hot]
  · refine ⟨?_, ?_, ?_⟩
    · simp only [cond_false, lamp]
      rfl
    · simp only [cond_false, events, clear]
      rfl
    · simpa only [cond_false, clear] using gantry
  · refine ⟨?_, ?_, ?_⟩
    · simp only [cond_true, State.retarget_lamp, State.post_lamp, lamp]
      rfl
    · simp only [cond_true, State.retarget_events, State.retarget_lamp, State.post, State.postDetail, events, clock]
      rfl
    · have level : u.lamp.level = 7 := by
        rw [lamp]
        rfl
      rw [← level]
      exact gantry.retarget u.store.active _

/-! ## The neighbour references (R119) -/

/-- Each member once, at its first place. -/
theorem firstPlaces {α : Type} [DecidableEq α] (l : List α) :
    let u := l.foldl (fun acc r => if acc.contains r then acc else acc ++ [r]) []
    u.Nodup ∧ (∀ r, r ∈ u ↔ r ∈ l) ∧ u.Pairwise fun x y => l.idxOf x < l.idxOf y := by
  induction l using List.reverseRecOn with
  | nil => simp
  | append_singleton l r ih =>
    obtain ⟨nodup, mem, sorted⟩ := ih
    simp only [List.foldl_append, List.foldl_cons, List.foldl_nil]
    generalize l.foldl _ [] = u at nodup mem sorted ⊢
    have places : ∀ x ∈ u, (l ++ [r]).idxOf x = l.idxOf x := fun x hx => List.idxOf_append_of_mem ((mem x).1 hx)
    have sorted' : u.Pairwise fun x y => (l ++ [r]).idxOf x < (l ++ [r]).idxOf y :=
      sorted.imp_of_mem fun hx hy h => by rwa [places _ hx, places _ hy]
    split
    · rename_i old
      have old := List.contains_iff_mem.1 old
      refine ⟨nodup, fun x => ?_, sorted'⟩
      rw [List.mem_append, List.mem_singleton, mem]
      exact ⟨.inl, fun h => h.elim id fun h => by rw [h]; exact (mem r).1 old⟩
    · rename_i new
      have new : r ∉ u := fun h => new (List.contains_iff_mem.2 h)
      refine ⟨?_, fun x => ?_, ?_⟩
      · exact List.nodup_append.2 ⟨nodup, List.nodup_singleton r, fun a ha b hb h =>
        new (by rwa [← List.mem_singleton.1 hb, ← h])⟩
      · rw [List.mem_append, List.mem_append, mem]
      · refine List.pairwise_append.2 ⟨sorted', List.pairwise_singleton _ _, fun x hx y hy => ?_⟩
        rw [List.mem_singleton.1 hy, places x hx, List.idxOf_append_of_notMem fun h => new ((mem r).2 h)]
        exact (List.idxOf_lt_length_of_mem ((mem x).1 hx)).trans_le (Nat.le_add_right _ _)

/-- Settles O6: R50's table item by item, and the references at their first places. -/
theorem keepTablesRestartKeeps : Obligations.KeepTablesRestartKeeps := by
  unfold Obligations.KeepTablesRestartKeeps
  refine ⟨fun b => firstPlaces _, fun p s held pending due => ?_⟩
  obtain ⟨lamp, events, gantry⟩ := s.keepRestart_drive p
  exact ⟨s.keepRestart p, congrArg Host.Outcome.next (State.effectOf_due held pending due p),
    s.keepRestart_line p, s.keepRestart_node p, s.keepRestart_store p, s.keepRestart_take p,
    s.keepRestart_sweep p, s.keepRestart_watchdog p, gantry.heads, gantry.lanes, gantry.slew,
    gantry.channels, lamp, events, s.keepRestart_now p, s.keepRestart_pending p⟩

end Sys2Proof.Machine
end

section
/-! SUPPORT. The flags, the watchdog, the Take Unit and the lamp power agree with the mode (R36, R39, R66, R82,
R124, R140). -/

namespace Sys2Proof.Machine

/-! ## What agreement comes to, by mode -/

/-- The Take Unit as service leaves it: nothing pending, nothing scheduled, no plan in force (R82). -/
def TakeUnit.idle (t : TakeUnit) : Prop :=
  t.pendingPlan = none ∧ t.schedule = [] ∧ t.scheduleFull = false ∧ t.currentPlan = 0

theorem TakeUnit.idle_cleared (t : TakeUnit) : { t.cleared with currentPlan := 0 }.idle :=
  ⟨rfl, rfl, rfl, rfl⟩

theorem TakeUnit.idle.dropUndefined {t : TakeUnit} (h : t.idle) (b : Bank) : (t.dropUndefined b).idle := by
  obtain ⟨pending, -⟩ := id h
  simp only [TakeUnit.dropUndefined, pending]
  exact h

/-- In IN_SERVICE and FALLBACK. -/
theorem State.modesAgree_serving {s : State} {m : Mode} (mode : s.node.mode = m) (serving : m.serving = true) :
    s.modesAgree ↔ s.node.tablesValid = true ∧ (s.node.hold = true → m = .inService)
      ∧ s.watchdog.armed = true ∧ s.watchdog.start.isSome = true ∧ (s.lamp.power = true ↔ s.held = false) := by
  have valid : m ≠ .unconfigured := fun h => by simp [h, Mode.serving] at serving
  have lit : m ≠ .lockout := fun h => by simp [h, Mode.serving] at serving
  unfold State.modesAgree
  rw [mode, serving]
  constructor
  · rintro ⟨flag, hold, armed, start, -, -, power⟩
    exact ⟨flag.2 valid, hold, armed, start.trans armed, power.trans (and_iff_left lit)⟩
  · rintro ⟨flag, hold, armed, start, power⟩
    exact ⟨iff_of_true flag valid, hold, armed, start.trans armed.symm, fun _ => armed, nofun,
      power.trans (and_iff_left lit).symm⟩

/-- In the other modes. -/
theorem State.modesAgree_idle {s : State} {m : Mode} (mode : s.node.mode = m) (idle : m.serving = false) :
    s.modesAgree ↔ (s.node.tablesValid = true ↔ m ≠ .unconfigured) ∧ s.node.hold = false
      ∧ s.watchdog = Watchdog.stopped ∧ s.take.idle
      ∧ (s.lamp.power = true ↔ s.held = false ∧ m ≠ .lockout) := by
  have unheld : m ≠ .inService := fun h => by simp [h, Mode.serving] at idle
  unfold State.modesAgree
  rw [mode, idle]
  constructor
  · rintro ⟨flag, hold, armed, start, stream, take, power⟩
    refine ⟨flag, Bool.eq_false_iff.2 fun h => unheld (hold h), ?_, take rfl, power⟩
    rw [armed] at start stream
    rcases hw : s.watchdog with ⟨a, b, c⟩
    simp_all [Watchdog.stopped]
  · rintro ⟨flag, hold, stopped, take, power⟩
    rw [hold, stopped]
    exact ⟨flag, nofun, rfl, rfl, nofun, fun _ => take, power⟩

/-- It reads the node, the watchdog, the Take Unit and the lamp power alone. -/
theorem State.modesAgree_of_eq {s t : State} (h : s.modesAgree) (node : t.node = s.node := by simp)
    (watchdog : t.watchdog = s.watchdog := by simp) (take : t.take = s.take := by simp)
    (power : t.lamp.power = s.lamp.power := by simp) : t.modesAgree := by
  unfold State.modesAgree State.held at *
  rw [node, watchdog, take, power]
  exact h

section
variable {s : State} (h : s.modesAgree)
include h

/-! ## Takes -/

/-- The Take Unit changes, and stays idle outside service. -/
theorem State.modesAgree_take {t : TakeUnit} (ht : s.take.idle → t.idle) : { s with take := t }.modesAgree := by
  obtain ⟨flag, hold, armed, start, stream, take, power⟩ := h
  exact ⟨flag, hold, armed, start, stream, fun idle => ht (take idle), power⟩

/-- In service the Take Unit is free. -/
theorem State.modesAgree_takeServing (serving : s.node.mode.serving = true) (t : TakeUnit) :
    { s with take := t }.modesAgree := by
  obtain ⟨flag, hold, armed, start, stream, -, power⟩ := h
  exact ⟨flag, hold, armed, start, stream, fun idle => (nomatch serving.symm.trans idle), power⟩

/-- A take returns the node from FALLBACK, where nothing is held (R133). -/
theorem State.modesAgree_takeRecord (serving : s.node.mode.serving = true) (p : Nat) :
    (s.takeRecord p).modesAgree := by
  simp only [State.takeRecord]
  split
  · obtain ⟨flag, -, armed, -, power⟩ := (State.modesAgree_serving rfl serving).1 h
    exact (State.modesAgree_serving (m := .inService) rfl rfl).2 ⟨flag, fun _ => rfl, armed, rfl, power⟩
  · exact State.modesAgree_takeServing h serving _

theorem State.modesAgree_takeTargets (p : Nat) (returned : Bool) : (s.takeTargets p returned).modesAgree :=
  State.modesAgree_of_eq h

theorem State.modesAgree_takePlan (serving : s.node.mode.serving = true) (p : Nat) :
    ((s.takePlan p).setPending none).modesAgree :=
  State.modesAgree_take (State.modesAgree_takeTargets (State.modesAgree_takeRecord h serving p) p _)
    fun ⟨_, rest⟩ => ⟨rfl, rest⟩

/-! ## The watchdog and fallback (R126, R128, R132) -/

/-- The armed watchdog starts anew, with or without the stream. -/
theorem State.modesAgree_watchdogStart (armed : s.watchdog.armed = true) (now : Nat) (stream : Bool) :
    { s with watchdog := { s.watchdog with start := some now, stream := stream } }.modesAgree := by
  obtain ⟨flag, hold, mode, -, -, take, power⟩ := h
  exact ⟨flag, hold, mode, armed.symm, fun _ => armed, take, power⟩

theorem State.modesAgree_heartbeat (w : SweepUnit) :
    { s with sweep := w, watchdog := s.watchdog.heartbeat s.now }.modesAgree := by
  unfold Watchdog.heartbeat
  split
  · rename_i armed
    exact State.modesAgree_watchdogStart h armed s.now true
  · exact h

theorem State.modesAgree_fallbackEntry (mode : s.node.mode = .inService) : s.fallbackEntry.modesAgree := by
  obtain ⟨flag, -, armed, -, power⟩ := (State.modesAgree_serving mode rfl).1 h
  have node : s.fallbackEntry.node = { s.node with mode := .fallback, hold := false } := by
    simp [State.fallbackEntry]
  have watchdog : s.fallbackEntry.watchdog = { s.watchdog with start := some s.now, stream := false } := by
    simp [State.fallbackEntry]
  refine (State.modesAgree_serving (m := .fallback) (by rw [node]) rfl).2 ?_
  simp only [State.held, node, watchdog, State.fallbackEntry_lamp]
  exact ⟨flag, nofun, armed, rfl, power⟩

theorem State.modesAgree_watchdogExpire : s.watchdogExpire.modesAgree := by
  unfold State.watchdogExpire
  split
  case h_1 mode => exact State.modesAgree_fallbackEntry h mode
  case h_2 mode =>
    obtain ⟨-, -, armed, -⟩ := (State.modesAgree_serving mode rfl).1 h
    exact State.modesAgree_watchdogStart h armed s.now false
  all_goals exact h

end

/-! ## The due test (R79) -/

theorem fireEntry_modesAgree {acc : State × Option Nat} (h : acc.1.modesAgree) (e : ScheduleEntry) :
    (fireEntry acc e).1.modesAgree := by
  simp only [fireEntry]
  split
  · exact h
  · split
    case h_1 mode => exact State.modesAgree_takeRecord h (by rw [mode]; rfl) _
    case h_2 mode =>
      split
      · exact State.modesAgree_takeRecord h (by rw [mode]; rfl) _
      · exact h
    all_goals exact h

theorem fireEntries_modesAgree (l : List ScheduleEntry) {acc : State × Option Nat} (h : acc.1.modesAgree) :
    (l.foldl fireEntry acc).1.modesAgree := by
  induction l generalizing acc with
  | nil => exact h
  | cons e l ih => exact ih (fireEntry_modesAgree h e)

theorem State.modesAgree_dueTest {s : State} (h : s.modesAgree) : s.dueTest.modesAgree := by
  have fired := fireEntries_modesAgree (s.take.schedule.filter fun e => e.isDue s.take.clock)
    (acc := ({ s with take := { s.take with
      schedule := s.take.schedule.filter fun e => !e.isDue s.take.clock } }, none))
    (State.modesAgree_take h fun ⟨pending, schedule, rest⟩ => ⟨pending, by simp [schedule], rest⟩)
  simp only [State.dueTest]
  split
  · exact fired
  · exact State.modesAgree_takeTargets fired _ _

/-! ## Service, lockout and the commit -/

section
variable {s : State} (h : s.modesAgree)
include h

theorem State.modesAgree_enterService (mode : s.node.mode = .outOfService) : s.enterService.modesAgree := by
  obtain ⟨flag, -, -, -, power⟩ := (State.modesAgree_idle mode rfl).1 h
  exact (State.modesAgree_serving (m := .inService) rfl rfl).2
    ⟨flag.2 (by decide), nofun, rfl, rfl, power.trans (and_iff_left (by decide))⟩

theorem State.modesAgree_leaveService (serving : s.node.mode.serving = true) : s.leaveService.modesAgree := by
  obtain ⟨flag, -, -, -, power⟩ := (State.modesAgree_serving rfl serving).1 h
  exact (State.modesAgree_idle (m := .outOfService) rfl rfl).2 ⟨iff_of_true flag (by decide), rfl, rfl,
    s.take.idle_cleared, power.trans (and_iff_left (by decide)).symm⟩

omit h in
theorem State.modesAgree_lockout (valid : s.node.tablesValid = true) : s.lockout.modesAgree :=
  (State.modesAgree_idle (m := .lockout) rfl rfl).2 ⟨iff_of_true valid (by decide), rfl, rfl,
    s.take.idle_cleared, iff_of_false nofun fun ⟨_, lit⟩ => lit rfl⟩

/-- Sampling runs with tables alone, so a trip finds them valid. -/
theorem State.modesAgree_sample (m : List Nat) : (s.sample m).modesAgree := by
  obtain ⟨flag, -⟩ := id h
  unfold State.sample
  split
  · exact h
  · rename_i samples
    simp only
    split
    · exact State.modesAgree_of_eq h
    · refine State.modesAgree_lockout ?_
      simp only [State.postAll_node]
      exact flag.2 fun mode => samples (by rw [mode]; rfl)

/-- A commit takes an unconfigured node to OUT_OF_SERVICE (R39, R63). -/
theorem State.modesAgree_activate : s.activate.modesAgree := by
  by_cases mode : s.node.mode = .unconfigured
  · obtain ⟨-, hold, stopped, idle, power⟩ := (State.modesAgree_idle mode rfl).1 h
    exact (State.modesAgree_idle (m := .outOfService) (if_pos mode) rfl).2 ⟨iff_of_true rfl (by decide), hold,
      stopped, idle.dropUndefined _, power.trans (and_congr_right fun _ => by decide)⟩
  · have stays : s.activate.node = { s.node with tablesValid := true } := by
      simp only [State.activate, if_neg mode]
    obtain ⟨-, hold, armed, start, stream, take, power⟩ := h
    unfold State.modesAgree State.held
    rw [stays]
    exact ⟨iff_of_true rfl mode, hold, armed, start, stream,
      fun idle => TakeUnit.idle.dropUndefined (take idle) _, power⟩

theorem State.modesAgree_dueAtCommit (old : Bank) : (s.dueAtCommit old).modesAgree := by
  have timers : (if s.node.hold then s.dueLowered old else s.dueSequencer).modesAgree := by
    split
    · exact State.modesAgree_of_eq h
    · exact State.modesAgree_of_eq h
  have expired : ∀ {u : State}, u.modesAgree → (if u.watchdogDue then u.watchdogExpire else u).modesAgree := by
    intro u hu
    split
    · exact State.modesAgree_watchdogExpire hu
    · exact hu
  have slewed : ∀ {u : State}, u.modesAgree → (if u.slewDue then u.slewTick else u).modesAgree := by
    intro u hu
    split
    · exact State.modesAgree_of_eq hu
    · exact hu
  exact slewed (expired timers)

theorem State.modesAgree_commitComplete : s.commitComplete.modesAgree := by
  unfold State.commitComplete
  split
  · refine State.modesAgree_dueAtCommit (State.modesAgree_of_eq (State.modesAgree_activate h) ?_ ?_ ?_ ?_) _
    all_goals simp
  · exact h

/-- An order that drops the schedule in whole or in part (R81). -/
theorem State.modesAgree_cancel {body : List Byte} {l : List ScheduleEntry} (hl : s.cancelled body = some l) :
    (s.withSchedule l).modesAgree := by
  refine State.modesAgree_take h fun ⟨pending, schedule, _, plan⟩ => ⟨pending, ?_, rfl, plan⟩
  simp only [State.cancelled, State.scheduled, schedule, List.any_nil] at hl
  split at hl
  · exact (Option.some.inj hl).symm
  · simp at hl

/-! ## Resets -/

/-- Held in reset the lamp power is off, whatever the mode (R51). -/
theorem State.modesAgree_heldInReset {t : State} (mode : t.node.mode = s.node.mode)
    (hold : t.node.hold = s.node.hold) (valid : t.node.tablesValid = s.node.tablesValid)
    (watchdog : t.watchdog = s.watchdog) (take : t.take = s.take) (off : t.lamp.power = false)
    (held : t.held = true) : t.modesAgree := by
  unfold State.modesAgree at *
  rw [mode, hold, valid, watchdog, take, off, held]
  obtain ⟨flag, hold, armed, start, stream, idle, -⟩ := h
  exact ⟨flag, hold, armed, start, stream, idle, by simp⟩

/-- One of supply and pin back, the other not: the node stays held. -/
theorem State.modesAgree_stillHeld {n : NodeControl} (mode : n.mode = s.node.mode)
    (hold : n.hold = s.node.hold) (valid : n.tablesValid = s.node.tablesValid) (was : s.held = true)
    (held : ({ s with node := n } : State).held = true) : { s with node := n }.modesAgree := by
  refine State.modesAgree_heldInReset h mode hold valid rfl rfl ?_ held
  obtain ⟨-, -, -, -, -, -, power⟩ := h
  rw [was] at power
  simpa using power

end

theorem State.modesAgree_powerUp (s : State) (c : Cause) (p : ResetInputs) : (s.powerUp c p).modesAgree :=
  (State.modesAgree_idle (m := .unconfigured) rfl rfl).2 ⟨iff_of_false nofun (by decide), rfl, rfl,
    ⟨rfl, rfl, rfl, rfl⟩, iff_of_true rfl ⟨rfl, by decide⟩⟩

theorem State.modesAgree_readTemperature {s : State} (h : s.modesAgree) (reading : Int) :
    (s.readTemperature reading).modesAgree :=
  State.modesAgree_of_eq h (by simp) (by simp) (by simp) (by rw [State.readTemperature_lamp])

theorem State.modesAgree_keepRestart (s : State) (p : ResetInputs) : (s.keepRestart p).modesAgree := by
  have power : (s.keepRestart p).lamp.power = true := by
    rw [State.keepRestart, State.readTemperature_lamp]
    rfl
  refine (State.modesAgree_idle (m := if s.node.tablesValid then .outOfService else .unconfigured)
    (by rw [State.keepRestart_node]) (by split <;> rfl)).2 ?_
  simp only [State.held, State.keepRestart_node, State.keepRestart_watchdog, State.keepRestart_take, power]
  refine ⟨?_, rfl, trivial, ⟨rfl, rfl, rfl, rfl⟩, ?_⟩
  · cases s.node.tablesValid <;> simp
  · cases s.node.tablesValid <;> simp [State.restarted]

/-! ## Every step -/

/-- Every event keeps flags, watchdog, takes and lamp power with the mode. -/
theorem kept_modesAgree : Kept State.modesAgree where
  queue _ _ h := h
  line _ _ _ h := h
  key _ _ h := h
  capture _ _ h := h
  post _ _ _ _ h := h
  heartbeat s _ h := State.modesAgree_heartbeat h _
  refresh _ _ _ h := State.modesAgree_of_eq h
  level s l _ h := State.modesAgree_of_eq h (by simp) (by simp) (by simp) (by
    unfold State.takeLevel
    split <;> rfl)
  sync s c h := State.modesAgree_dueTest (s := { s with take := { s.take with clock := c } }) h
  dueTest _ h := State.modesAgree_dueTest h
  elapse s n _ _ h := State.modesAgree_of_eq (s := { s with take := (s.elapse n).take })
    (State.modesAgree_take h id) (power := rfl)
  expire _ h := State.modesAgree_watchdogExpire h
  dwell _ _ _ h := State.modesAgree_of_eq h
  clearance _ _ _ h := State.modesAgree_of_eq h
  stall _ _ h := State.modesAgree_of_eq h
  sequencer _ h := State.modesAgree_of_eq h
  stale _ _ h := State.modesAgree_of_eq h
  slew _ h := State.modesAgree_of_eq h
  atReading _ h := h
  temperature _ _ h := State.modesAgree_readTemperature h _
  atSample _ h := h
  sample _ m h := State.modesAgree_sample h m
  nextRead _ h := h
  commit _ _ h := State.modesAgree_commitComplete h
  restartDue _ _ h := h
  powerUp s c p _ := State.modesAgree_powerUp s c p
  keepRestart s p _ := State.modesAgree_keepRestart s p
  supplyLoss _ h := State.modesAgree_heldInReset h rfl rfl rfl rfl rfl rfl rfl
  resetLow _ h := State.modesAgree_heldInReset h rfl rfl rfl rfl rfl rfl (by simp [State.held])
  supplyBack _ low h := State.modesAgree_stillHeld h rfl rfl rfl (by simp [State.held, low])
    (by simp [State.held, low])
  resetBack _ low h := State.modesAgree_stillHeld h rfl rfl rfl (by simp [State.held, low])
    (by simp [State.held, low])
  readEvents _ h := h
  write _ _ _ _ _ _ h := h
  revert _ h := h
  validating _ h := h
  discard _ h := h
  stage _ _ serving _ h := State.modesAgree_takeServing h serving _
  unstage _ h := State.modesAgree_take h fun ⟨_, rest⟩ => ⟨rfl, rest⟩
  take _ p mode _ h := State.modesAgree_takePlan h (serving_of_takeMode mode) p
  schedule _ _ _ serving _ _ h := State.modesAgree_takeServing h serving _
  scheduleFull _ serving h := State.modesAgree_takeServing h serving _
  cancel _ _ _ hl h := State.modesAgree_cancel h hl
  enter _ mode h := State.modesAgree_enterService h mode
  leave _ serving h := State.modesAgree_leaveService h serving
  hold s mode h := by
    obtain ⟨flag, -, rest⟩ := h
    exact ⟨flag, fun _ => mode, rest⟩
  stepHeads _ _ h := State.modesAgree_of_eq h
  release s mode h := by
    obtain ⟨flag, -, armed, start, power⟩ := (State.modesAgree_serving mode rfl).1 h
    unfold State.releaseHold
    split
    · refine State.modesAgree_of_eq (s := s.setHold false) ?_
      exact (State.modesAgree_serving (s := s.setHold false) mode rfl).2 ⟨flag, nofun, armed, start, power⟩
    · exact h
  lampTest _ _ _ _ _ _ _ _ h := State.modesAgree_of_eq h
  lampOff _ _ _ h := State.modesAgree_of_eq h
  clearFault _ _ h := State.modesAgree_of_eq h
  relearn _ _ h := State.modesAgree_of_eq h
  restart _ _ h := h

/-- Settles O56: each event of `Kept` keeps them together. -/
theorem modeAgreesWithItsFlags : Obligations.ModeAgreesWithItsFlags := by
  unfold Obligations.ModeAgreesWithItsFlags
  exact fun s t hs ht => kept_modesAgree.step hs ht

end Sys2Proof.Machine
end

section
/-! SUPPORT. The reset state is safe. -/

namespace Sys2Proof.Machine

theorem State.reset_powerUp : State.reset = State.reset.powerUp .powerOn ⟨0#8, false, 0⟩ := rfl

theorem State.reset_head (h : Fin 8) : State.reset.gantry.heads[h] = Head.reset := by
  simp [State.reset]

theorem State.reset_lane (k : Fin 4) : State.reset.gantry.lanes[k] = Lane.reset := by
  simp [State.reset]

theorem State.reset_channel (c : Fin 32) : State.reset.gantry.channels[c] = Channel.reset := by
  simp [State.reset]

theorem State.lanesSafe_reset : State.reset.lanesSafe := by
  refine ⟨fun h => ?_, fun h => ?_, fun k _ h => ?_, nofun, fun _ k => ?_⟩
  · exact absurd h (by decide)
  · rw [State.reset_head]
    exact ⟨fun _ => .inl rfl, fun _ => ⟨rfl, rfl⟩, fun _ => rfl⟩
  · rw [State.reset_head] at h
    exact absurd h.1 (by decide)
  · rw [State.reset_lane]
    exact ⟨rfl, rfl⟩

/-- Settles O54: the six conditions, modes and ranges as every power-on leaves them. -/
theorem resetStateIsSafe : Obligations.ResetStateIsSafe := by
  unfold Obligations.ResetStateIsSafe
  refine ⟨⟨by decide, by decide⟩, State.reset_powerUp ▸ State.modesAgree_powerUp _ _ _, nofun,
    State.reset_powerUp ▸ State.rangesKept_powerUp _ _ _, fun c _ => ?_, State.lanesSafe_reset⟩
  rw [State.reset_channel]
  rfl

end Sys2Proof.Machine
end

section
/-! SUPPORT. The catalogue, the checks of an order, groups, and the orders of Node Control (R41 to R49). -/

namespace Sys2Proof.Machine

/-! ## The catalogue (R41) -/

/-- One command of each row of the catalogue, in its order. -/
def catalogueCommands (o : Order) : List Instr :=
  [.readNode o, .readLamps o, .readEvents o, .peekEvents o, .tableWrite o, .tableRead o, .commitTables o,
    .discardShadow o, .stage o, .take o, .takeAt o, .cancelTakes o, .enterService o, .leaveService o, .hold o,
    .stepHeads o, .release o, .lampTest o, .clearLampFault o, .relearn o, .restartFull o]

theorem catalogueCommands_codes (o : Order) :
    (catalogueCommands o).map (fun c => (orderRow c).map fun x => x.1.code) = catalogue.map some := rfl

/-- The codes of the catalogue are those of its rows. -/
theorem catalogue_contains_iff (code : Byte) : catalogue.contains code = true ↔
    ∃ (c : Instr) (q : OrderSpec) (o : Order), orderRow c = some (q, o) ∧ q.code = code := by
  rw [List.contains_iff_mem]
  constructor
  · intro h
    have row := List.mem_map_of_mem (f := some) h
    rw [← catalogueCommands_codes ⟨0#8, 0#8, 0#8, [], false⟩] at row
    obtain ⟨c, -, hc⟩ := List.mem_map.1 row
    obtain ⟨⟨q, o⟩, hq, rfl⟩ := Option.map_eq_some_iff.1 hc
    exact ⟨c, q, o, hq, rfl⟩
  · rintro ⟨c, q, o, h, rfl⟩
    cases c <;> simp only [orderRow, Option.some.injEq, Prod.mk.injEq, reduceCtorEq] at h
    all_goals
      obtain ⟨rfl, -⟩ := h
      decide

theorem lengthIs_iff (n : Nat) (b : List Byte) : lengthIs n b = true ↔ b.length = n := by
  simp [lengthIs]

theorem inServiceOrFallback_iff (s : State) :
    inServiceOrFallback s = true ↔ s.node.mode = .inService ∨ s.node.mode = .fallback := by
  simp [inServiceOrFallback]

theorem inService_iff (s : State) : inService s = true ↔ s.node.mode = .inService := by
  simp [inService]

theorem takeMode_iff (s : State) : takeMode s = true ↔
    s.node.mode = .inService ∨ (s.node.mode = .fallback ∧ s.watchdog.stream = true) := by
  simp [takeMode]

theorem configured_iff (s : State) : configured s = true ↔ s.node.mode ≠ .unconfigured := by
  simp [configured]

theorem restartMode_iff (s : State) : restartMode s = true ↔
    s.node.mode = .unconfigured ∨ s.node.mode = .outOfService ∨ s.node.mode = .lockout := by
  simp [restartMode, or_assoc]

theorem tableWriteLength_iff (b : List Byte) : tableWriteLength b = true ↔
    3 ≤ b.length ∧ ∀ t ∈ Table.ofId (natAt b 0), b.length = 3 + natAt b 2 * t.size := by
  unfold tableWriteLength
  cases Table.ofId (natAt b 0) <;> simp

theorem tableWriteCommission_iff (b : List Byte) : tableWriteCommission b = true ↔
    ∃ t ∈ Table.ofId (natAt b 0), t.commissioning = true := by
  unfold tableWriteCommission
  cases Table.ofId (natAt b 0) <;> simp

theorem operate_iff (b : List Byte) : operate b = true ↔ False := by simp [operate]

theorem needsCommission_iff (b : List Byte) : needsCommission b = true ↔ True := by simp [needsCommission]

theorem anyMode_iff (s : State) : anyMode s = true ↔ True := by simp [anyMode]

/-- Settles O19: each row's fields by their own lemmas. -/
theorem catalogueIsTheManuals : Obligations.CatalogueIsTheManuals := by
  unfold Obligations.CatalogueIsTheManuals
  have out : ∀ s : State, (s.node.mode == .outOfService) = true ↔ s.node.mode = .outOfService :=
    fun s => beq_iff_eq
  refine ⟨fun o => ⟨_, rfl, rfl, lengthIs_iff 1, operate_iff, anyMode_iff, rfl⟩,
    fun o => ⟨_, rfl, rfl, lengthIs_iff 2, operate_iff, anyMode_iff, rfl⟩,
    fun o => ⟨_, rfl, rfl, lengthIs_iff 0, operate_iff, anyMode_iff, rfl⟩,
    fun o => ⟨_, rfl, rfl, lengthIs_iff 0, operate_iff, anyMode_iff, rfl⟩,
    fun o => ⟨_, rfl, rfl, tableWriteLength_iff, tableWriteCommission_iff, anyMode_iff, rfl⟩,
    fun o => ⟨_, rfl, rfl, lengthIs_iff 4, operate_iff, anyMode_iff, rfl⟩,
    fun o => ⟨_, rfl, rfl, lengthIs_iff 0, operate_iff, anyMode_iff, rfl⟩,
    fun o => ⟨_, rfl, rfl, lengthIs_iff 0, operate_iff, anyMode_iff, rfl⟩,
    fun o => ⟨_, rfl, rfl, lengthIs_iff 1, operate_iff, inServiceOrFallback_iff, rfl⟩,
    fun o => ⟨_, rfl, rfl, lengthIs_iff 0, operate_iff, takeMode_iff, rfl⟩,
    fun o => ⟨_, rfl, rfl, lengthIs_iff 4, operate_iff, inServiceOrFallback_iff, rfl⟩,
    fun o => ⟨_, rfl, rfl, fun b => ?_, operate_iff, inServiceOrFallback_iff, rfl⟩,
    fun o => ⟨_, rfl, rfl, lengthIs_iff 0, operate_iff, out, rfl⟩,
    fun o => ⟨_, rfl, rfl, lengthIs_iff 0, needsCommission_iff, inServiceOrFallback_iff, rfl⟩,
    fun o => ⟨_, rfl, rfl, lengthIs_iff 0, needsCommission_iff, inService_iff, rfl⟩,
    fun o => ⟨_, rfl, rfl, lengthIs_iff 0, needsCommission_iff, inService_iff, rfl⟩,
    fun o => ⟨_, rfl, rfl, lengthIs_iff 0, needsCommission_iff, inService_iff, rfl⟩,
    fun o => ⟨_, rfl, rfl, lengthIs_iff 3, needsCommission_iff, out, rfl⟩,
    fun o => ⟨_, rfl, rfl, lengthIs_iff 1, operate_iff, configured_iff, rfl⟩,
    fun o => ⟨_, rfl, rfl, lengthIs_iff 1, needsCommission_iff, configured_iff, rfl⟩,
    fun o => ⟨_, rfl, rfl, lengthIs_iff 1, needsCommission_iff, restartMode_iff, rfl⟩,
    fun o => ⟨_, rfl, rfl, lengthIs_iff 1, needsCommission_iff, restartMode_iff, rfl⟩,
    rfl, catalogue_contains_iff⟩
  simp [cancelTakesSpec, lengthIs]

/-! ## The checks of an order (R42, R43) -/

/-- The mode check of a row reads the mode and the watchdog's stream alone. -/
theorem orderRow_modeOk {c : Instr} {q : OrderSpec} {o : Order} (h : orderRow c = some (q, o)) {s t : State}
    (mode : t.node.mode = s.node.mode) (stream : t.watchdog.stream = s.watchdog.stream) :
    q.modeOk t = q.modeOk s := by
  cases c <;> simp only [orderRow, Option.some.injEq, Prod.mk.injEq, reduceCtorEq] at h
  all_goals
    obtain ⟨rfl, -⟩ := h
    simp only [readNodeSpec, readLampsSpec, readEventsSpec, peekEventsSpec, tableWriteSpec, tableReadSpec,
      commitTablesSpec, discardShadowSpec, stageSpec, takeSpec, takeAtSpec, cancelTakesSpec, enterServiceSpec,
      leaveServiceSpec, holdSpec, stepSpec, releaseSpec, lampTestSpec, clearLampFaultSpec, relearnSpec, restartSpec,
      addressedOrder, anyMode, inServiceOrFallback, takeMode, inService, configured, restartMode, mode, stream]

theorem commissionHonoured_iff (o : Order) : commissionHonoured o = true ↔ o.authority = 1#8 ∧ o.key = true := by
  simp [commissionHonoured]

section
variable {q : OrderSpec} {o : Order} {s : State}

theorem OrderSpec.check_badLength (length : q.lengthOk o.body = false) : q.check o s = some .badLength := by
  simp [OrderSpec.check, length]

theorem OrderSpec.check_notAuthorised (length : q.lengthOk o.body = true)
    (commission : q.commission o.body = true) (keyed : ¬(o.authority = 1#8 ∧ o.key = true)) :
    q.check o s = some .notAuthorised := by
  rw [← commissionHonoured_iff, Bool.not_eq_true] at keyed
  simp [OrderSpec.check, length, commission, keyed]

variable (keyed : q.commission o.body = true → o.authority = 1#8 ∧ o.key = true)
include keyed

theorem OrderSpec.authorised : (q.commission o.body && !commissionHonoured o) = false := by
  rw [← commissionHonoured_iff] at keyed
  cases h : q.commission o.body
  · rfl
  · simp [keyed h]

variable (length : q.lengthOk o.body = true)
include length

theorem OrderSpec.check_wrongMode (mode : q.modeOk s = false) : q.check o s = some .wrongMode := by
  simp [OrderSpec.check, length, OrderSpec.authorised keyed, mode]

theorem OrderSpec.check_busy (mode : q.modeOk s = true) (busy : q.busyChecked = true)
    (validating : s.store.validating = true) : q.check o s = some .busy := by
  simp [OrderSpec.check, length, OrderSpec.authorised keyed, mode, busy, validating]

end

/-- Settles O20: each check by the status it gives. -/
theorem firstFailingCheckRefusesTheOrder : Obligations.FirstFailingCheckRefusesTheOrder := by
  unfold Obligations.FirstFailingCheckRefusesTheOrder
  intro c q o s row addressed
  have modeOk : q.modeOk (s.received o) = q.modeOk s := orderRow_modeOk row rfl rfl
  rw [exec_orderRow row, ← modeOk]
  refine ⟨fun length => ?_, fun length commission keyed => ?_, fun length keyed mode => ?_,
    fun length keyed mode order validating => ?_⟩
  all_goals refine q.run_refused addressed ?_
  · exact OrderSpec.check_badLength length
  · exact OrderSpec.check_notAuthorised length commission keyed
  · exact OrderSpec.check_wrongMode keyed length mode
  · have busy : q.busyChecked = true := by
      rcases order with rfl | rfl
      all_goals
        simp only [orderRow, Option.some.injEq, Prod.mk.injEq] at row
        rw [← row.1]
        rfl
    exact OrderSpec.check_busy keyed length mode busy validating

/-- A row leaves a group order that fails its mode check alone, but for TAKE in FALLBACK (R43). -/
theorem orderRow_wrongModeGroup {c : Instr} {q : OrderSpec} {o : Order} (h : orderRow c = some (q, o)) {s : State}
    (notTake : c = .take o → s.node.mode ≠ .fallback) : q.wrongModeGroup s = s := by
  cases c <;> simp only [orderRow, Option.some.injEq, Prod.mk.injEq, reduceCtorEq] at h
  case take o' =>
    obtain ⟨rfl, rfl⟩ := h
    exact if_neg (notTake rfl)
  all_goals
    obtain ⟨rfl, -⟩ := h
    rfl

/-- Settles O21: the route of a group order by `answerGroup`. -/
theorem groupOrdersAreDropped : Obligations.GroupOrdersAreDropped := by
  unfold Obligations.GroupOrdersAreDropped
  intro c q o s f row overheard
  have modeOk : q.modeOk (s.overheard q.code o f) = q.modeOk s := orderRow_modeOk row rfl rfl
  rw [exec_orderRow row, q.run_overheard overheard]
  refine ⟨fun group => ?_, fun length => ?_, fun mode notTake => ?_, fun take body mode stream => ?_⟩
  all_goals refine congrArg Host.Outcome.next ?_
  · simp [OrderSpec.answerGroup, group]
  · simp [OrderSpec.answerGroup, OrderSpec.check_badLength length]
  · have same := orderRow_wrongModeGroup row (s := s.overheard q.code o f) notTake
    have fails : q.check o (s.overheard q.code o f) ≠ none := fun h => by
      rw [← modeOk, q.modeOk_of_check o _ h] at mode
      cases mode
    unfold OrderSpec.answerGroup
    split
    · rfl
    · split
      · exact same
      · rfl
      · exact absurd ‹_› fails
  · subst take
    simp only [orderRow, Option.some.injEq, Prod.mk.injEq, and_true] at row
    subst row
    have wrong : takeSpec.check o (s.overheard takeSpec.code o f) = some .wrongMode :=
      OrderSpec.check_wrongMode nofun (by rw [body]; rfl) (by
        rw [modeOk]
        simp [takeSpec, takeMode, mode, stream])
    unfold OrderSpec.answerGroup
    rw [wrong]
    exact if_pos mode

/-! ## The orders of Node Control (R47 to R49) -/

/-- An order of the catalogue that only an address reaches, carried out. -/
theorem exec_addressedOrder {c : Instr} {code : Byte} {l : List Byte → Bool} {k : List Byte → Bool}
    {m : State → Bool} {act : Order → State → Answer} {o : Order}
    (row : orderRow c = some (addressedOrder code l k m act, o)) {s : State} (addressed : s.Addressed o)
    (length : l o.body = true) (keyed : k o.body = false ∨ (o.authority = 1#8 ∧ o.key = true))
    (mode : m (s.received o) = true) : exec c s = .next ((act o (s.received o)).state.replied code o
      (act o (s.received o)).status (act o (s.received o)).content) := by
  rw [exec_orderRow row]
  exact OrderSpec.run_addressed _ addressed (OrderSpec.check_none _ length keyed mode (.inl rfl))

/-- Settles O33: the gantry by `Gantry.enter`, the rest by `State.enterService`. -/
theorem enterServiceClosesEveryHead : Obligations.EnterServiceClosesEveryHead := by
  unfold Obligations.EnterServiceClosesEveryHead
  intro o s addressed body mode b
  refine ⟨(s.received o).enterService, ?_, fun h => s.gantry.enter_present b s.now,
    fun h => s.gantry.enter_absent b s.now, s.gantry.enter_lanes b s.now, s.gantry.enter_relit b s.now,
    fun h hx e => s.gantry.enter_settles b s.now hx, rfl, rfl, rfl, rfl⟩
  have row : orderRow (.enterService o) = some (enterServiceSpec, o) := rfl
  have accepted : ((s.received o).node.mode == .outOfService) = true := beq_iff_eq.2 mode
  exact exec_addressedOrder row addressed ((lengthIs_iff 0 _).2 (by simp [body])) (.inl rfl) accepted

/-- Settles O34: the gantry by `Gantry.darken`, the rest by `State.leaveService`. -/
theorem leaveServiceDarkensEveryHead : Obligations.LeaveServiceDarkensEveryHead := by
  unfold Obligations.LeaveServiceDarkensEveryHead
  intro o s addressed body authority key mode b
  refine ⟨(s.received o).leaveService, ?_, s.gantry.darken_heads b, s.gantry.darken_lanes b,
    s.gantry.darken_channels b, s.gantry.darken_slew b, rfl, rfl, rfl, rfl⟩
  have row : orderRow (.leaveService o) = some (leaveServiceSpec, o) := rfl
  exact exec_addressedOrder row addressed ((lengthIs_iff 0 _).2 (by simp [body])) (.inr ⟨authority, key⟩)
    ((inServiceOrFallback_iff _).2 mode)

/-- Settles O36: the body names the variant (log 23), and the frame end answers with it pending. -/
theorem restartWaitsForItsReply : Obligations.RestartWaitsForItsReply := by
  unfold Obligations.RestartWaitsForItsReply
  intro o s addressed body authority key mode u waits
  have answered : ∀ {c : Instr}, orderRow c = some (restartSpec, o) → exec c s =
      .next ((actRestart o u).state.replied 0x50#8 o (actRestart o u).status (actRestart o u).content) :=
    fun row => exec_addressedOrder row addressed ((lengthIs_iff 1 _).2 body) (.inr ⟨authority, key⟩)
      ((restartMode_iff _).2 mode)
  refine ⟨fun keep => ?_, fun full => ?_, fun other c order => ?_⟩
  · rw [answered rfl, actRestart, keep]
    rfl
  · rw [answered rfl, actRestart, full]
    rfl
  · have refused : actRestart o u = .refuse u .outOfRange := by
      unfold actRestart
      split
      · omega
      · omega
      · rfl
    rcases order with rfl | rfl
    all_goals
      rw [answered rfl, refused]
      rfl

end Sys2Proof.Machine
end

section
/-! SUPPORT. Every command answers a next state and leaves the queue alone; all but those of the supply, the pin
and the restart effects are live events (logs 10 and 11). -/

namespace Sys2Proof.Machine

/-! ## What the orders leave of the queue -/

@[simp] theorem Answer.done_state (s : State) (content : List Byte) : (Answer.done s content).state = s := rfl

@[simp] theorem Answer.refuse_state (s : State) (st : Status) : (Answer.refuse s st).state = s := rfl

section
variable (o : Order) (s : State)

theorem actReadNode_pending : (actReadNode o s).state.pending = s.pending := by
  unfold actReadNode
  split
  · rfl
  · rw [Answer.done_state]
    split <;> rfl

theorem actReadLamps_pending : (actReadLamps o s).state.pending = s.pending := by
  simp only [actReadLamps]
  split <;> rfl

theorem actTableWrite_pending : (actTableWrite o s).state.pending = s.pending := by
  unfold actTableWrite
  split
  · rfl
  · simp only
    split <;> rfl

theorem actTableRead_pending : (actTableRead o s).state.pending = s.pending := by
  simp only [actTableRead]
  repeat' split
  all_goals rfl

theorem actDiscardShadow_pending : (actDiscardShadow o s).state.pending = s.pending := by
  unfold actDiscardShadow
  split <;> rfl

theorem actStage_pending : (actStage o s).state.pending = s.pending := by
  simp only [actStage]
  repeat' split
  all_goals rfl

theorem groupStage_pending : (groupStage o s).pending = s.pending := by
  simp only [groupStage]
  repeat' split
  all_goals rfl

theorem actTake_pending : (actTake o s).state.pending = s.pending := by
  unfold actTake
  split
  · rfl
  · simp

theorem groupTake_pending : (groupTake o s).pending = s.pending := by
  unfold groupTake
  split <;> simp

theorem actTakeAt_pending : (actTakeAt o s).state.pending = s.pending := by
  simp only [actTakeAt]
  repeat' split
  all_goals rfl

theorem groupTakeAt_pending : (groupTakeAt o s).pending = s.pending := by
  simp only [groupTakeAt]
  repeat' split
  all_goals rfl

theorem actCancelTakes_pending : (actCancelTakes o s).state.pending = s.pending := by
  unfold actCancelTakes
  split <;> rfl

theorem groupCancelTakes_pending : (groupCancelTakes o s).pending = s.pending := by
  unfold groupCancelTakes
  split <;> rfl

theorem actStep_pending : (actStep o s).state.pending = s.pending := by
  unfold actStep
  split <;> simp

theorem actLampTest_pending : (actLampTest o s).state.pending = s.pending := by
  simp only [actLampTest]
  repeat' split
  all_goals simp

theorem actClearLampFault_pending : (actClearLampFault o s).state.pending = s.pending := by
  simp only [actClearLampFault]
  split <;> simp

theorem actRelearn_pending : (actRelearn o s).state.pending = s.pending := by
  simp only [actRelearn]
  split <;> simp

theorem actRestart_pending : (actRestart o s).state.pending = s.pending := by
  unfold actRestart
  split <;> rfl

end

/-- What a row of the catalogue does, addressed, to a group, or refused by mode, leaves the queue. -/
structure OrderSpec.LeavesQueue (q : OrderSpec) (o : Order) : Prop where
  act : ∀ s, (q.act o s).state.pending = s.pending
  group : ∀ s, (q.actGroup o s).pending = s.pending
  wrongMode : ∀ s, (q.wrongModeGroup s).pending = s.pending

/-- Of an order that only an address reaches the act alone counts. -/
theorem addressedOrder_leavesQueue {code : Byte} {l k : List Byte → Bool} {m : State → Bool}
    {act : Order → State → Answer} {o : Order} (h : ∀ s, (act o s).state.pending = s.pending) :
    (addressedOrder code l k m act).LeavesQueue o := ⟨h, fun _ => rfl, fun _ => rfl⟩

theorem orderRow_leavesQueue {c : Instr} {q : OrderSpec} {o : Order} (h : orderRow c = some (q, o)) :
    q.LeavesQueue o := by
  cases c <;> simp only [orderRow, Option.some.injEq, Prod.mk.injEq, reduceCtorEq] at h
  all_goals obtain ⟨rfl, rfl⟩ := h
  case readNode => exact addressedOrder_leavesQueue (actReadNode_pending _)
  case readLamps => exact addressedOrder_leavesQueue (actReadLamps_pending _)
  case readEvents => exact addressedOrder_leavesQueue fun _ => rfl
  case peekEvents => exact addressedOrder_leavesQueue fun _ => rfl
  case tableWrite => exact ⟨actTableWrite_pending _, fun _ => rfl, fun _ => rfl⟩
  case tableRead => exact addressedOrder_leavesQueue (actTableRead_pending _)
  case commitTables => exact ⟨fun _ => rfl, fun _ => rfl, fun _ => rfl⟩
  case discardShadow => exact addressedOrder_leavesQueue (actDiscardShadow_pending _)
  case stage => exact ⟨actStage_pending _, groupStage_pending _, fun _ => rfl⟩
  case take o =>
    refine ⟨actTake_pending o, groupTake_pending o, fun s => ?_⟩
    simp only [takeSpec]
    split <;> rfl
  case takeAt => exact ⟨actTakeAt_pending _, groupTakeAt_pending _, fun _ => rfl⟩
  case cancelTakes => exact ⟨actCancelTakes_pending _, groupCancelTakes_pending _, fun _ => rfl⟩
  case enterService => exact addressedOrder_leavesQueue fun _ => rfl
  case leaveService => exact addressedOrder_leavesQueue fun _ => rfl
  case hold => exact addressedOrder_leavesQueue fun _ => rfl
  case stepHeads => exact addressedOrder_leavesQueue (actStep_pending _)
  case release => exact addressedOrder_leavesQueue fun s => s.releaseHold_pending
  case lampTest => exact addressedOrder_leavesQueue (actLampTest_pending _)
  case clearLampFault => exact addressedOrder_leavesQueue (actClearLampFault_pending _)
  case relearn => exact addressedOrder_leavesQueue (actRelearn_pending _)
  case restartKeepTables => exact addressedOrder_leavesQueue (actRestart_pending _)
  case restartFull => exact addressedOrder_leavesQueue (actRestart_pending _)

/-! ## Frame ends and timed events -/

theorem State.frameEnd_pending {act : RxFrame → State → State} (ha : ∀ f s, (act f s).pending = s.pending)
    (frame : List Byte) (s : State) : (s.frameEnd frame act).pending = s.pending := by
  rcases s.frameEnd_cases frame act with h | ⟨f, -, h | h⟩
  · rw [h]
  · rw [h]
    rfl
  · rw [h, ha]

theorem orderEnd_pending {answer : State → Answer} {group : State → State}
    (ha : ∀ s, (answer s).state.pending = s.pending) (hg : ∀ s, (group s).pending = s.pending) (code : Byte)
    (o : Order) (s : State) : (orderEnd code o answer group s).pending = s.pending := by
  refine State.frameEnd_pending (fun f s => ?_) _ s
  simp only
  split
  · split
    · rfl
    · exact ha _
  · split
    · exact hg _
    · rfl

theorem State.timed_pending {event : State → State} (he : ∀ u, (event u).pending = u.pending) (n : Nat)
    (s : State) : (s.timed n event).pending = s.pending := by
  rw [State.timed, State.dueTest_pending, he, State.reach_pending]

/-! ## Live events -/

/-- The command is an event that only a working node feels, after a restart that is due, and that leaves the
queue alone. -/
def LiveEvent (c : Instr) : Prop :=
  ∃ f : State → State, (∀ s, exec c s = live s f) ∧ ∀ s, (f s).pending = s.pending

theorem LiveEvent.answers {c : Instr} (h : LiveEvent c) (s : State) :
    ∃ t, exec c s = .next t ∧ t.pending = s.pending := by
  obtain ⟨f, run, queue⟩ := h
  refine ⟨_, run s, ?_⟩
  split
  · rfl
  · rw [queue, State.dueRestart_pending]

theorem LiveEvent.held {c : Instr} (h : LiveEvent c) {s : State} (hs : s.held = true) :
    exec c s = .next s := by
  obtain ⟨f, run, -⟩ := h
  rw [run, live_held hs]

/-- The restart first, then the command (log 10). -/
theorem LiveEvent.afterRestart {c : Instr} (h : LiveEvent c) {s : State} (hs : s.held = false) :
    exec c s = exec c s.dueRestart := by
  obtain ⟨f, run, -⟩ := h
  rw [run, run, live_unheld hs, live_works (State.dueRestart_works hs)]

theorem liveEvent_of_orderRow {c : Instr} {q : OrderSpec} {o : Order} (h : orderRow c = some (q, o)) :
    LiveEvent c := by
  obtain ⟨act, group, wrongMode⟩ := orderRow_leavesQueue h
  refine ⟨_, exec_orderRow h, orderEnd_pending (fun s => ?_) (fun s => ?_) _ _⟩
  · unfold OrderSpec.answer
    split
    · rfl
    · exact act s
  · unfold OrderSpec.answerGroup
    split
    · rfl
    · split
      · exact wrongMode s
      · rfl
      · exact group s

/-! ## The line -/

section
variable (k x n fl code : Byte) (o : Order)

theorem liveEvent_frameStart : LiveEvent (.frameStart k x) :=
  ⟨_, (exec_frameStart_eq · k x), fun _ => rfl⟩

theorem liveEvent_framingError : LiveEvent .framingError := ⟨_, exec_framingError_eq, fun _ => rfl⟩

theorem liveEvent_surplusBytes : LiveEvent .surplusBytes := ⟨_, exec_surplusBytes_eq, fun _ => rfl⟩

theorem liveEvent_outGapElapsed : LiveEvent .outGapElapsed := ⟨_, exec_outGapElapsed_eq, fun _ => rfl⟩

theorem liveEvent_lineBreak : LiveEvent .lineBreak := ⟨_, exec_lineBreak_eq, fun _ => rfl⟩

theorem liveEvent_unknownFrame : LiveEvent .unknownFrame := ⟨_, exec_unknownFrame_eq, fun _ => by
  split <;> rfl⟩

theorem liveEvent_frameTruncation : LiveEvent .frameTruncation := ⟨_, exec_frameTruncation_eq, fun _ => by
  split <;> rfl⟩

theorem liveEvent_inIdleGap : LiveEvent .inIdleGap := ⟨_, exec_inIdleGap_eq, fun _ => by
  split <;> rfl⟩

theorem liveEvent_lineReset : LiveEvent .lineReset := ⟨_, exec_lineReset_eq, fun _ => by
  split <;> rfl⟩

theorem liveEvent_replyLeftOut : LiveEvent .replyLeftOut := ⟨_, exec_replyLeftOut_eq, fun _ => by
  repeat' split
  all_goals rfl⟩

theorem liveEvent_passThroughLeftOut : LiveEvent .passThroughLeftOut :=
  ⟨_, exec_passThroughLeftOut_eq, fun _ => by
    repeat' split
    all_goals rfl⟩

theorem liveEvent_ownSlotWrite : LiveEvent (.ownSlotWrite n) := ⟨_, (exec_ownSlotWrite_eq · n), fun _ => by
  repeat' split
  all_goals rfl⟩

theorem liveEvent_badFcsFrameEnd (frame : List Byte) : LiveEvent (.badFcsFrameEnd frame) :=
  ⟨_, (exec_badFcsFrameEnd_eq · frame), State.frameEnd_pending (fun _ _ => by
    repeat' split
    all_goals rfl) _⟩

theorem liveEvent_sweep (f : SweepFrame) : LiveEvent (.sweep f) :=
  ⟨_, (exec_sweep_eq · f), State.frameEnd_pending (fun r u => by
    simp only
    split
    · rfl
    · rw [State.sweepEvent_pending, State.captureSlots_pending]
      split <;> rfl) _⟩

theorem liveEvent_replyFrame (f : ReplyFrame) : LiveEvent (.replyFrame f) :=
  ⟨_, (exec_replyFrame_eq · f), State.frameEnd_pending (fun _ _ => by
    simp only
    split <;> rfl) _⟩

theorem liveEvent_enumerate : LiveEvent (.enumerate n fl) :=
  ⟨_, (exec_enumerate_eq · n fl), State.frameEnd_pending (fun _ _ => by
    simp only
    split <;> rfl) _⟩

theorem liveEvent_orderNotActedOn (fcs : Fcs) : LiveEvent (.orderNotActedOn code o fcs) :=
  ⟨_, (exec_orderNotActedOn_eq · code o fcs), State.frameEnd_pending (fun _ _ => by split <;> rfl) _⟩

theorem liveEvent_orderForwardedOnly : LiveEvent (.orderForwardedOnly code o) :=
  ⟨_, (exec_orderForwardedOnly_eq · code o), State.frameEnd_pending (fun _ _ => by split <;> rfl) _⟩

theorem liveEvent_unknownOrder : LiveEvent (.unknownOrder code o) :=
  ⟨_, (exec_unknownOrder_eq · code o), fun s => by
    split
    · rfl
    · exact orderEnd_pending (fun _ => rfl) (fun _ => rfl) code o s⟩

end

/-! ## The timed events -/

section
variable (s : State)

theorem exec_commitCompletion_eq : exec .commitCompletion s = execCommitCompletion s := rfl
theorem exec_scheduleFiring_eq : exec .scheduleFiring s = execScheduleFiring s := rfl
theorem exec_watchdogExpiry_eq : exec .watchdogExpiry s = execWatchdogExpiry s := rfl
theorem exec_mergeDwellCompletion_eq (h : Fin 8) :
    exec (.mergeDwellCompletion h) s = execMergeDwellCompletion h s := rfl
theorem exec_clearanceCompletion_eq (k : Fin 4) :
    exec (.clearanceCompletion k) s = execClearanceCompletion k s := rfl
theorem exec_stallTimeout_eq (h : Fin 8) : exec (.stallTimeout h) s = execStallTimeout h s := rfl
theorem exec_staleExpiry_eq (a : Byte) (h : Fin 8) : exec (.staleExpiry a h) s = execStaleExpiry a h s := rfl
theorem exec_slewTick_eq : exec .slewTick s = execSlewTick s := rfl
theorem exec_temperatureSample_eq (r : Int) : exec (.temperatureSample r) s = execTemperatureSample r s := rfl
theorem exec_sampleEvent_eq (m : List Nat) : exec (.sampleEvent m) s = execSampleEvent m s := rfl

end

theorem liveEvent_commitCompletion : LiveEvent .commitCompletion := ⟨_, exec_commitCompletion_eq, fun s => by
  split
  · exact s.commitComplete_pending
  · rfl⟩

theorem liveEvent_scheduleFiring : LiveEvent .scheduleFiring := ⟨_, exec_scheduleFiring_eq, fun s => by
  split
  · rfl
  · exact State.timed_pending (fun _ => rfl) _ s⟩

theorem liveEvent_watchdogExpiry : LiveEvent .watchdogExpiry := ⟨_, exec_watchdogExpiry_eq, fun s => by
  split
  · exact State.timed_pending State.dueWatchdog_pending _ s
  · rfl⟩

theorem liveEvent_mergeDwellCompletion (h : Fin 8) : LiveEvent (.mergeDwellCompletion h) :=
  ⟨_, (exec_mergeDwellCompletion_eq · h), fun s => by
    split
    · refine State.timed_pending (fun u => ?_) _ s
      split <;> simp
    · rfl⟩

theorem liveEvent_clearanceCompletion (k : Fin 4) : LiveEvent (.clearanceCompletion k) :=
  ⟨_, (exec_clearanceCompletion_eq · k), fun s => by
    split
    · refine State.timed_pending (fun u => ?_) _ s
      split <;> simp
    · rfl⟩

theorem liveEvent_stallTimeout (h : Fin 8) : LiveEvent (.stallTimeout h) :=
  ⟨_, (exec_stallTimeout_eq · h), fun s => by
    split
    · refine State.timed_pending (fun u => ?_) _ s
      split <;> simp
    · rfl⟩

theorem liveEvent_staleExpiry (a : Byte) (h : Fin 8) : LiveEvent (.staleExpiry a h) :=
  ⟨_, (exec_staleExpiry_eq · a h), fun s => by
    split
    · rfl
    · split
      · refine State.timed_pending (fun u => ?_) _ s
        split
        · rfl
        · split <;> simp
      · rfl⟩

theorem liveEvent_slewTick : LiveEvent .slewTick := ⟨_, exec_slewTick_eq, fun s => by
  split
  · rfl
  · exact State.timed_pending State.dueSlew_pending _ s⟩

theorem liveEvent_temperatureSample (r : Int) : LiveEvent (.temperatureSample r) :=
  ⟨_, (exec_temperatureSample_eq · r), fun s => by
    refine State.timed_pending (fun u => ?_) _ s
    split <;> simp⟩

theorem liveEvent_sampleEvent (m : List Nat) : LiveEvent (.sampleEvent m) :=
  ⟨_, (exec_sampleEvent_eq · m), fun s => by
    refine State.timed_pending (fun u => ?_) _ s
    split <;> simp⟩

/-! ## Every command -/

/-- The commands of the supply, the RESET_N pin and the restart effects. -/
inductive ResetCommand : Instr → Prop where
  | powerOn (p : ResetInputs) : ResetCommand (.powerOn p)
  | resetN (p : ResetInputs) : ResetCommand (.resetN p)
  | supplyLoss : ResetCommand .supplyLoss
  | resetNAsserted : ResetCommand .resetNAsserted
  | keepTables (p : ResetInputs) : ResetCommand (.keepTablesRestartEffect p)
  | full (p : ResetInputs) : ResetCommand (.fullRestartEffect p)

/-- Every other command is a live event. -/
theorem liveEvent_of_not_reset {c : Instr} (h : ¬ResetCommand c) : LiveEvent c := by
  cases c
  case powerOn p => exact absurd (.powerOn p) h
  case resetN p => exact absurd (.resetN p) h
  case supplyLoss => exact absurd .supplyLoss h
  case resetNAsserted => exact absurd .resetNAsserted h
  case keepTablesRestartEffect p => exact absurd (.keepTables p) h
  case fullRestartEffect p => exact absurd (.full p) h
  case frameStart => exact liveEvent_frameStart _ _
  case framingError => exact liveEvent_framingError
  case unknownFrame => exact liveEvent_unknownFrame
  case frameTruncation => exact liveEvent_frameTruncation
  case surplusBytes => exact liveEvent_surplusBytes
  case inIdleGap => exact liveEvent_inIdleGap
  case badFcsFrameEnd => exact liveEvent_badFcsFrameEnd _
  case sweep => exact liveEvent_sweep _
  case ownSlotWrite => exact liveEvent_ownSlotWrite _
  case replyFrame => exact liveEvent_replyFrame _
  case enumerate => exact liveEvent_enumerate _ _
  case orderNotActedOn => exact liveEvent_orderNotActedOn _ _ _
  case unknownOrder => exact liveEvent_unknownOrder _ _
  case outGapElapsed => exact liveEvent_outGapElapsed
  case replyLeftOut => exact liveEvent_replyLeftOut
  case passThroughLeftOut => exact liveEvent_passThroughLeftOut
  case lineBreak => exact liveEvent_lineBreak
  case lineReset => exact liveEvent_lineReset
  case commitCompletion => exact liveEvent_commitCompletion
  case scheduleFiring => exact liveEvent_scheduleFiring
  case watchdogExpiry => exact liveEvent_watchdogExpiry
  case mergeDwellCompletion => exact liveEvent_mergeDwellCompletion _
  case clearanceCompletion => exact liveEvent_clearanceCompletion _
  case stallTimeout => exact liveEvent_stallTimeout _
  case staleExpiry => exact liveEvent_staleExpiry _ _
  case slewTick => exact liveEvent_slewTick
  case temperatureSample => exact liveEvent_temperatureSample _
  case sampleEvent => exact liveEvent_sampleEvent _
  case orderForwardedOnly => exact liveEvent_orderForwardedOnly _ _
  all_goals exact liveEvent_of_orderRow rfl

theorem exec_answers (c : Instr) (s : State) : ∃ t, exec c s = .next t ∧ t.pending = s.pending := by
  by_cases reset : ResetCommand c
  · cases reset with
    | powerOn p =>
      refine ⟨_, rfl, ?_⟩
      split <;> rfl
    | resetN p =>
      refine ⟨_, rfl, ?_⟩
      split <;> rfl
    | supplyLoss => exact ⟨_, rfl, s.holdInReset_pending⟩
    | resetNAsserted => exact ⟨_, rfl, s.holdInReset_pending⟩
    | keepTables p => exact ⟨_, rfl, s.effectOf_pending .keepTables p⟩
    | full p => exact ⟨_, rfl, s.effectOf_pending .full p⟩
  · exact (liveEvent_of_not_reset reset).answers s

/-- Settles O2: live events by `LiveEvent`, the six commands of supply, pin and restart by their effects. -/
theorem everyCommandAnswersNext : Obligations.EveryCommandAnswersNext := by
  unfold Obligations.EveryCommandAnswersNext
  refine ⟨exec_answers, fun c s held powerOn resetN supplyLoss resetLow => ?_,
    fun c s held _ powerOn resetN supplyLoss resetLow keep full => ?_⟩
  · by_cases reset : ResetCommand c
    · cases reset with
      | powerOn p => exact absurd rfl (powerOn p)
      | resetN p => exact absurd rfl (resetN p)
      | supplyLoss => exact absurd rfl supplyLoss
      | resetNAsserted => exact absurd rfl resetLow
      | keepTables p => exact congrArg Host.Outcome.next (State.effectOf_held held .keepTables p)
      | full p => exact congrArg Host.Outcome.next (State.effectOf_held held .full p)
    · exact (liveEvent_of_not_reset reset).held held
  · refine (liveEvent_of_not_reset fun reset => ?_).afterRestart held
    cases reset with
    | powerOn p => exact powerOn p rfl
    | resetN p => exact resetN p rfl
    | supplyLoss => exact supplyLoss rfl
    | resetNAsserted => exact resetLow rfl
    | keepTables p => exact keep p rfl
    | full p => exact full p rfl

end Sys2Proof.Machine
end

section
/-! SUPPORT. The tables: records, ranges and fields (R53 to R57), what the fields give of faces, heads and channels (R8 to R10, R87, R99), and TABLE_WRITE (R58). -/

namespace Sys2Proof.Machine

/-! ## Bytes of a record -/

theorem byteAt_getElem {r : List Byte} {i : Nat} (h : i < r.length) : byteAt r i = r[i] := by
  rw [byteAt, List.getD_eq_getElem _ _ h]

theorem byteAt_past {r : List Byte} {i : Nat} (h : r.length ≤ i) : byteAt r i = 0#8 := by
  rw [byteAt, List.getD_eq_default _ _ h]

/-- Bytes read from place `i` on: those of the record, then zeros past its end (log 20). -/
theorem bytes_from (r : List Byte) (i n : Nat) :
    (List.range n).map (fun e => byteAt r (i + e))
      = (r.drop i).take n ++ List.replicate (n - (r.length - i)) 0#8 := by
  refine List.ext_getElem (by simp; omega) fun e he _ => ?_
  rw [List.length_map, List.length_range] at he
  rw [List.getElem_map, List.getElem_range, List.getElem_append]
  split
  case isTrue inside =>
    rw [List.length_take, List.length_drop] at inside
    rw [byteAt_getElem (by omega), List.getElem_take, List.getElem_drop]
  case isFalse past =>
    rw [List.length_take, List.length_drop] at past
    rw [byteAt_past (by omega), List.getElem_replicate]

theorem take_drop_bytes {r : List Byte} {i n : Nat} (h : i + n ≤ r.length) :
    (r.drop i).take n = (List.range n).map fun e => byteAt r (i + e) := by
  rw [bytes_from, Nat.sub_eq_zero_of_le (by omega), List.replicate_zero, List.append_nil]

/-! ## The tables (R53) -/

theorem Table.ofId_eq_some (n : Nat) (t : Table) : Table.ofId n = some t ↔ n = t.id := by
  unfold Table.ofId
  split
  case h_9 => cases t <;> simp_all [Table.id]
  all_goals cases t <;> simp [Table.id]

/-! ## The ranges of a record (R55 to R57) -/

theorem entryOk_iff (b : Byte) : entryOk b = true ↔
    (b.getLsbD 7 = true → b.getLsbD 5 = false) ∧ (b.getLsbD 7 = false → b = 0#8) := by
  unfold entryOk
  cases b.getLsbD 7 <;> simp only [Bool.false_eq_true, if_true, if_false, Bool.not_eq_true', beq_iff_eq,
    reduceCtorEq, forall_const, false_imp_iff, true_and, and_true]

/-- Every entry is in its range, and after one that is not present all are zero. -/
theorem patternOk_iff (l : List Byte) : patternOk l = true ↔
    (∀ x ∈ l, entryOk x = true) ∧ l.Pairwise fun x y => x.getLsbD 7 = false → y = 0#8 := by
  induction l with
  | nil => simp [patternOk]
  | cons x l ih =>
    have after : (x.getLsbD 7 || l.all fun y => y == 0#8) = true
        ↔ ∀ y ∈ l, x.getLsbD 7 = false → y = 0#8 := by
      cases x.getLsbD 7 <;> simp
    simp only [patternOk, Bool.and_eq_true, ih, after, List.forall_mem_cons, List.pairwise_cons]
    tauto

theorem patternOk_bytes (f : Nat → Byte) : patternOk ((List.range 4).map f) = true ↔
    ∀ e < 4, ((f e).getLsbD 7 = true → (f e).getLsbD 5 = false)
      ∧ ((f e).getLsbD 7 = false → f e = 0#8 ∧ ∀ e' < 4, e < e' → f e' = 0#8) := by
  simp only [patternOk_iff, List.forall_mem_map, List.mem_range, entryOk_iff, List.pairwise_iff_getElem,
    List.length_map, List.length_range, List.getElem_map, List.getElem_range]
  constructor
  · rintro ⟨each, after⟩ e he
    exact ⟨(each e he).1, fun absent => ⟨(each e he).2 absent,
      fun e' he' later => after e e' he he' later absent⟩⟩
  · intro all
    exact ⟨fun e he => ⟨(all e he).1, fun absent => ((all e he).2 absent).1⟩,
      fun e e' he he' later absent => ((all e he).2 absent).2 e' he' later⟩

theorem headOk_iff {r : List Byte} (length : r.length = 36) :
    headOk r = true ↔ recordInRange .heads r := by
  have offsets : ([4, 8, 12, 16, 20, 24, 28, 32] : List Nat) = (List.range 8).map (4 + 4 * ·) := rfl
  have pattern := fun p (hp : p < 8) => by
    have := patternOk_bytes fun e => byteAt r (4 + 4 * p + e)
    rwa [← take_drop_bytes (by omega)] at this
  unfold headOk
  split
  case isTrue absent => simp [recordInRange, absent]
  case isFalse present =>
    simp only [recordInRange, present, false_or, offsets, List.all_map, List.all_eq_true, List.mem_range,
      Bool.and_eq_true, Function.comp, beq_iff_eq, decide_eq_true_eq, inRange, and_assoc]
    have merge : 2 ≤ natAt r 3 ∧ natAt r 3 ≤ 3 ↔ natAt r 3 = 2 ∨ natAt r 3 = 3 := by omega
    rw [← merge]
    simp only [and_assoc]
    exact and_congr_right' <| and_congr_right' <| and_congr_right' <| and_congr_right' <|
      and_congr_right' <| forall₂_congr pattern

theorem planOk_iff {r : List Byte} (length : r.length = 9) :
    planOk r = true ↔ recordInRange .plans r := by
  have codes : r.drop 1 = (List.range 8).map fun i => byteAt r (1 + i) := by
    rw [← take_drop_bytes (by omega), List.take_of_length_le (by simp [length])]
  simp only [planOk, codes, recordInRange, Bool.and_eq_true, decide_eq_true_eq, List.all_map,
    List.all_eq_true, List.mem_range, Function.comp]
  rfl

theorem groupOk_iff (x : Nat) : groupOk x = true ↔ x = 0 ∨ (224 ≤ x ∧ x ≤ 254) := by
  simp [groupOk, inRange]

theorem nodeOk_iff (r : List Byte) : nodeOk r = true ↔ recordInRange .node r := by
  simp only [nodeOk, recordInRange, Bool.and_eq_true, groupOk_iff, inRange, decide_eq_true_eq, and_assoc,
    Nat.forall_lt_succ_right, Nat.not_lt_zero, false_imp_iff, implies_true, true_and]

theorem laneOk_iff (r : List Byte) : laneOk r = true ↔ recordInRange .lanes r := by
  simp [laneOk, recordInRange, faceEntryOk, faceEntryInRange, and_assoc]

theorem timingOk_iff (r : List Byte) : timingOk r = true ↔ recordInRange .timing r := by
  simp only [timingOk, recordInRange, Bool.and_eq_true, inRange, decide_eq_true_eq, and_assoc,
    Nat.forall_lt_succ_right, Nat.not_lt_zero, false_imp_iff, implies_true, true_and, Nat.reduceMul, Nat.reduceAdd]

theorem intensityOk_iff (r : List Byte) : intensityOk r = true ↔ recordInRange .intensity r := by
  simp only [intensityOk, recordInRange, Bool.and_eq_true, inRange, decide_eq_true_eq, and_assoc,
    Nat.forall_lt_succ_right, Nat.not_lt_zero, false_imp_iff, implies_true, true_and, Nat.reduceMul,
      List.all_cons, List.all_nil]
  grind

theorem Table.recordOk_iff (t : Table) {r : List Byte} (length : r.length = t.size) :
    t.recordOk r = true ↔ recordInRange t r := by
  cases t with
  | node => exact nodeOk_iff r
  | lanes => exact laneOk_iff r
  | heads => exact headOk_iff length
  | plans => exact planOk_iff length
  | timing => exact timingOk_iff r
  | intensity => exact intensityOk_iff r
  | calibration => simp [Table.recordOk, calibrationOk, recordInRange]
  | alarmMask => simp [Table.recordOk, alarmMaskOk, recordInRange]

/-! ## A record written (R54, R58) -/

theorem Bank.write_row_self {b : Bank} {t : Table} {i : Nat} (h : i < (b.rows t).length) (r : List Byte) :
    (b.write t i r).row t i = r := by
  simp [Bank.row, b.rows_write, h]

theorem Bank.write_row_other (b : Bank) {t t' : Table} {i j : Nat} (h : t' ≠ t ∨ j ≠ i) (r : List Byte) :
    (b.write t i r).row t' j = b.row t' j := by
  unfold Bank.row
  rw [b.rows_write]
  split
  · have other : i ≠ j := fun e => h.elim (· ‹_›) (· e.symm)
    simp [List.getElem?_set_ne other]
  · rfl

theorem Bank.write_markers (b : Bank) (t : Table) (i : Nat) (r : List Byte) :
    (b.write t i r).nodeWritten = (b.nodeWritten || t == .node)
      ∧ (b.write t i r).timingWritten = (b.timingWritten || t == .timing)
      ∧ (b.write t i r).intensityWritten = (b.intensityWritten || t == .intensity) := by
  cases t <;> simp [Bank.write]

/-! ## The fields of the records (R55 to R57) -/

theorem wordAt_eq (r : List Byte) (i : Nat) :
    wordAt r i = 256 * (r.getD i 0#8).toNat + (r.getD (i + 1) 0#8).toNat := by
  rw [wordAt, Nat.mul_comm]
  rfl

theorem wordAt_lt (r : List Byte) (i : Nat) : wordAt r i < 65536 := by
  have high := (byteAt r i).isLt
  have low := (byteAt r (i + 1)).isLt
  simp only [wordAt, natAt]
  omega

/-- A destination other than 0 is a group address when one of the first four bytes of NODE is it. -/
theorem Bank.groupAddress_iff (b : Bank) (x : Byte) :
    b.groupAddress x = true ↔ x ≠ 0#8 ∧ ∃ i < 4, byteAt (b.row .node 0) i = x := by
  simp only [Bank.groupAddress, Bool.and_eq_true, bne_iff_ne, List.contains_iff_mem]
  refine and_congr_right fun nonzero => ?_
  rw [List.mem_take_iff_getElem]
  constructor
  · rintro ⟨i, hi, rfl⟩
    exact ⟨i, by omega, byteAt_getElem _⟩
  · rintro ⟨i, hi, rfl⟩
    have inside : i < (b.row .node 0).length := by
      by_contra outside
      exact nonzero (byteAt_past (Nat.le_of_not_lt outside))
    exact ⟨i, by omega, (byteAt_getElem inside).symm⟩

theorem Bank.offset_eq (b : Bank) (c : Fin 32) :
    let word := wordAt (b.row .calibration c.val) 2
    b.offset c = if word < 32768 then (word : Int) else (word : Int) - 65536 := by
  intro word
  have small := wordAt_lt (b.row .calibration c.val) 2
  unfold Bank.offset
  rw [BitVec.toInt_eq_toNat_cond, BitVec.toNat_ofNat, Nat.mod_eq_of_lt small]
  exact if_congr (by omega) rfl rfl

theorem Bank.planDefined_iff (b : Bank) (p : Nat) :
    b.planDefined p = true ↔ 1 ≤ p ∧ p ≤ 64 ∧ natAt (b.row .plans (p - 1)) 0 = 1 := by
  simp [Bank.planDefined, and_assoc]

theorem Bank.planCode_desc (b : Bank) (p : Nat) (k : Fin 4) :
    b.planCode p k .desc = natAt (b.row .plans (p - 1)) (2 + 2 * k.val) :=
  congrArg (natAt _) (by simp only [Face.code]; omega)

theorem Bank.planTarget_eq (b : Bank) (p : Nat) (h : Fin 8) :
    b.planTarget p h = (match b.planCode p (b.headLane h) (b.headFace h) with
      | 1 => some .open_ | 2 => some .mergeL | 3 => some .mergeR | 4 => some .closed | _ => none) := by
  unfold Bank.planTarget Aspect.ofCode
  rfl

theorem Bank.laneKind_eq (b : Bank) (k : Fin 4) :
    b.laneKind k = (match natAt (b.row .lanes k.val) 0 with
      | 1 => LaneKind.ascOnly | 2 => .descOnly | 3 => .tidal | _ => .absent) := by
  unfold Bank.laneKind LaneKind.ofCode
  rfl

theorem LaneKind.ofCode_tidal (n : Nat) : LaneKind.ofCode n = .tidal ↔ n = 3 := by
  unfold LaneKind.ofCode
  split <;> simp_all

theorem LaneKind.ofCode_gives_asc (n : Nat) : (LaneKind.ofCode n).gives .asc = true ↔ n = 1 ∨ n = 3 := by
  unfold LaneKind.ofCode
  split <;> simp_all [LaneKind.gives]

theorem LaneKind.ofCode_gives_desc (n : Nat) : (LaneKind.ofCode n).gives .desc = true ↔ n = 2 ∨ n = 3 := by
  unfold LaneKind.ofCode
  split <;> simp_all [LaneKind.gives]

theorem Bank.headExists_iff (b : Bank) (h : Fin 8) :
    b.headExists h = true ↔ natAt (b.row .heads h.val) 0 = 1 := beq_iff_eq

/-- The entry of a byte whose present bit is set. -/
def PatternEntry.coded (x : Byte) : PatternEntry :=
  ⟨Fin.ofNat 32 (x.extractLsb' 0 5).toNat, x.getLsbD 6⟩

theorem PatternEntry.ofByte_eq (x : Byte) :
    PatternEntry.ofByte x = if x.getLsbD 7 then some (PatternEntry.coded x) else none := rfl

theorem filterMap_ofByte (l : List Byte) : l.filterMap PatternEntry.ofByte =
    (l.filter fun x => x.getLsbD 7).map PatternEntry.coded := by
  induction l with
  | nil => rfl
  | cons x l ih =>
    rw [List.filterMap_cons, List.filter_cons, PatternEntry.ofByte_eq]
    split <;> simp_all

/-- The present entries among the four bytes from place `i` on. -/
theorem entries_at (r : List Byte) (i : Nat) : ((r.drop i).take 4).filterMap PatternEntry.ofByte =
    (((List.range 4).map fun e => byteAt r (i + e)).filter fun x => x.getLsbD 7).map
      PatternEntry.coded := by
  rw [bytes_from, List.filter_append, List.filter_replicate_of_neg (by decide), List.append_nil,
    filterMap_ofByte]

theorem Bank.pattern_eq (b : Bank) (h : Fin 8) {a : Aspect} (lit : a ≠ .dark) (p : PatternKind) :
    b.pattern h a p = (((List.range 4).map fun e => byteAt (b.row .heads h.val)
      (patternOffset a p + e)).filter fun x => x.getLsbD 7).map PatternEntry.coded := by
  unfold Bank.pattern
  rw [if_neg lit]
  exact entries_at _ _

/-! ## Faces, heads and channels (R8 to R10, R87, R99) -/

theorem Bank.fitted_iff (b : Bank) (h : Fin 8) (a : Aspect) :
    b.fitted h a = true ↔ b.pattern h a .primary ≠ [] := by
  simp [Bank.fitted]

/-- A channel belongs to an existing head by a pattern of one of its fitted aspects. -/
theorem Bank.mem_channels_among (b : Bank) (h : Fin 8) (as : List Aspect) (c : Fin 32) :
    c ∈ (if b.headExists h then channelsOf (b.patternsAmong h as) else []) ↔
      b.headExists h = true
        ∧ ∃ a ∈ as, b.fitted h a = true ∧ ∃ p, ∃ x ∈ b.pattern h a p, x.channel = c := by
  split
  case isFalse absent => simp [absent]
  case isTrue present =>
    simp only [present, true_and, channelsOf, List.mem_flatMap, List.mem_map, b.mem_patternsAmong]
    constructor
    · rintro ⟨_, ⟨a, ha, fitted, p, rfl⟩, x, hx, named⟩
      exact ⟨a, ha, fitted, p, x, hx, named⟩
    · rintro ⟨a, ha, fitted, p, x, hx, named⟩
      exact ⟨_, ⟨a, ha, fitted, p, rfl⟩, x, hx, named⟩

theorem Bank.servedFace_none (b : Bank) (h : Fin 8) :
    b.servedFace h = none ↔ ∀ x ∈ b.faces, ¬b.faceHead x.1 x.2 = h := by
  simp [Bank.servedFace]

/-- The face served is the first that names the head (log 16). -/
theorem Bank.servedFace_first {b : Bank} {h : Fin 8} {before after : List (Fin 4 × Face)} {x : Fin 4 × Face}
    (faces : b.faces = before ++ x :: after) (names : b.faceHead x.1 x.2 = h)
    (first : ∀ y ∈ before, ¬b.faceHead y.1 y.2 = h) : b.servedFace h = some x := by
  unfold Bank.servedFace
  rw [List.find?_eq_some_iff_append]
  exact ⟨beq_iff_eq.2 names, before, after, faces, fun y hy => by simpa using first y hy⟩

theorem Bank.oppositeHead_iff (b : Bank) (h o : Fin 8) : b.oppositeHead h = some o ↔
    ∃ k f, b.servedFace h = some (k, f) ∧ b.tidal k = true ∧ o = b.faceHead k f.other := by
  unfold Bank.oppositeHead
  split
  · rename_i k f served
    simp only [served, Option.some.injEq, Prod.mk.injEq, Option.ite_none_right_eq_some]
    constructor
    · rintro ⟨tidal, rfl⟩
      exact ⟨k, f, ⟨rfl, rfl⟩, tidal, rfl⟩
    · rintro ⟨_, _, ⟨rfl, rfl⟩, tidal, rfl⟩
      exact ⟨tidal, rfl⟩
  · rename_i unserved
    simp [unserved]

theorem Bank.refersTo_iff (b : Bank) (h : Fin 8) (n : Neighbour) : b.refersTo h n = true ↔
    ∃ k f, b.servedFace h = some (k, f)
      ∧ (b.upstream k f = some ⟨n.address, n.head⟩ ∨ b.downstream k f = some ⟨n.address, n.head⟩) := by
  unfold Bank.refersTo
  split
  · rename_i unserved
    simp [unserved]
  · rename_i k f served
    simp only [served, Option.some.injEq, Prod.mk.injEq, Bool.or_eq_true, beq_iff_eq]
    constructor
    · intro refers
      exact ⟨k, f, ⟨rfl, rfl⟩, refers⟩
    · rintro ⟨_, _, ⟨rfl, rfl⟩, refers⟩
      exact refers

/-! ## The records of a TABLE_WRITE (R58) -/

/-- The first `n` records, each in range, are written, and the write goes on with the rest. -/
theorem writeRecords_front (t : Table) (index : Nat) (data : List Byte) (b : Bank) {n count : Nat}
    (enough : n ≤ count) (ok : ∀ i < n, index + i < t.records
      ∧ t.recordOk ((data.drop (i * t.size)).take t.size) = true) :
    writeRecords t count index data b 0 = writeRecords t (count - n) (index + n) (data.drop (n * t.size))
      ((List.range n).foldl (fun b i => b.write t (index + i) ((data.drop (i * t.size)).take t.size)) b)
      n := by
  induction n with
  | zero => simp
  | succ n ih =>
    obtain ⟨inside, inRange⟩ := ok n (by omega)
    have one : count - n = (count - (n + 1)) + 1 := by omega
    rw [ih (by omega) fun i hi => ok i (by omega), one, writeRecords, if_neg (by omega), if_pos inRange,
      List.range_succ, List.foldl_append, List.drop_drop, Nat.add_mul, Nat.one_mul, Nat.add_assoc]
    rfl

theorem writeRecords_all (t : Table) (index : Nat) (data : List Byte) (b : Bank) (written : Nat) :
    writeRecords t 0 index data b written = ⟨b, written, none⟩ := rfl

/-- The write stops at the table's end, with cause 2. -/
theorem writeRecords_past {t : Table} {count index : Nat} (more : 0 < count) (past : t.records ≤ index)
    (data : List Byte) (b : Bank) (written : Nat) :
    writeRecords t count index data b written = ⟨b, written, some 2⟩ := by
  obtain ⟨m, rfl⟩ := Nat.exists_eq_succ_of_ne_zero more.ne'
  exact if_pos past

/-- The write stops at a record out of range, with cause 3. -/
theorem writeRecords_refused {t : Table} {count index : Nat} (more : 0 < count) (inside : index < t.records)
    {data : List Byte} (bad : t.recordOk (data.take t.size) = false) (b : Bank) (written : Nat) :
    writeRecords t count index data b written = ⟨b, written, some 3⟩ := by
  obtain ⟨m, rfl⟩ := Nat.exists_eq_succ_of_ne_zero more.ne'
  rw [writeRecords, if_neg (by omega), if_neg (by simp [bad])]

/-- An addressed TABLE_WRITE that passes checks 2 to 5 is carried out. -/
theorem exec_tableWrite {o : Order} {s : State} (addressed : s.Addressed o)
    (length : tableWriteLength o.body = true)
    (keyed : tableWriteCommission o.body = false ∨ (o.authority = 1#8 ∧ o.key = true))
    (idle : s.store.validating = false) :
    exec (.tableWrite o) s = .next ((actTableWrite o (s.received o)).state.replied 0x10#8 o
      (actTableWrite o (s.received o)).status (actTableWrite o (s.received o)).content) := by
  have row : orderRow (.tableWrite o) = some (tableWriteSpec, o) := rfl
  rw [exec_orderRow row]
  exact OrderSpec.run_addressed _ addressed (OrderSpec.check_none _ length keyed rfl (.inr idle))

section
variable {o : Order} {t : Table} {s : State} {bank : Bank} {n : Nat}

theorem actTableWrite_whole (table : Table.ofId (natAt o.body 0) = some t)
    (result : writeRecords t (natAt o.body 2) (natAt o.body 1) (o.body.drop 3) s.store.shadow 0
      = ⟨bank, n, none⟩) : actTableWrite o s = .done (s.setShadow bank) [byteOf n] := by
  unfold actTableWrite
  simp only [table, result]

theorem actTableWrite_stopped {cause : Nat} (table : Table.ofId (natAt o.body 0) = some t)
    (result : writeRecords t (natAt o.body 2) (natAt o.body 1) (o.body.drop 3) s.store.shadow 0
      = ⟨bank, n, some cause⟩) : actTableWrite o s
        = ⟨.outOfRange, [byteOf n, byteOf (natAt o.body 1 + n), byteOf cause], s.setShadow bank⟩ := by
  unfold actTableWrite
  simp only [table, result]

end

theorem actTableWrite_unknown {o : Order} (table : Table.ofId (natAt o.body 0) = none) (s : State) :
    actTableWrite o s = ⟨.outOfRange, [0#8, byteAt o.body 1, 1#8], s⟩ := by
  unfold actTableWrite
  rw [table]

/-- The records of a body in order are those of its data. -/
theorem body_record (body : List Byte) (i size : Nat) :
    (body.drop (3 + i * size)).take size = ((body.drop 3).drop (i * size)).take size := by
  rw [List.drop_drop]

/-- Settles O25: each accessor by its own lemma; a write by what its first records come to and what comes after
them. -/
theorem tableWriteWritesRecordByRecord : Obligations.TableWriteWritesRecordByRecord := by
  unfold Obligations.TableWriteWritesRecordByRecord
  refine ⟨rfl, Table.ofId_eq_some, fun t r => t.recordOk_iff, fun b t i r hi => ?_,
    fun r i => ⟨rfl, wordAt_eq r i⟩, fun b => ⟨?_, ?_, ?_, ?_, ?_, ?_, ?_⟩,
    fun b => ⟨rfl, rfl, fun h => ?_⟩,
    ?_, fun o s addressed table length idle => ?_⟩
  case refine_1 =>
    exact ⟨b.write_row_self hi r, fun t' j other => b.write_row_other other r, b.write_markers t i r⟩
  case refine_2 => exact ⟨rfl, rfl, rfl, rfl, b.groupAddress_iff⟩
  case refine_3 =>
    exact ⟨Nat.mul_comm .., fun k => Nat.mul_comm .., Nat.mul_comm .., Nat.mul_comm .., rfl,
      Nat.mul_comm .., rfl, Nat.mul_comm ..⟩
  case refine_4 => exact ⟨fun l => rfl, rfl, rfl⟩
  case refine_5 => exact fun c => ⟨rfl, b.offset_eq c⟩
  case refine_6 =>
    exact fun p k h => ⟨b.planDefined_iff p, rfl, b.planCode_desc p k, b.planTarget_eq p h⟩
  case refine_7 =>
    exact fun k => ⟨b.laneKind_eq k, beq_iff_eq.trans (LaneKind.ofCode_tidal _),
      LaneKind.ofCode_gives_asc _, LaneKind.ofCode_gives_desc _, rfl, rfl, rfl, rfl, rfl, rfl⟩
  case refine_8 =>
    exact fun h => ⟨b.headExists_iff h, rfl, rfl, rfl, fun p => ⟨rfl, b.pattern_eq h (a := .open_) nofun p,
      b.pattern_eq h (a := .mergeL) nofun p, b.pattern_eq h (a := .mergeR) nofun p,
      b.pattern_eq h (a := .closed) nofun p⟩⟩
  case refine_9 =>
    refine ⟨b.fitted_iff h, fun c => ⟨b.mem_channels_among h _ c, b.mem_channels_among h _ c,
      b.mem_channels_among h _ c⟩, b.servedFace_none h, fun before x after faces names first =>
      b.servedFace_first faces names first, fun o => b.oppositeHead_iff h o, b.refersTo_iff h⟩
  case refine_10 =>
    intro o s t addressed table length keyed idle first record n enough ok u w
    have body : 3 ≤ o.body.length
        ∧ ∀ x ∈ Table.ofId (natAt o.body 0), o.body.length = 3 + natAt o.body 2 * x.size := by
      rw [table]
      exact ⟨by omega, fun x hx => Option.some.inj hx ▸ length⟩
    have commission : tableWriteCommission o.body = false ∨ (o.authority = 1#8 ∧ o.key = true) := by
      simp only [tableWriteCommission, table]
      cases hc : t.commissioning
      · exact .inl rfl
      · exact .inr (keyed hc)
    rw [exec_tableWrite addressed ((tableWriteLength_iff _).2 body) commission idle]
    simp only [record, body_record] at ok
    have front := writeRecords_front t first (o.body.drop 3) s.store.shadow enough ok
    simp only [w, record, body_record]
    refine ⟨fun all => ?_, fun more past => ?_, fun more inside bad => ?_⟩
    · subst all
      rw [Nat.sub_self, writeRecords_all] at front
      rw [actTableWrite_whole (s := u) table front]
      rfl
    · rw [writeRecords_past (by omega) past] at front
      rw [actTableWrite_stopped (s := u) table front]
      rfl
    · rw [writeRecords_refused (by omega) inside bad] at front
      rw [actTableWrite_stopped (s := u) table front]
      rfl
  case refine_11 =>
    have body : 3 ≤ o.body.length ∧ ∀ x ∈ Table.ofId (natAt o.body 0),
        o.body.length = 3 + natAt o.body 2 * x.size := ⟨length, by simp [table]⟩
    have commission : tableWriteCommission o.body = false := by simp [tableWriteCommission, table]
    rw [exec_tableWrite addressed ((tableWriteLength_iff _).2 body) (.inl commission) idle,
      actTableWrite_unknown table]

end Sys2Proof.Machine
end

section
/-! SUPPORT. TABLE_READ, COMMIT_TABLES and DISCARD_SHADOW (R59, R60, R65). -/

namespace Sys2Proof.Machine

/-- Settles O27: both answers are the orders' acts; a commit in flight is aborted by the first branch. -/
theorem commitStartsAndDiscardAborts : Obligations.CommitStartsAndDiscardAborts := by
  unfold Obligations.CommitStartsAndDiscardAborts
  intro o s addressed body u
  have length : lengthIs 0 o.body = true := (lengthIs_iff 0 _).2 (by simp [body])
  have discarded : exec (.discardShadow o) s = .next ((actDiscardShadow o u).state.replied 0x13#8 o
      (actDiscardShadow o u).status (actDiscardShadow o u).content) :=
    exec_addressedOrder (c := .discardShadow o) rfl addressed length (.inl rfl) rfl
  refine ⟨fun idle => ?_, fun idle => ?_, fun busy => ?_⟩
  · have row : orderRow (.commitTables o) = some (commitTablesSpec, o) := rfl
    rw [exec_orderRow row]
    exact OrderSpec.run_addressed _ addressed (OrderSpec.check_none _ length (.inl rfl) rfl (.inr idle))
  · have act : actDiscardShadow o u = .done (u.setShadow s.store.active) [0#8] :=
      if_neg (Bool.eq_false_iff.1 idle)
    rw [discarded, act]
    rfl
  · have act : actDiscardShadow o u = .done { u with store := { s.store with
        shadow := s.store.active, validating := false, commitAge := 0, lastResult := .aborted
        lastTable := 0, lastIndex := 0 } } [1#8] := if_pos busy
    rw [discarded, act]
    rfl

theorem readRecords_eq (b : Bank) (t : Table) (first n : Nat) (o : Order) :
    readRecords b t first n (!t.commissioning || commissionHonoured o) =
      (List.range n).flatMap fun i =>
        if t.commissioning = true ∧ ¬(o.authority = 1#8 ∧ o.key = true) then List.replicate t.size 0#8
        else b.row t (first + i) := by
  unfold readRecords
  simp only [← commissionHonoured_iff]
  cases t.commissioning <;> cases commissionHonoured o <;> simp

/-- Settles O26: the table id, the bank and the first index select the answer's case. -/
theorem tableReadReturnsRecords : Obligations.TableReadReturnsRecords := by
  unfold Obligations.TableReadReturnsRecords
  intro o s addressed body u first
  have read : exec (.tableRead o) s = .next ((actTableRead o u).state.replied 0x11#8 o
      (actTableRead o u).status (actTableRead o u).content) :=
    exec_addressedOrder (c := .tableRead o) rfl addressed ((lengthIs_iff 4 _).2 body) (.inl rfl) rfl
  rw [read]
  refine ⟨fun t table bank inside => ?_, fun refused => ?_⟩
  · have act : actTableRead o u = .done u (byteOf (readCount t first (natAt o.body 3)) ::
        readRecords (u.bank (natAt o.body 1)) t first (readCount t first (natAt o.body 3))
          (!t.commissioning || commissionHonoured o)) := by
      unfold actTableRead
      rw [table]
      exact if_neg (by omega)
    rw [act, readRecords_eq]
    rfl
  · have act : actTableRead o u = .refuse u .outOfRange := by
      unfold actTableRead
      split
      · rfl
      · exact if_pos (refused _ ‹_›)
    rw [act]
    rfl

end Sys2Proof.Machine
end

section
/-! SUPPORT. The checks of a commit (R61, R62). -/

namespace Sys2Proof.Machine

/-! ## The eleven steps (R61) -/

theorem firstFailure_cons (x : Option CommitFailure) (l : List (Option CommitFailure)) :
    firstFailure (x :: l) = x.or (firstFailure l) := by
  cases x <;> rfl

theorem State.commitFailure_eq (s : State) :
    let b := s.store.shadow
    s.commitFailure = (((((((((b.checkUnset.or (b.checkLaneHeads b.faces [])).or b.checkFitted).or
      (b.checkShared b.existing [])).or b.checkOverlap).or b.checkEssential).or
      (b.checkSelf s.line.address)).or b.checkLanes).or b.checkPlans).or b.checkFallback).or
      (checkInService s.node.mode s.store.active b) := by
  simp only [State.commitFailure, firstFailure_cons, Option.or_assoc]
  simp only [firstFailure, Option.or_none]

/-- A commit that passes passes the commissioning checks, the correspondence of faces and heads among them. -/
theorem State.laneHeads_of_commits {s : State} (h : s.commitFailure = none) :
    s.store.shadow.checkLaneHeads s.store.shadow.faces [] = none := by
  rw [s.commitFailure_eq] at h
  simp only [Option.or_eq_none_iff] at h
  tauto

theorem Bank.checkUnset_eq (b : Bank) : b.checkUnset =
    (if b.nodeWritten = false then some ⟨.nodeUnset, 1, 0⟩
      else if b.timingWritten = false then some ⟨.timingUnset, 5, 0⟩
      else if b.intensityWritten = false then some ⟨.intensityUnset, 6, 0⟩ else none) := by
  simp only [Bank.checkUnset, Bool.not_eq_true']

/-! ## COMMISSIONING_IN_SERVICE (R62) -/

/-- A record of a table that differs between two banks. -/
def Bank.Differs (a b : Bank) (t : Table) (i : Nat) : Prop := i < t.records ∧ a.row t i ≠ b.row t i

/-- The search finds nothing where the records agree, and the first that differs where they do not. -/
theorem firstDifference_cases (x y : List (List Byte)) (i n : Nat) :
    (firstDifference x y i n = none ∧ ∀ j, i ≤ j → j < i + n → x.getD j [] = y.getD j [])
    ∨ ∃ j, firstDifference x y i n = some j ∧ i ≤ j ∧ j < i + n ∧ x.getD j [] ≠ y.getD j []
      ∧ ∀ k, i ≤ k → k < j → x.getD k [] = y.getD k [] := by
  induction n generalizing i with
  | zero => exact .inl ⟨rfl, fun j _ _ => by omega⟩
  | succ n ih =>
    unfold firstDifference
    split
    case isFalse differ => exact .inr ⟨i, rfl, le_rfl, by omega, differ, fun k _ _ => by omega⟩
    case isTrue same =>
      have here : ∀ {k}, i ≤ k → (i + 1 ≤ k → x.getD k [] = y.getD k []) → x.getD k [] = y.getD k [] :=
        fun {k} le after => by
          rcases Nat.eq_or_lt_of_le le with rfl | lt
          · exact same
          · exact after lt
      rcases ih (i + 1) with ⟨none, agree⟩ | ⟨j, found, le, lt, differ, before⟩
      · exact .inl ⟨none, fun j le lt => here le fun le' => agree j le' (by omega)⟩
      · exact .inr ⟨j, found, by omega, by omega, differ, fun k le lt => here le fun le' => before k le' lt⟩

theorem tableDifference_cases (a b : Bank) (t : Table) :
    (tableDifference a b t = none ∧ ∀ i, ¬a.Differs b t i)
    ∨ ∃ i, tableDifference a b t = some (t, i) ∧ a.Differs b t i ∧ ∀ j < i, ¬a.Differs b t j := by
  unfold tableDifference
  rcases firstDifference_cases (a.rows t) (b.rows t) 0 t.records with
    ⟨none, agree⟩ | ⟨i, found, -, lt, differ, before⟩
  · refine .inl ⟨by rw [none]; rfl, fun i ⟨lt, differ⟩ => differ (agree i (Nat.zero_le i) (by omega))⟩
  · exact .inr ⟨i, by rw [found]; rfl, ⟨by omega, differ⟩, fun j lt ⟨_, differs⟩ =>
      differs (before j (Nat.zero_le j) lt)⟩

theorem tableDifference_none {a b : Bank} {t : Table} (same : ∀ i, ¬a.Differs b t i) :
    tableDifference a b t = none := by
  rcases tableDifference_cases a b t with ⟨none, -⟩ | ⟨i, -, differs, -⟩
  · exact none
  · exact absurd differs (same i)

theorem tableDifference_first {a b : Bank} {t : Table} (some : ¬∀ i, ¬a.Differs b t i) :
    ∃ i, tableDifference a b t = .some (t, i) ∧ a.Differs b t i ∧ ∀ j < i, ¬a.Differs b t j := by
  rcases tableDifference_cases a b t with ⟨-, same⟩ | first
  · exact absurd same some
  · exact first

/-- The failure names a table and its first record that differs. -/
def Bank.NamesFirst (a b : Bank) (t : Table) (f : CommitFailure) : Prop :=
  f.result = .commissioningInService ∧ f.table = t.id ∧ a.Differs b t f.index
    ∧ ∀ i < f.index, ¬a.Differs b t i

theorem checkInService_idle {m : Mode} (h : m ≠ .inService) (h' : m ≠ .fallback) (a b : Bank) :
    checkInService m a b = none := if_neg (by tauto)

theorem checkInService_serving {m : Mode} (h : m = .inService ∨ m = .fallback) (a b : Bank) :
    checkInService m a b = (((tableDifference a b .node).or (tableDifference a b .lanes)).or
      (tableDifference a b .heads)).map fun ti => ⟨.commissioningInService, ti.1.id, ti.2⟩ := if_pos h

/-- Where the tables searched before agree, the first record of the next that differs is named. -/
theorem Bank.names_first {a b : Bank} {t : Table} {x : Option CommitFailure}
    (differ : ¬∀ i, ¬a.Differs b t i)
    (search : ∀ i, tableDifference a b t = some (t, i) → x = some ⟨.commissioningInService, t.id, i⟩) :
    ∃ f, x = some f ∧ a.NamesFirst b t f := by
  obtain ⟨i, found, differs, before⟩ := tableDifference_first differ
  exact ⟨_, search i found, rfl, rfl, differs, before⟩

theorem checkInService_names {m : Mode} (h : m = .inService ∨ m = .fallback) (a b : Bank) :
    let kept := fun t : Table => ∀ i, ¬a.Differs b t i
    (kept .node → kept .lanes → kept .heads → checkInService m a b = none)
    ∧ (¬kept .node → ∃ f, checkInService m a b = some f ∧ a.NamesFirst b .node f)
    ∧ (kept .node → ¬kept .lanes → ∃ f, checkInService m a b = some f ∧ a.NamesFirst b .lanes f)
    ∧ (kept .node → kept .lanes → ¬kept .heads →
        ∃ f, checkInService m a b = some f ∧ a.NamesFirst b .heads f) := by
  rw [checkInService_serving h]
  refine ⟨fun node lanes heads => ?_, fun node => Bank.names_first node fun i found => ?_,
    fun node lanes => Bank.names_first lanes fun i found => ?_,
    fun node lanes heads => Bank.names_first heads fun i found => ?_⟩
  · simp only [tableDifference_none node, tableDifference_none lanes, tableDifference_none heads]
    rfl
  · simp only [found]
    rfl
  · simp only [tableDifference_none node, found]
    rfl
  · simp only [tableDifference_none node, tableDifference_none lanes, found]
    rfl

end Sys2Proof.Machine
end

section
/-! SUPPORT. One head through the dwells, re-tests, clearances and stalls of one event (R89, R94, R99, R101). -/

namespace Sys2Proof.Machine

/-! ## One head through acts on all heads in turn -/

section
variable {f : Gantry → Fin 8 → Gantry} (only : ∀ (g : Gantry) (i : Fin 8), g.OnlyHead (f g i) i) {h : Fin 8}
include only

theorem foldl_head_other {l : List (Fin 8)} (hl : h ∉ l) (g : Gantry) :
    (l.foldl f g).heads[h] = g.heads[h] := by
  induction l generalizing g with
  | nil => rfl
  | cons i l ih =>
    obtain ⟨here, there⟩ := List.ne_and_not_mem_of_not_mem_cons hl
    exact (ih there _).trans ((only g i).other h here)

/-- The head is acted on once, as it stands before all the acts. -/
theorem foldl_head {l : List (Fin 8)} (nodup : l.Nodup) (hl : h ∈ l) (g : Gantry) :
    ∃ g' : Gantry, g'.heads[h] = g.heads[h] ∧ (l.foldl f g).heads[h] = (f g' h).heads[h] := by
  induction l generalizing g with
  | nil => simp at hl
  | cons i l ih =>
    obtain ⟨absent, nodup⟩ := List.nodup_cons.1 nodup
    rcases List.mem_cons.1 hl with rfl | there
    · exact ⟨g, rfl, foldl_head_other only absent _⟩
    · obtain ⟨g', same, acted⟩ := ih nodup there (f g i)
      have ne : h ≠ i := fun e => absent (e ▸ there)
      exact ⟨g', same.trans ((only g i).other h ne), acted⟩

end

/-! ## Merge dwells at one event (R94) -/

section
variable {e : Env} {h : Fin 8} {g : Gantry}

theorem Env.dwellDue_iff : e.dwellDue h g = true ↔ e.bank.headExists h = true
    ∧ g.heads[h].stage = some .merging ∧ e.bank.dwellMs ≤ g.heads[h].mergeServed := by
  simp only [Env.dwellDue, Bool.and_eq_true, beq_iff_eq, decide_eq_true_eq, and_assoc]

/-- Whether a dwell is due is told by the head alone. -/
theorem Env.dwellDue_congr {g' : Gantry} (same : g'.heads[h] = g.heads[h]) :
    e.dwellDue h g' = e.dwellDue h g := by
  simp only [Env.dwellDue, same]

theorem Env.dwellComplete_onlyHead (e : Env) (h : Fin 8) (g : Gantry) :
    g.OnlyHead (e.dwellComplete h g) h := by
  unfold Env.dwellComplete
  split
  · exact e.reachCloseWait_onlyHead h g
  · exact .refl g h

theorem Env.dueDwells_head (e : Env) (h : Fin 8) (g : Gantry) : ∃ g' : Gantry, g'.heads[h] = g.heads[h]
    ∧ (e.dueDwells g).heads[h] = (if e.dwellDue h g then e.dwellComplete h g' else g').heads[h] := by
  have only : ∀ (g : Gantry) (i : Fin 8),
      g.OnlyHead (if e.dwellDue i g then e.dwellComplete i g else g) i := fun g i => by
    split
    · exact e.dwellComplete_onlyHead i g
    · exact .refl g i
  obtain ⟨g', same, acted⟩ := foldl_head only (by decide : allHeads.Nodup) (mem_allHeads h) g
  rw [Env.dwellDue_congr same] at acted
  exact ⟨g', same, acted⟩

theorem Env.dueDwells_idle (idle : e.dwellDue h g = false) : (e.dueDwells g).heads[h] = g.heads[h] := by
  obtain ⟨g', same, acted⟩ := e.dueDwells_head h g
  rw [acted, idle]
  exact same

/-- A dwell that completes brings the head to CLOSE_WAIT, which it passes where the upstream condition
holds. -/
theorem Env.dueDwells_due (due : e.dwellDue h g = true) : ∃ g' : Gantry, g'.heads[h] = g.heads[h]
    ∧ (e.dueDwells g).heads[h] = (e.reachCloseWait h g').heads[h] := by
  obtain ⟨g', same, acted⟩ := e.dueDwells_head h g
  have merging : g'.heads[h].stage = some .merging := by
    rw [same]
    exact (Env.dwellDue_iff.1 due).2.1
  rw [due, if_pos rfl, Env.dwellComplete, if_pos merging] at acted
  exact ⟨g', same, acted⟩

theorem Env.dueDwells_closes (due : e.dwellDue h g = true) (unheld : e.hold = false)
    (upstream : e.upstreamHolds h = true) : (e.dueDwells g).heads[h].displayed = .closed
      ∧ (e.dueDwells g).heads[h].stage = some .steady := by
  obtain ⟨g', -, acted⟩ := Env.dueDwells_due due
  obtain ⟨p, shown⟩ := e.change_head h .closed .steady g'
  rw [acted, Env.reachCloseWait, if_pos (by simp [unheld, upstream]), shown]
  exact ⟨rfl, rfl⟩

theorem Env.dueDwells_waits (due : e.dwellDue h g = true)
    (wait : ¬(e.hold = false ∧ e.upstreamHolds h = true)) : (e.dueDwells g).heads[h] =
      { g.heads[h] with stage := some .closeWait, waitStart := some e.now, waitTime := 0, stalled := false } := by
  obtain ⟨g', same, acted⟩ := Env.dueDwells_due due
  rw [acted, Env.reachCloseWait, if_neg (by simpa using wait), e.wait_head, same]

/-! ## Re-tests and clearances at one event (R89, R99) -/

/-- What the head's own re-test keeps of it, re-tests of several heads keep. -/
theorem Env.retestAll_keeps {P : Head → Prop} (keeps : ∀ g, P g.heads[h] → P (e.retest h g).heads[h])
    (hs : List (Fin 8)) (hg : P g.heads[h]) : P (e.retestAll hs g).heads[h] := by
  unfold Env.retestAll
  induction hs generalizing g with
  | nil => exact hg
  | cons i hs ih =>
    refine ih ?_
    by_cases hi : h = i
    · subst hi
      exact keeps g hg
    · rw [(e.retest_onlyHead i g).other h hi]
      exact hg

theorem Env.dueClearances_keeps {P : Head → Prop}
    (keeps : ∀ g, P g.heads[h] → P (e.retest h g).heads[h]) (ks : List (Fin 4)) (hg : P g.heads[h]) :
    P (e.dueClearances ks g).heads[h] := by
  unfold Env.dueClearances
  induction ks generalizing g with
  | nil => exact hg
  | cons k ks ih =>
    refine ih ?_
    simp only
    split
    · exact Env.retestAll_keeps keeps _ hg
    · exact hg

/-- A re-test leaves the head as it stands: in a hold, off the waits, or in CLOSE_WAIT with its condition
unmet. -/
def Env.Rests (e : Env) (h : Fin 8) (x : Head) : Prop :=
  e.hold = true ∨ x.stage = none ∨ x.stage = some .steady ∨ x.stage = some .merging
    ∨ (x.stage = some .closeWait ∧ e.upstreamHolds h = false)

theorem Env.retest_rests (rests : e.Rests h g.heads[h]) : e.retest h g = g := by
  unfold Env.retest
  split
  · rfl
  · rename_i unheld
    rcases rests with held | none | steady | merging | ⟨wait, unmet⟩
    · exact absurd held unheld
    · rw [none]
    · rw [steady]
    · rw [merging]
    · rw [wait]
      simp [unmet]

theorem Env.retest_keeps_rests {x : Head} (rests : e.Rests h x) (g : Gantry) (hg : g.heads[h] = x) :
    (e.retest h g).heads[h] = x := by
  rw [Env.retest_rests (by rwa [hg])]
  exact hg

theorem Env.retestAll_rests {hs : List (Fin 8)} (rests : ∀ i ∈ hs, e.Rests i g.heads[i]) :
    e.retestAll hs g = g := by
  unfold Env.retestAll
  induction hs with
  | nil => rfl
  | cons i hs ih =>
    obtain ⟨here, there⟩ := List.forall_mem_cons.1 rests
    rw [List.foldl_cons, Env.retest_rests here]
    exact ih there

/-- A head in a wait passes it at a re-test, or stands. -/
theorem Env.retest_wait {x : Head} (wait : x.stage = some .closeWait ∨ x.stage = some .openingWait)
    (g : Gantry) (hg : g.heads[h] = x ∨ g.heads[h].stage = some .steady) :
    (e.retest h g).heads[h] = x ∨ (e.retest h g).heads[h].stage = some .steady := by
  have changed : ∀ a, (e.change h a .steady g).heads[h].stage = some .steady := fun a => by
    obtain ⟨p, shown⟩ := e.change_head h a .steady g
    rw [shown]
    rfl
  rcases hg with rfl | steady
  · unfold Env.retest
    split
    · exact .inl rfl
    · rcases wait with close | opening
      · rw [close]
        simp only
        split
        · exact .inr (changed _)
        · exact .inl rfl
      · rw [opening]
        simp only
        split
        · split
          · exact .inr (changed _)
          · exact .inl rfl
        · exact .inl rfl
  · rw [Env.retest_rests (.inr (.inr (.inl steady)))]
    exact .inr steady

end

/-! ## Stalls at one event (R101, log 42) -/

/-- The stall of one head, when it is due, with its event. -/
def Env.stallOne (e : Env) (clock : Clock) (r : Gantry × EventUnit) (h : Fin 8) : Gantry × EventUnit :=
  if e.stallDue h r.1 then (r.1.stall h, r.2.post ⟨.sequenceStalled h, 0, 0, clock⟩) else r

theorem Env.stallAll_eq (e : Env) (clock : Clock) (r : Gantry × EventUnit) :
    e.stallAll clock r = allHeads.foldl (e.stallOne clock) r := rfl

section
variable {e : Env} {h : Fin 8} {clock : Clock}

theorem Env.stallDue_iff {g : Gantry} : e.stallDue h g = true ↔ e.bank.headExists h = true
    ∧ (g.heads[h].stage = some .closeWait ∨ g.heads[h].stage = some .openingWait)
    ∧ g.heads[h].stalled = false ∧ e.bank.stallMs ≤ g.heads[h].waitTime := by
  simp only [Env.stallDue, Head.waiting, Bool.and_eq_true, Bool.or_eq_true, beq_iff_eq, decide_eq_true_eq,
    Bool.not_eq_true', and_assoc]

theorem Env.stallDue_congr {g g' : Gantry} (same : g'.heads[h] = g.heads[h]) :
    e.stallDue h g' = e.stallDue h g := by
  simp only [Env.stallDue, same]

theorem Env.stallOne_other {i : Fin 8} (ne : h ≠ i) (r : Gantry × EventUnit) :
    (e.stallOne clock r i).1.heads[h] = r.1.heads[h] := by
  unfold Env.stallOne
  split
  · exact heads_set_ne _ _ _ _ ne
  · rfl

theorem Env.stallOne_idle {r : Gantry × EventUnit} (idle : e.stallDue h r.1 = false) :
    e.stallOne clock r h = r := if_neg (by simp [idle])

theorem Env.stallOne_due {r : Gantry × EventUnit} (due : e.stallDue h r.1 = true) :
    (e.stallOne clock r h).1.heads[h] = { r.1.heads[h] with stalled := true }
      ∧ (e.stallOne clock r h).2.reports (.sequenceStalled h) := by
  rw [Env.stallOne, if_pos due]
  exact ⟨heads_set_self _ _ _, EventUnit.post_reports _ _⟩

theorem Env.stallOne_reports {k : EventKind} {r : Gantry × EventUnit} (hr : r.2.reports k) (i : Fin 8) :
    (e.stallOne clock r i).2.reports k := by
  unfold Env.stallOne
  split
  · exact EventUnit.reports_post hr _
  · exact hr

theorem Env.stalls_reports {k : EventKind} (l : List (Fin 8)) {r : Gantry × EventUnit} (hr : r.2.reports k) :
    (l.foldl (e.stallOne clock) r).2.reports k := by
  induction l generalizing r with
  | nil => exact hr
  | cons i l ih => exact ih (Env.stallOne_reports hr i)

theorem Env.stalls_other {l : List (Fin 8)} (hl : h ∉ l) (r : Gantry × EventUnit) :
    (l.foldl (e.stallOne clock) r).1.heads[h] = r.1.heads[h] := by
  induction l generalizing r with
  | nil => rfl
  | cons i l ih =>
    obtain ⟨here, there⟩ := List.ne_and_not_mem_of_not_mem_cons hl
    exact (ih there _).trans (Env.stallOne_other here r)

theorem Env.stallAll_idle {r : Gantry × EventUnit} (idle : e.stallDue h r.1 = false) :
    (e.stallAll clock r).1.heads[h] = r.1.heads[h] := by
  rw [Env.stallAll_eq]
  induction allHeads generalizing r with
  | nil => rfl
  | cons i l ih =>
    have same : (e.stallOne clock r i).1.heads[h] = r.1.heads[h] := by
      by_cases hi : h = i
      · subst hi
        rw [Env.stallOne_idle idle]
      · exact Env.stallOne_other hi r
    exact (ih ((Env.stallDue_congr same).trans idle)).trans same

theorem Env.stallAll_due {r : Gantry × EventUnit} (due : e.stallDue h r.1 = true) :
    (e.stallAll clock r).1.heads[h] = { r.1.heads[h] with stalled := true }
      ∧ (e.stallAll clock r).2.reports (.sequenceStalled h) := by
  have stalls : ∀ l : List (Fin 8), l.Nodup → h ∈ l →
      ∀ r : Gantry × EventUnit, e.stallDue h r.1 = true →
      (l.foldl (e.stallOne clock) r).1.heads[h] = { r.1.heads[h] with stalled := true }
        ∧ (l.foldl (e.stallOne clock) r).2.reports (.sequenceStalled h) := by
    intro l
    induction l with
    | nil => simp
    | cons i l ih =>
      intro nodup hl r due
      obtain ⟨absent, nodup⟩ := List.nodup_cons.1 nodup
      rcases List.mem_cons.1 hl with rfl | there
      · obtain ⟨stalled, reported⟩ := Env.stallOne_due (clock := clock) due
        exact ⟨(Env.stalls_other absent _).trans stalled, Env.stalls_reports l reported⟩
      · have same := Env.stallOne_other (e := e) (clock := clock) (fun x => absent (x ▸ there) : h ≠ i) r
        rw [List.foldl_cons, ← same]
        exact ih nodup there _ ((Env.stallDue_congr same).trans due)
  exact stalls _ (by decide) (mem_allHeads h) r due

end

end Sys2Proof.Machine
end

section
/-! SUPPORT. The completions of one event together, and what every move of the sequencer keeps. -/

namespace Sys2Proof.Machine

/-! ## All completions of one event, for one head -/

/-- The gantry once the dwells and clearances of an event have completed, before its stalls. -/
def Env.moved (e : Env) (dwells : Bool) (lanes : Fin 4 → Bool) (g : Gantry) : Gantry :=
  e.dueClearances (allLanes.filter lanes) (if dwells then e.dueDwells g else g)

section
variable {e : Env} {h : Fin 8} {dwells stalls : Bool} {lanes : Fin 4 → Bool} {clock : Clock} {g : Gantry}
  {q : EventUnit}

theorem Env.completed_moved : e.completed dwells lanes stalls clock g q =
    if stalls then e.stallAll clock (e.moved dwells lanes g, q) else (e.moved dwells lanes g, q) :=
  e.completed_eq ..

theorem Env.dwellDue_off_merging (h' : g.heads[h].stage ≠ some .merging) : e.dwellDue h g = false :=
  Bool.eq_false_iff.2 fun due => h' (Env.dwellDue_iff.1 due).2.1

theorem Env.stallDue_off_waits (close : g.heads[h].stage ≠ some .closeWait)
    (opening : g.heads[h].stage ≠ some .openingWait) : e.stallDue h g = false :=
  Bool.eq_false_iff.2 fun due => (Env.stallDue_iff.1 due).2.1.elim close opening

theorem Env.completed_unstalled (idle : stalls = true → e.stallDue h (e.moved dwells lanes g) = false) :
    (e.completed dwells lanes stalls clock g q).1.heads[h] = (e.moved dwells lanes g).heads[h] := by
  rw [Env.completed_moved]
  cases stalls
  · rfl
  · exact Env.stallAll_idle (r := (e.moved dwells lanes g, q)) (idle rfl)

theorem Env.dwelt_idle (dwell : dwells = true → e.dwellDue h g = false) :
    (if dwells then e.dueDwells g else g).heads[h] = g.heads[h] := by
  cases dwells
  · rfl
  · exact Env.dueDwells_idle (dwell rfl)

/-- A head that the dwells leave at rest is moved by no clearance. -/
theorem Env.moved_rests {x : Head} (dwelt : (if dwells then e.dueDwells g else g).heads[h] = x)
    (rests : e.Rests h x) : (e.moved dwells lanes g).heads[h] = x :=
  Env.dueClearances_keeps (P := (· = x)) (Env.retest_keeps_rests rests) _ dwelt

/-- A head that merges with its dwell served leaves the stage, to CLOSED or to wait for it, and is no further
moved. -/
theorem Env.completed_merging (due : e.dwellDue h g = true) (timeout : 1 ≤ e.bank.stallMs) :
    let x := (e.completed true lanes stalls clock g q).1.heads[h]
    (e.hold = false ∧ e.upstreamHolds h = true → x.displayed = .closed ∧ x.stage = some .steady)
    ∧ (¬(e.hold = false ∧ e.upstreamHolds h = true) → x = { g.heads[h] with
        stage := some .closeWait, waitStart := some e.now, waitTime := 0, stalled := false }) := by
  refine ⟨fun ⟨unheld, upstream⟩ => ?_, fun wait => ?_⟩
  · obtain ⟨closed, steady⟩ := Env.dueDwells_closes due unheld upstream
    have moved : (e.moved true lanes g).heads[h] = (e.dueDwells g).heads[h] :=
      Env.moved_rests rfl (.inr (.inr (.inl steady)))
    have idle : e.stallDue h (e.moved true lanes g) = false :=
      Env.stallDue_off_waits (by rw [moved, steady]; nofun) (by rw [moved, steady]; nofun)
    rw [Env.completed_unstalled fun _ => idle, moved]
    exact ⟨closed, steady⟩
  · have waits := Env.dueDwells_waits due wait
    have rests : e.Rests h (e.dueDwells g).heads[h] := by
      rw [waits]
      by_cases held : e.hold = true
      · exact .inl held
      · exact .inr (.inr (.inr (.inr ⟨rfl, by simpa [held] using wait⟩)))
    have moved : (e.moved true lanes g).heads[h] = (e.dueDwells g).heads[h] := Env.moved_rests rfl rests
    have idle : e.stallDue h (e.moved true lanes g) = false := Bool.eq_false_iff.2 fun stall => by
      have late := (Env.stallDue_iff.1 stall).2.2.2
      rw [moved, waits] at late
      exact absurd late (Nat.not_le.2 timeout)
    rw [Env.completed_unstalled fun _ => idle, moved, waits]

/-- A head stands where no completion of its own is due and no re-test moves it. -/
theorem Env.completed_rests (dwell : dwells = true → e.dwellDue h g = false)
    (rests : e.Rests h g.heads[h]) (stall : stalls = true → e.stallDue h g = false) :
    (e.completed dwells lanes stalls clock g q).1.heads[h] = g.heads[h] := by
  have moved : (e.moved dwells lanes g).heads[h] = g.heads[h] := Env.moved_rests (Env.dwelt_idle dwell) rests
  rw [Env.completed_unstalled fun stalling => (Env.stallDue_congr moved).trans (stall stalling), moved]

/-- A head that still waits at the end has stalled, where its stall was due. -/
theorem Env.completed_waiting (due : e.stallDue h g = true) :
    let r := e.completed dwells lanes true clock g q
    r.1.heads[h].stage = g.heads[h].stage →
      r.1.heads[h].stalled = true ∧ r.2.reports (.sequenceStalled h) := by
  have wait := (Env.stallDue_iff.1 due).2.1
  have idle : e.dwellDue h g = false := Env.dwellDue_off_merging fun merging => by
    rw [merging] at wait
    exact wait.elim nofun nofun
  have moved : (e.moved dwells lanes g).heads[h] = g.heads[h]
      ∨ (e.moved dwells lanes g).heads[h].stage = some .steady :=
    Env.dueClearances_keeps (P := fun x => x = g.heads[h] ∨ x.stage = some .steady) (Env.retest_wait wait)
      _ (.inl (Env.dwelt_idle fun _ => idle))
  intro r still
  rcases moved with stands | steady
  · obtain ⟨stalled, reported⟩ := Env.stallAll_due (clock := clock) (r := (e.moved dwells lanes g, q))
      ((Env.stallDue_congr stands).trans due)
    have all : r = e.stallAll clock (e.moved dwells lanes g, q) := Env.completed_moved
    rw [all, stalled]
    exact ⟨rfl, reported⟩
  · have off : e.stallDue h (e.moved dwells lanes g) = false :=
      Env.stallDue_off_waits (by rw [steady]; nofun) (by rw [steady]; nofun)
    have same : r.1.heads[h] = (e.moved dwells lanes g).heads[h] := Env.completed_unstalled fun _ => off
    rw [same, steady] at still
    rw [← still] at wait
    exact wait.elim nofun nofun

end

/-! ## All completions of one event, with every head steady -/

theorem Env.clearanceDue_iff {e : Env} {k : Fin 4} {g : Gantry} : e.clearanceDue k g = true ↔
    e.bank.tidal k = true ∧ g.lanes[k].clearSince ≠ none ∧ g.lanes[k].clear = false
      ∧ e.bank.clearanceMs k ≤ g.lanes[k].clearCount := by
  simp only [Env.clearanceDue, Bool.and_eq_true, decide_eq_true_eq, Bool.not_eq_true',
    Option.isSome_iff_ne_none, and_assoc]

section
variable {e : Env} {g : Gantry}

theorem Env.clearanceDue_congr {g' : Gantry} {k : Fin 4} (same : g'.lanes[k] = g.lanes[k]) :
    e.clearanceDue k g' = e.clearanceDue k g := by
  simp only [Env.clearanceDue, same]

theorem Env.dueDwells_none (idle : ∀ h, e.dwellDue h g = false) : e.dueDwells g = g :=
  List.foldl_fixed' (fun h => if_neg (by simp [idle h])) allHeads

theorem Env.stallAll_none {clock : Clock} {r : Gantry × EventUnit} (idle : ∀ h, e.stallDue h r.1 = false) :
    e.stallAll clock r = r := by
  rw [Env.stallAll_eq]
  exact List.foldl_fixed' (fun h => Env.stallOne_idle (idle h)) allHeads

/-- With steady heads at the faces of TIDAL lanes a clearance sets the lane's flag and moves no head. -/
theorem Env.dueClearances_steady (ks : List (Fin 4))
    (steady : ∀ k, e.bank.tidal k = true → ∀ f, g.heads[e.bank.faceHead k f].stage = some .steady) :
    ∃ lanes : Vector Lane 4, e.dueClearances ks g = { g with lanes := lanes }
      ∧ ∀ k : Fin 4, lanes[k] = if k ∈ ks ∧ e.clearanceDue k g = true then { g.lanes[k] with clear := true }
          else g.lanes[k] := by
  unfold Env.dueClearances
  induction ks generalizing g with
  | nil => exact ⟨g.lanes, rfl, fun k => by simp⟩
  | cons k ks ih =>
    rw [List.foldl_cons]
    by_cases due : e.clearanceDue k g = true
    · have tidal := (Env.clearanceDue_iff.1 due).1
      have set : e.clearanceComplete k g
          = { g with lanes := g.lanes.set k { g.lanes[k] with clear := true } } := by
        refine Env.retestAll_rests fun i hi => .inr (.inr (.inl ?_))
        rcases List.mem_pair.1 hi with rfl | rfl
        · exact steady k tidal .asc
        · exact steady k tidal .desc
      rw [if_pos due, set]
      obtain ⟨lanes, done, each⟩ :=
        ih (g := { g with lanes := g.lanes.set k { g.lanes[k] with clear := true } }) steady
      refine ⟨lanes, done, fun j => ?_⟩
      rw [each j]
      by_cases hj : j = k
      · subst hj
        rw [lanes_set_get, if_pos rfl, if_neg, if_pos ⟨List.mem_cons_self, due⟩]
        rintro ⟨-, again⟩
        have := (Env.clearanceDue_iff.1 again).2.2.1
        simp at this
      · have same : (g.lanes.set k { g.lanes[k] with clear := true })[j] = g.lanes[j] := by
          rw [lanes_set_get, if_neg hj]
        rw [same, Env.clearanceDue_congr same]
        exact if_congr (by rw [List.mem_cons, or_iff_right hj]) rfl rfl
    · rw [if_neg due]
      obtain ⟨lanes, done, each⟩ := ih steady
      refine ⟨lanes, done, fun j => ?_⟩
      rw [each j]
      refine if_congr ?_ rfl rfl
      rw [List.mem_cons]
      constructor
      · rintro ⟨hj, dj⟩
        exact ⟨.inr hj, dj⟩
      · rintro ⟨rfl | hj, dj⟩
        · exact absurd dj due
        · exact ⟨hj, dj⟩

/-- With every existing head steady nothing but lane clear flags changes: a clearance that completes sets its
lane's. -/
theorem Env.completed_steady {dwells stalls : Bool} {lanes : Fin 4 → Bool} {clock : Clock} {q : EventUnit}
    (steady : ∀ h, e.bank.headExists h = true → g.heads[h].stage = some .steady)
    (faces : ∀ k, e.bank.tidal k = true → ∀ f, e.bank.headExists (e.bank.faceHead k f) = true) :
    let g' := (e.completed dwells lanes stalls clock g q).1
    g'.heads = g.heads ∧ g'.channels = g.channels ∧ g'.slew = g.slew
      ∧ ∀ k : Fin 4, g'.lanes[k] = if lanes k = true ∧ e.clearanceDue k g = true then
          { g.lanes[k] with clear := true } else g.lanes[k] := by
  have still : ∀ h, e.dwellDue h g = false ∧ e.stallDue h g = false := fun h => by
    constructor
    · refine Bool.eq_false_iff.2 fun due => ?_
      obtain ⟨present, merging, -⟩ := Env.dwellDue_iff.1 due
      rw [steady h present] at merging
      cases merging
    · refine Bool.eq_false_iff.2 fun due => ?_
      obtain ⟨present, wait, -⟩ := Env.stallDue_iff.1 due
      rw [steady h present] at wait
      exact wait.elim nofun nofun
  obtain ⟨flags, cleared, each⟩ := e.dueClearances_steady (g := g) (allLanes.filter lanes)
    fun k tidal f => steady _ (faces k tidal f)
  have moved : e.moved dwells lanes g = { g with lanes := flags } := by
    have dwelt : (if dwells then e.dueDwells g else g) = g := by
      split
      · exact Env.dueDwells_none fun h => (still h).1
      · rfl
    rw [Env.moved, dwelt, cleared]
  have done : (e.completed dwells lanes stalls clock g q).1 = { g with lanes := flags } := by
    rw [Env.completed_moved, moved]
    split
    · have idle : ∀ h, e.stallDue h { g with lanes := flags } = false := fun h =>
        (Env.stallDue_congr (g := g) rfl).trans (still h).2
      exact congrArg Prod.fst (Env.stallAll_none (r := ({ g with lanes := flags }, q)) idle)
    · rfl
  intro g'
  have same : g' = { g with lanes := flags } := done
  rw [same]
  refine ⟨rfl, rfl, rfl, fun k => (each k).trans (if_congr ?_ rfl rfl)⟩
  rw [List.mem_filter, and_iff_right (mem_allLanes k)]

end

/-! ## What completions and fallback entry keep -/

section
variable {e : Env} {Q : Gantry → Prop}

theorem Env.Walks.completed (W : e.Walks Q) (stall : ∀ h g, Q g → Q (g.stall h)) {dwells stalls : Bool}
    {lanes : Fin 4 → Bool} {clock : Clock} {g : Gantry} {q : EventUnit} (hg : Q g) :
    Q (e.completed dwells lanes stalls clock g q).1 := by
  have stalled : ∀ (l : List (Fin 8)) (r : Gantry × EventUnit), Q r.1 →
      Q (l.foldl (e.stallOne clock) r).1 := by
    intro l
    induction l with
    | nil => exact fun _ hr => hr
    | cons h l ih =>
      intro r hr
      refine ih _ ?_
      unfold Env.stallOne
      split
      · exact stall h _ hr
      · exact hr
  have dwelt : Q (if dwells then e.dueDwells g else g) := by
    split
    · exact W.dueDwells g hg
    · exact hg
  have cleared := W.dueClearances (allLanes.filter lanes) _ dwelt
  rw [Env.completed_eq]
  simp only
  split
  · exact stalled _ _ cleared
  · exact cleared

theorem Env.Walks.fallenBack (W : e.Walks Q) {g : Gantry} (hg : Q g) : Q (e.fallenBack g) := by
  unfold Env.fallenBack
  simp only [← Env.holdTargets_eq]
  refine W.retestAll _ _ ?_
  split
  · exact W.holdTargets g hg
  · exact W.takeTargets _ g hg

end

/-! ## Lamp tests and alternate flags, which the sequencer leaves (R63) -/

theorem heads_set_of {β : Type} (m : Head → β) (v : Vector Head 8) (h i : Fin 8) (x : Head)
    (same : m x = m v[h]) : m (v.set h x)[i] = m v[i] := by
  by_cases hi : i = h
  · subst hi
    rw [heads_set_self, same]
  · rw [heads_set_ne _ _ _ _ hi]

/-- No head is on a lamp test, and no alternate flag is set. -/
def Gantry.plain (g : Gantry) : Prop :=
  ∀ h : Fin 8, g.heads[h].test = none ∧ ∀ a, g.heads[h].altFlag a = false

/-- The head's lamp test and its alternate flags. -/
def Head.lampItems (hd : Head) : Option LampTest × (Aspect → Bool) := (hd.test, hd.altFlag)

theorem Gantry.plain_of {g g' : Gantry} (hg : g.plain)
    (same : ∀ h : Fin 8, g'.heads[h].lampItems = g.heads[h].lampItems) : g'.plain := by
  intro h
  obtain ⟨test, flags⟩ := Prod.ext_iff.1 (same h)
  have test : g'.heads[h].test = g.heads[h].test := test
  have flags : g'.heads[h].altFlag = g.heads[h].altFlag := flags
  rw [test, flags]
  exact hg h

theorem Env.change_lampItems (e : Env) (h : Fin 8) (a : Aspect) (st : Stage) (g : Gantry) (i : Fin 8) :
    (e.change h a st g).heads[i].lampItems = g.heads[i].lampItems := by
  by_cases hi : i = h
  · subst hi
    obtain ⟨p, shown⟩ := e.change_head i a st g
    rw [shown]
    rfl
  · rw [(e.change_onlyHead h a st g).other i hi]

theorem Env.plain_walks (e : Env) : e.Walks Gantry.plain where
  close h g hg := Gantry.plain_of hg (e.change_lampItems h _ _ g)
  merge h a st g _ _ _ hg := Gantry.plain_of hg (e.change_lampItems h a st g)
  opening h t g _ _ _ hg := Gantry.plain_of hg (e.change_lampItems h t _ g)
  stand h _ _ _ hg := Gantry.plain_of hg fun i => heads_set_of Head.lampItems _ h i _ rfl
  wait h _ _ _ hg := Gantry.plain_of hg fun i => heads_set_of Head.lampItems _ h i _ rfl
  target h _ _ hg := Gantry.plain_of hg fun i => heads_set_of Head.lampItems _ h i _ rfl
  clear _ _ _ hg := hg

theorem Gantry.plain_stall (h : Fin 8) (g : Gantry) (hg : g.plain) : (g.stall h).plain :=
  Gantry.plain_of hg fun i => heads_set_of Head.lampItems _ h i _ rfl

/-! ## Target codes, states and references of channels, which the lit set leaves (R149) -/

/-- What joining or leaving the lit set leaves of a channel. -/
def Channel.lasting (ch : Channel) : Nat × ChannelState × FailureKind × Nat :=
  (ch.target, ch.state, ch.kind, ch.ref)

theorem Channel.relight_lasting (ch : Channel) (was is restart : Bool) :
    (ch.relight was is restart).lasting = ch.lasting := by
  unfold Channel.relight
  split
  case h_3 => split <;> rfl
  all_goals rfl

/-- The channels have these target codes, with the states, kinds and references of `g₀`. -/
def Gantry.codedAs (g₀ : Gantry) (code : Fin 32 → Nat) (g : Gantry) : Prop :=
  ∀ c : Fin 32, g.channels[c].lasting = { g₀.channels[c] with target := code c }.lasting

theorem Gantry.retarget_channel (g : Gantry) (b : Bank) (code : Fin 32 → Nat) (c : Fin 32) :
    (g.retarget b code).channels[c] = { g.channels[c] with target := code c } := by
  simp [Gantry.retarget]

section
variable {g₀ g : Gantry} {code : Fin 32 → Nat}

theorem Gantry.codedAs_relight (hg : g₀.codedAs code g) (old new : Bank) (forced : Fin 8 → Bool)
    (heads : Vector Head 8) : g₀.codedAs code (g.relight old new forced heads) := by
  intro c
  obtain ⟨restart, lit⟩ := g.relight_channel old new forced heads c
  rw [lit, Channel.relight_lasting]
  exact hg c

theorem Gantry.codedAs_retarget (hg : g₀.codedAs code g) (b : Bank) (new : Fin 32 → Nat) :
    g₀.codedAs new (g.retarget b new) := by
  intro c
  obtain ⟨-, same⟩ := Prod.ext_iff.1 (hg c)
  rw [g.retarget_channel]
  exact Prod.ext rfl same

theorem Gantry.codedAs_slewTick (hg : g₀.codedAs code g) (b : Bank) : g₀.codedAs code (g.slewTick b) := by
  intro c
  rw [g.slewTick_channel]
  split
  · exact hg c
  · exact hg c

end

theorem Env.codedAs_walks (e : Env) (g₀ : Gantry) (code : Fin 32 → Nat) : e.Walks (g₀.codedAs code) where
  close _ _ hg := fun c => Gantry.codedAs_relight hg _ _ _ _ c
  merge _ _ _ _ _ _ _ hg := fun c => Gantry.codedAs_relight hg _ _ _ _ c
  opening _ _ _ _ _ _ hg := fun c => Gantry.codedAs_relight hg _ _ _ _ c
  stand _ _ _ _ hg := hg
  wait _ _ _ _ hg := hg
  target _ _ _ hg := hg
  clear _ _ _ hg := hg

end Sys2Proof.Machine
end

section
/-! SUPPORT. What a successful commit changes and what comes due at it (R63, R64, R102). -/

namespace Sys2Proof.Machine

/-! ## The node once the new bank is in force, before the timers that come due (R63, log 17) -/

/-- What the sequencer reads at a successful commit. -/
def State.commitEnv (s : State) : Env where
  bank := s.store.shadow
  mode := if s.node.mode = .unconfigured then .outOfService else s.node.mode
  hold := s.node.hold
  now := s.now
  records := s.store.shadow.references.map Neighbour.created

/-- The target codes under the new bank. -/
def State.commitCode (s : State) : Fin 32 → Nat :=
  s.store.shadow.targetCode true s.lamp.level s.lamp.derate

/-- The gantry once the existing heads have re-tested against the new tables and records. -/
def State.commitTested (s : State) : Gantry :=
  s.commitEnv.retestExisting
    (s.commitEnv.raisedClearances (s.gantry.commit s.store.active s.store.shadow))

/-- The node with the new bank in force in every block, the re-tests made and COMMIT_DONE posted. -/
def State.committed (s : State) : State :=
  { s with
    store := {
      active := s.store.shadow, shadow := s.store.shadow, validating := false, commitAge := 0
      lastResult := .ok, lastTable := 0, lastIndex := 0 }
    node := { s.node with
      tablesValid := true
      mode := if s.node.mode = .unconfigured then .outOfService else s.node.mode }
    take := { s.take with pendingPlan := s.take.pendingPlan.filter s.store.shadow.planDefined }
    gantry := s.commitTested.retarget s.store.shadow s.commitCode
    sweep := { s.sweep with
      records := s.store.shadow.references.map Neighbour.created
      capture := [] }
    line := { s.line with rxFrame := s.line.rxFrame.map fun f => { f with capturing := false } }
    events := s.events.post ⟨.commitDone, 0, 0, s.take.clock⟩ }

theorem TakeUnit.dropUndefined_eq (t : TakeUnit) (b : Bank) :
    t.dropUndefined b = { t with pendingPlan := t.pendingPlan.filter b.planDefined } := by
  obtain ⟨clock, pending, schedule, current, full⟩ := t
  cases pending with
  | none => rfl
  | some p =>
    simp only [TakeUnit.dropUndefined, Option.filter_some]
    split <;> rfl

theorem State.commitOk_eq (s : State) : s.commitOk = s.committed.dueAtCommit s.store.active := by
  have take : s.take.dropUndefined s.store.shadow = s.committed.take := TakeUnit.dropUndefined_eq ..
  have clock : (s.take.dropUndefined s.store.shadow).clock = s.take.clock := by
    rw [take]
    rfl
  unfold State.commitOk
  simp only [State.activate, take]
  rfl

/-! ## The timers that come due (R64, R102) -/

/-- A timer completes at the commit: unheld where it is due, in a hold where the commit lowers its interval. -/
def State.lowers (s : State) (was is : Nat) : Bool := !s.node.hold || decide (is < was)

theorem State.lowers_iff (s : State) (was is : Nat) :
    s.lowers was is = true ↔ s.node.hold = false ∨ is < was := by
  simp [State.lowers]

/-- Gantry and events once the sequencer's timers have completed. -/
def State.completions (s : State) : Gantry × EventUnit :=
  let old := s.store.active
  let new := s.store.shadow
  s.commitEnv.completed (s.lowers old.dwellMs new.dwellMs)
    (fun k => s.lowers (old.clearanceMs k) (new.clearanceMs k)) (s.lowers old.stallMs new.stallMs)
    s.take.clock s.committed.gantry s.committed.events

/-- The node once the sequencer's timers have completed. -/
def State.afterTimers (s : State) : State :=
  { s.committed with gantry := s.completions.1, events := s.completions.2 }

theorem State.afterTimers_eq (s : State) : (if s.committed.node.hold then s.committed.dueLowered s.store.active
    else s.committed.dueSequencer) = s.afterTimers := by
  have all : ∀ was is, s.node.hold = false → s.lowers was is = true := fun _ _ unheld =>
    (s.lowers_iff _ _).2 (.inl unheld)
  have lowered : ∀ was is, s.node.hold = true → s.lowers was is = decide (is < was) := fun _ _ held => by
    simp [State.lowers, held]
  unfold State.afterTimers State.completions
  split
  · rename_i held
    simp only [lowered _ _ held, State.dueLowered_completed]
    rfl
  · rename_i unheld
    simp only [all _ _ (Bool.eq_false_iff.2 unheld), State.dueSequencer_completed]
    rfl

/-- The watchdog's new interval has passed. -/
def State.commitExpires (s : State) : Prop :=
  s.watchdog.armed = true ∧ ∃ w ∈ s.watchdog.start, w + s.store.shadow.watchdogMs ≤ s.now

theorem State.afterTimers_watchdogDue (s : State) : s.afterTimers.watchdogDue = true ↔ s.commitExpires := by
  change (s.watchdog.armed && match s.watchdog.start with
    | none => false
    | some t => decide (t + s.store.shadow.watchdogMs ≤ s.now)) = true ↔ _
  unfold State.commitExpires
  rw [Bool.and_eq_true]
  cases s.watchdog.start <;> simp

theorem State.commitOk_after (s : State) : s.commitOk =
    (if s.afterTimers.watchdogDue then s.afterTimers.watchdogExpire else s.afterTimers).dueSlew := by
  rw [s.commitOk_eq, ← s.afterTimers_eq]
  rfl

theorem State.commitOk_quiet {s : State} (quiet : ¬s.commitExpires) : s.commitOk = s.afterTimers.dueSlew := by
  rw [s.commitOk_after, if_neg fun due => quiet (s.afterTimers_watchdogDue.1 due)]

theorem State.afterTimers_mode {s : State} {m : Mode} (mode : s.node.mode = m) (configured : m ≠ .unconfigured) :
    s.afterTimers.node.mode = m := by
  subst mode
  exact if_neg configured

theorem State.commitOk_entry {s : State} (due : s.commitExpires) (mode : s.node.mode = .inService) :
    s.commitOk = s.afterTimers.fallbackEntry.dueSlew := by
  rw [s.commitOk_after, if_pos (s.afterTimers_watchdogDue.2 due), State.watchdogExpire,
    State.afterTimers_mode mode nofun]

theorem State.commitOk_again {s : State} (due : s.commitExpires) (mode : s.node.mode = .fallback) :
    s.commitOk = ({ s.afterTimers with
      watchdog := { s.watchdog with start := some s.now, stream := false } } : State).dueSlew := by
  rw [s.commitOk_after, if_pos (s.afterTimers_watchdogDue.2 due), State.watchdogExpire,
    State.afterTimers_mode mode nofun]
  rfl

/-- The slew tick changes output codes and its timer alone. -/
theorem State.dueSlew_gantry (s : State) : s.dueSlew.gantry
    = { s.gantry with channels := s.dueSlew.gantry.channels, slew := s.dueSlew.gantry.slew } := by
  unfold State.dueSlew
  split <;> rfl

theorem State.fallbackEntry_rest (s : State) :
    s.fallbackEntry.node = { s.node with mode := .fallback, hold := false }
    ∧ s.fallbackEntry.watchdog = { s.watchdog with start := some s.now, stream := false }
    ∧ s.fallbackEntry.take = { s.take with
        pendingPlan := none, schedule := [], scheduleFull := false, currentPlan := s.store.active.fallbackPolicy }
    ∧ s.fallbackEntry.events = s.events.post ⟨.fallbackEntered, 0, 0, s.take.clock⟩ :=
  ⟨rfl, rfl, rfl, rfl⟩

/-! ## What every successful commit leaves (R63) -/

theorem State.commitOk_store (s : State) : s.commitOk.store = s.committed.store := by
  rw [s.commitOk_eq, State.dueAtCommit_store]

theorem State.commitOk_sweep (s : State) : s.commitOk.sweep = s.committed.sweep := by
  rw [s.commitOk_eq, State.dueAtCommit_sweep]

theorem State.commitOk_line (s : State) : s.commitOk.line = s.committed.line := by
  rw [s.commitOk_eq, State.dueAtCommit_line]

/-- A condition on the gantry that the sequencer, its stalls and a slew tick keep is kept from the new bank's
being in force on. -/
theorem State.commitOk_gantry {s : State} {Q : Gantry → Prop} (walks : ∀ e : Env, e.Walks Q)
    (stall : ∀ h g, Q g → Q (g.stall h)) (tick : ∀ g b, Q g → Q (g.slewTick b))
    (hs : Q s.committed.gantry) :
    Q s.commitOk.gantry := by
  have timers : Q s.afterTimers.gantry := (walks _).completed stall hs
  have expired : ∀ u : State, Q u.gantry → Q u.watchdogExpire.gantry := fun u hu => by
    unfold State.watchdogExpire
    split
    · rw [State.fallbackEntry_gantry]
      exact (walks _).fallenBack hu
    all_goals exact hu
  have slewed : ∀ u : State, Q u.gantry → Q u.dueSlew.gantry := fun u hu => by
    unfold State.dueSlew
    split
    · exact tick _ _ hu
    · exact hu
  rw [s.commitOk_after]
  refine slewed _ ?_
  split
  · exact expired _ timers
  · exact timers

theorem State.commitOk_channels (s : State) : s.gantry.codedAs s.commitCode s.commitOk.gantry := by
  refine State.commitOk_gantry (fun e => e.codedAs_walks _ _) (fun _ _ hg => hg)
    (fun _ b hg => Gantry.codedAs_slewTick hg b) ?_
  have same : s.gantry.codedAs (fun c => s.gantry.channels[c].target) s.gantry := fun c => rfl
  have relit : s.gantry.codedAs (fun c => s.gantry.channels[c].target)
      (s.commitEnv.raisedClearances (s.gantry.commit s.store.active s.store.shadow)) :=
    fun c => Gantry.codedAs_relight same _ _ _ _ c
  exact Gantry.codedAs_retarget ((s.commitEnv.codedAs_walks _ _).retestExisting _ relit) _ _

theorem Head.afterHeadsChange_lampItems (hd : Head) :
    hd.afterHeadsChange.lampItems = (none, fun _ => false) := by
  unfold Head.afterHeadsChange
  refine Prod.ext ?_ (funext fun a => by cases a <;> rfl)
  by_cases test : hd.test.isSome = true
  · rw [if_pos test]
    rfl
  · rw [if_neg test]
    exact Option.not_isSome_iff_eq_none.1 test

@[simp] theorem Gantry.slewTick_heads (g : Gantry) (b : Bank) : (g.slewTick b).heads = g.heads := by
  unfold Gantry.slewTick
  rfl

/-- The recomputation of the codes moves no head. -/
theorem State.committed_heads (s : State) : s.committed.gantry.heads = s.commitTested.heads := by
  unfold State.committed Gantry.retarget
  rfl

theorem Gantry.plain_relight {g : Gantry} {old new : Bank} {forced : Fin 8 → Bool} {heads : Vector Head 8}
    (plain : ∀ h : Fin 8, heads[h].lampItems = (none, fun _ => false)) :
    (g.relight old new forced heads).plain := by
  intro h
  obtain ⟨p, shown, -⟩ := g.relight_head old new forced heads h
  have items : (g.relight old new forced heads).heads[h].lampItems = heads[h].lampItems := by
    rw [shown]
    rfl
  obtain ⟨test, flags⟩ := Prod.ext_iff.1 (items.trans (plain h))
  exact ⟨test, fun a => congrFun flags a⟩

/-- A change of the HEADS table drops lamp tests and alternate flags. -/
theorem State.commitOk_plain {s : State} (heads : s.store.active.heads ≠ s.store.shadow.heads) :
    s.commitOk.gantry.plain := by
  have tick : ∀ (g : Gantry) (b : Bank), g.plain → (g.slewTick b).plain := fun g b hg h => by
    rw [g.slewTick_heads]
    exact hg h
  refine State.commitOk_gantry Env.plain_walks Gantry.plain_stall tick ?_
  have dropped : (s.gantry.commit s.store.active s.store.shadow).plain := by
    rw [Gantry.commit, if_neg heads]
    exact Gantry.plain_relight fun h => by
      rw [Fin.getElem_fin, Vector.getElem_ofFn]
      exact Head.afterHeadsChange_lampItems _
  have tested : s.commitTested.plain := s.commitEnv.plain_walks.retestExisting _ dropped
  intro h
  rw [s.committed_heads]
  exact tested h

theorem Env.completed_reports {e : Env} {dwells stalls : Bool} {lanes : Fin 4 → Bool} {clock : Clock} {g : Gantry}
    {q : EventUnit} {k : EventKind} (hq : q.reports k) :
    (e.completed dwells lanes stalls clock g q).2.reports k := by
  rw [Env.completed_moved]
  split
  · exact Env.stalls_reports _ hq
  · exact hq

theorem State.commitOk_reports (s : State) : s.commitOk.events.reports .commitDone := by
  have timers : s.afterTimers.events.reports .commitDone :=
    Env.completed_reports (EventUnit.post_reports _ ⟨.commitDone, 0, 0, s.take.clock⟩)
  rw [s.commitOk_after, State.dueSlew_events]
  split
  · unfold State.watchdogExpire
    split
    · exact EventUnit.reports_post timers _
    all_goals exact timers
  · exact timers

end Sys2Proof.Machine
end

section
/-! SUPPORT. A commit that leaves the HEADS table (R63, R89, R94, R101, R102). -/

namespace Sys2Proof.Machine

/-! ## A commit that leaves the HEADS table (R63) -/

theorem Bank.litChannels_of_heads {a b : Bank} (same : a.heads = b.heads) (heads : Vector Head 8) :
    a.litChannels heads = b.litChannels heads := by
  have row : ∀ h : Fin 8, a.row .heads h = b.row .heads h := fun h => by
    simp only [Bank.row, Bank.rows, same]
  have present : a.headExists = b.headExists := funext fun h => by simp only [Bank.headExists, row]
  have pattern : a.pattern = b.pattern := funext fun h => by
    funext x p
    simp only [Bank.pattern, row]
  unfold Bank.litChannels Bank.shownPattern
  rw [present, pattern]

theorem slewAfter_ramps {lit : List (Fin 32)} {channels : Vector Channel 32} {c : Fin 32} (hc : c ∈ lit)
    (ramps : channels[c].output ≠ channels[c].target) (slew : Option Nat) :
    slewAfter lit channels slew = some (slew.getD 0) :=
  if_pos (List.any_eq_true.2 ⟨c, hc, by simpa using ramps⟩)

theorem slewAfter_idle {lit : List (Fin 32)} {channels : Vector Channel 32}
    (idle : ∀ c ∈ lit, channels[c].output = channels[c].target) (slew : Option Nat) :
    slewAfter lit channels slew = none :=
  if_neg fun ramps => by
    obtain ⟨c, hc, ramps⟩ := List.any_eq_true.1 ramps
    exact bne_iff_ne.1 ramps (idle c hc)

/-- The slew timer as the commit's change of banks leaves it. -/
def State.commitSlew (s : State) : Option Nat :=
  slewAfter (s.store.shadow.litChannels s.gantry.heads) s.gantry.channels s.gantry.slew

/-- No head shows another pattern, so the lit set stands and the slew timer alone is looked at. -/
theorem State.commit_sameHeads {s : State} (same : s.store.active.heads = s.store.shadow.heads) :
    s.gantry.commit s.store.active s.store.shadow = { s.gantry with slew := s.commitSlew } := by
  have heads : (s.gantry.commit s.store.active s.store.shadow).heads = s.gantry.heads :=
    Vector.ext fun i hi => by
      rw [Gantry.commit, if_pos same]
      exact s.gantry.relight_other _ _ _ _ ⟨i, hi⟩ rfl rfl
  have channels : (s.gantry.commit s.store.active s.store.shadow).channels = s.gantry.channels :=
    Vector.ext fun i hi => by
      rw [Gantry.commit, if_pos same]
      obtain ⟨-, -, -, stays, unlit⟩ := (s.gantry.relit_relight s.store.active s.store.shadow
        (fun _ => false) s.gantry.heads).1 ⟨i, hi⟩
      rw [Bank.litChannels_of_heads same] at stays unlit
      by_cases lit : (⟨i, hi⟩ : Fin 32) ∈ s.store.shadow.litChannels s.gantry.heads
      · exact stays lit lit fun ⟨_, moved, _⟩ => moved.elim nofun (· rfl)
      · exact unlit lit lit
  have slew : (s.gantry.commit s.store.active s.store.shadow).slew = s.commitSlew := by
    rw [State.commitSlew, ← channels, Gantry.commit, if_pos same]
    rfl
  calc s.gantry.commit s.store.active s.store.shadow
      = ⟨(s.gantry.commit s.store.active s.store.shadow).heads,
          (s.gantry.commit s.store.active s.store.shadow).lanes,
          (s.gantry.commit s.store.active s.store.shadow).channels,
          (s.gantry.commit s.store.active s.store.shadow).slew⟩ := rfl
    _ = _ := by
      rw [heads, channels, slew]
      rfl

/-- A lane's flag falls where its raised interval lies above the count (R89). -/
def State.raisedLane (s : State) (k : Fin 4) : Lane :=
  if s.store.shadow.tidal k = true ∧ s.gantry.lanes[k].clear = true
      ∧ s.gantry.lanes[k].clearCount < s.store.shadow.clearanceMs k then
    { s.gantry.lanes[k] with clear := false }
  else s.gantry.lanes[k]

theorem State.commitTested_sameHeads {s : State} (same : s.store.active.heads = s.store.shadow.heads) :
    s.commitTested = s.commitEnv.retestAll (allHeads.filter s.store.shadow.headExists)
      { s.gantry with lanes := Vector.ofFn s.raisedLane, slew := s.commitSlew } := by
  unfold State.commitTested Env.retestExisting Env.raisedClearances
  rw [State.commit_sameHeads same]
  simp only [Bool.and_eq_true, decide_eq_true_eq, and_assoc]
  rfl

section
variable {s : State} (same : s.store.active.heads = s.store.shadow.heads) {h : Fin 8}
include same

/-- What the head's re-test keeps of it holds once the new bank is in force. -/
theorem State.committed_keeps {P : Head → Prop}
    (keeps : ∀ g : Gantry, P g.heads[h] → P (s.commitEnv.retest h g).heads[h]) (hs : P s.gantry.heads[h]) :
    P s.committed.gantry.heads[h] := by
  rw [s.committed_heads, State.commitTested_sameHeads same]
  exact Env.retestAll_keeps keeps _ hs

theorem State.committed_rests (rests : s.commitEnv.Rests h s.gantry.heads[h]) :
    s.committed.gantry.heads[h] = s.gantry.heads[h] :=
  State.committed_keeps same (P := (· = s.gantry.heads[h])) (Env.retest_keeps_rests rests) rfl

end

/-! ## With no watchdog due -/

section
variable {s : State} (quiet : ¬s.commitExpires) (same : s.store.active.heads = s.store.shadow.heads) {h : Fin 8}
include quiet

theorem State.quiet_heads : s.commitOk.gantry.heads = s.completions.1.heads := by
  rw [State.commitOk_quiet quiet, State.dueSlew_gantry]
  rfl

theorem State.quiet_lanes : s.commitOk.gantry.lanes = s.completions.1.lanes := by
  rw [State.commitOk_quiet quiet, State.dueSlew_gantry]
  rfl

theorem State.quiet_events : s.commitOk.events = s.completions.2 := by
  rw [State.commitOk_quiet quiet, State.dueSlew_events]
  rfl

omit quiet in
theorem State.commitOk_upstreamHolds (h : Fin 8) :
    s.commitOk.env.upstreamHolds h = s.commitEnv.upstreamHolds h := by
  have bank : s.commitOk.env.bank = s.commitEnv.bank := congrArg TableStore.active s.commitOk_store
  have records : s.commitOk.env.records = s.commitEnv.records := congrArg SweepUnit.records s.commitOk_sweep
  unfold Env.upstreamHolds
  rw [bank, records]

include same

/-- A merge dwell that the commit completes (R94, R107). -/
theorem State.commit_dwell (timeout : 1 ≤ s.store.shadow.stallMs) (present : s.store.shadow.headExists h = true)
    (merging : s.gantry.heads[h].stage = some .merging)
    (completes : s.node.hold = false ∨ s.store.shadow.dwellMs < s.store.active.dwellMs)
    (served : s.store.shadow.dwellMs ≤ s.gantry.heads[h].mergeServed) :
    let t := s.commitOk
    (s.node.hold = false ∧ t.env.upstreamHolds h = true →
      t.gantry.heads[h].displayed = .closed ∧ t.gantry.heads[h].stage = some .steady)
    ∧ (¬(s.node.hold = false ∧ t.env.upstreamHolds h = true) →
      t.gantry.heads[h] = { s.gantry.heads[h] with
        stage := some .closeWait, waitStart := some s.now, waitTime := 0, stalled := false }) := by
  have stands := State.committed_rests same (h := h) (.inr (.inr (.inr (.inl merging))))
  have due : s.commitEnv.dwellDue h s.committed.gantry = true := by
    rw [Env.dwellDue_iff, stands]
    exact ⟨present, merging, served⟩
  intro t
  rw [State.quiet_heads quiet, State.commitOk_upstreamHolds h, State.completions,
    (s.lowers_iff _ _).2 completes, ← stands]
  exact Env.completed_merging due timeout

/-- A head that still waits after the commit has stalled where the commit completes its stall (R101). -/
theorem State.commit_stall (present : s.store.shadow.headExists h = true)
    (wait : s.gantry.heads[h].stage = some .closeWait ∨ s.gantry.heads[h].stage = some .openingWait)
    (unstalled : s.gantry.heads[h].stalled = false)
    (completes : s.node.hold = false ∨ s.store.shadow.stallMs < s.store.active.stallMs)
    (late : s.store.shadow.stallMs ≤ s.gantry.heads[h].waitTime)
    (still : s.commitOk.gantry.heads[h].stage = s.gantry.heads[h].stage) :
    s.commitOk.gantry.heads[h].stalled = true ∧ s.commitOk.events.reports (.sequenceStalled h) := by
  rw [State.quiet_heads quiet] at still ⊢
  rw [State.quiet_events quiet]
  have tested : s.committed.gantry.heads[h] = s.gantry.heads[h]
      ∨ s.committed.gantry.heads[h].stage = some .steady :=
    State.committed_keeps same (P := fun x => x = s.gantry.heads[h] ∨ x.stage = some .steady)
      (Env.retest_wait wait) (.inl rfl)
  rcases tested with stands | steady
  · have due : s.commitEnv.stallDue h s.committed.gantry = true := by
      rw [Env.stallDue_iff, stands]
      exact ⟨present, wait, unstalled, late⟩
    rw [State.completions, (s.lowers_iff _ _).2 completes] at still ⊢
    exact Env.completed_waiting due (by rw [stands]; exact still)
  · have stands : s.completions.1.heads[h] = s.committed.gantry.heads[h] :=
      Env.completed_rests (fun _ => Env.dwellDue_off_merging (by rw [steady]; nofun))
        (.inr (.inr (.inl steady)))
        (fun _ => Env.stallDue_off_waits (by rw [steady]; nofun) (by rw [steady]; nofun))
    rw [stands, steady] at still
    rw [← still] at wait
    exact wait.elim nofun nofun

/-- In a hold a head stands whose own interval the commit does not lower (R102). -/
theorem State.commit_held (held : s.node.hold = true)
    (own : (s.gantry.heads[h].stage = some .merging ∧ s.store.active.dwellMs ≤ s.store.shadow.dwellMs)
      ∨ ((s.gantry.heads[h].stage = some .closeWait ∨ s.gantry.heads[h].stage = some .openingWait)
        ∧ s.store.active.stallMs ≤ s.store.shadow.stallMs)) :
    s.commitOk.gantry.heads[h] = s.gantry.heads[h] := by
  have stands := State.committed_rests same (h := h) (.inl held)
  have kept : ∀ was is, was ≤ is → ¬s.lowers was is = true := fun was is le lowers =>
    ((s.lowers_iff was is).1 lowers).elim (by rw [held]; nofun) (by omega)
  rw [State.quiet_heads quiet, ← stands]
  refine Env.completed_rests (fun dwells => ?_) (.inl held) (fun stalls => ?_)
  · rcases own with ⟨-, le⟩ | ⟨wait, -⟩
    · exact absurd dwells (kept _ _ le)
    · refine Env.dwellDue_off_merging ?_
      rw [stands]
      rcases wait with wait | wait <;> rw [wait] <;> nofun
  · rcases own with ⟨merging, -⟩ | ⟨-, le⟩
    · exact Env.stallDue_off_waits (by rw [stands, merging]; nofun) (by rw [stands, merging]; nofun)
    · exact absurd stalls (kept _ _ le)

end

end Sys2Proof.Machine
end

section
/-! SUPPORT. A commit with every existing head steady (R64, R89, R142). -/

namespace Sys2Proof.Machine

/-! ## With every existing head steady (R64, R89, R142) -/

theorem Channel.slewMove_output (x : Channel) (step : Nat) : ((x.slewMove step).output : Int) =
    if (x.target : Int) - x.output > step then (x.output : Int) + step
    else if (x.output : Int) - x.target > step then (x.output : Int) - step
    else x.target := by
  rw [Channel.slewMove_eq]
  simp only
  split
  · exact Int.natCast_add ..
  · split
    · exact Int.ofNat_sub (by omega)
    · rfl

theorem State.slewDue_iff (s : State) :
    s.slewDue = true ↔ ∃ n ∈ s.gantry.slew, s.store.active.slewTickMs ≤ n := by
  unfold State.slewDue
  cases s.gantry.slew <;> simp

theorem State.slewTick_gantry (s : State) : s.slewTick.gantry = s.gantry.slewTick s.store.active := by
  unfold State.slewTick
  rfl

theorem State.committed_gantry (s : State) :
    s.committed.gantry = s.commitTested.retarget s.store.shadow s.commitCode := by
  unfold State.committed
  rfl

theorem Gantry.retarget_lanes (g : Gantry) (b : Bank) (code : Fin 32 → Nat) :
    (g.retarget b code).lanes = g.lanes := by
  unfold Gantry.retarget
  rfl

theorem Gantry.retarget_slew (g : Gantry) (b : Bank) (code : Fin 32 → Nat) :
    (g.retarget b code).slew = slewAfter (b.litChannels g.heads) (g.retarget b code).channels g.slew := by
  unfold Gantry.retarget
  rfl

theorem State.afterTimers_gantry (s : State) : s.afterTimers.gantry = s.completions.1 := by
  unfold State.afterTimers
  rfl

/-- A TIDAL lane is not clear while its count lies below the interval. -/
theorem State.raisedLane_low {s : State} {k : Fin 4} (tidal : s.store.shadow.tidal k = true)
    (low : s.gantry.lanes[k].clearCount < s.store.shadow.clearanceMs k) :
    s.raisedLane k = { s.gantry.lanes[k] with clear := false } := by
  unfold State.raisedLane
  cases clear : s.gantry.lanes[k].clear
  · rw [if_neg (fun raised => nomatch raised.2.1), ← clear]
  · rw [if_pos ⟨tidal, rfl, low⟩]

theorem State.raisedLane_stands {s : State} {k : Fin 4}
    (stands : ¬(s.store.shadow.tidal k = true ∧ s.gantry.lanes[k].clearCount < s.store.shadow.clearanceMs k)) :
    s.raisedLane k = s.gantry.lanes[k] :=
  if_neg fun ⟨tidal, _, low⟩ => stands ⟨tidal, low⟩

section
variable {s : State}

/-- The lanes' present faces have existing heads, as the checks that passed say (R15). -/
theorem State.faces_of_commits (passes : s.commitFailure = none) {k : Fin 4}
    (tidal : s.store.shadow.tidal k = true) (f : Face) :
    s.store.shadow.headExists (s.store.shadow.faceHead k f) = true :=
  ((Bank.checkLaneHeads_none _ _ _ (State.laneHeads_of_commits passes)).1 (k, f)
    ((s.store.shadow.mem_faces k f).2 (Bank.facePresent_tidal tidal f))).1

variable (same : s.store.active.heads = s.store.shadow.heads)
  (steady : ∀ h : Fin 8, s.store.shadow.headExists h = true → s.gantry.heads[h].stage = some .steady)
include same steady

theorem State.steady_tested : s.commitTested =
    { s.gantry with lanes := Vector.ofFn s.raisedLane, slew := s.commitSlew } := by
  rw [State.commitTested_sameHeads same]
  exact Env.retestAll_rests fun h hh => .inr (.inr (.inl (steady h (List.mem_filter.1 hh).2)))

theorem State.steady_heads : s.committed.gantry.heads = s.gantry.heads := by
  rw [s.committed_heads, State.steady_tested same steady]

theorem State.steady_lane (k : Fin 4) : s.committed.gantry.lanes[k] = s.raisedLane k := by
  rw [s.committed_gantry, Gantry.retarget_lanes, State.steady_tested same steady]
  simp only [Fin.getElem_fin, Vector.getElem_ofFn]

theorem State.steady_channels (c : Fin 32) : s.committed.gantry.channels[c]
    = { s.gantry.channels[c] with target := s.commitCode c } := by
  rw [s.committed_gantry, Gantry.retarget_channel, State.steady_tested same steady]

theorem State.steady_slew : s.committed.gantry.slew = slewAfter (s.store.shadow.litChannels s.gantry.heads)
    s.committed.gantry.channels s.commitSlew := by
  rw [s.committed_gantry, Gantry.retarget_slew, ← s.committed_gantry, State.steady_tested same steady]

/-- The completions move no head, and leave channels and slew timer; a clearance that they complete sets its
lane's flag. -/
theorem State.steady_completions (passes : s.commitFailure = none) :
    s.completions.1.heads = s.committed.gantry.heads
    ∧ s.completions.1.channels = s.committed.gantry.channels
    ∧ s.completions.1.slew = s.committed.gantry.slew
    ∧ ∀ k : Fin 4, s.completions.1.lanes[k] =
        if s.lowers (s.store.active.clearanceMs k) (s.store.shadow.clearanceMs k) = true
          ∧ s.commitEnv.clearanceDue k s.committed.gantry = true then
        { s.committed.gantry.lanes[k] with clear := true } else s.committed.gantry.lanes[k] := by
  refine Env.completed_steady (fun h present => ?_) fun k tidal f => State.faces_of_commits passes tidal f
  rw [State.steady_heads same steady]
  exact steady h present

/-- The clear flag of a lane whose clearance runs: set where the new interval has passed and the commit
completes it, or where it was set before. -/
theorem State.steady_clear (quiet : ¬s.commitExpires) (passes : s.commitFailure = none) {k : Fin 4}
    (running : s.gantry.lanes[k].clearSince ≠ none) :
    s.commitOk.gantry.lanes[k] = if s.store.shadow.tidal k then
      { s.gantry.lanes[k] with
        clear := decide (s.store.shadow.clearanceMs k ≤ s.gantry.lanes[k].clearCount
          ∧ (s.gantry.lanes[k].clear = true
            ∨ (s.node.hold = false ∨ s.store.shadow.clearanceMs k < s.store.active.clearanceMs k))) }
      else s.gantry.lanes[k] := by
  obtain ⟨-, -, -, each⟩ := State.steady_completions same steady passes
  rw [State.quiet_lanes quiet, each k]
  simp only [Env.clearanceDue_iff, State.steady_lane same steady, State.lowers_iff]
  by_cases tidal : s.store.shadow.tidal k = true
  · by_cases low : s.gantry.lanes[k].clearCount < s.store.shadow.clearanceMs k
    · rw [if_pos tidal, State.raisedLane_low tidal low,
        if_neg fun ⟨_, _, _, _, reached⟩ => Nat.not_le.2 low reached,
        decide_eq_false fun ⟨reached, _⟩ => Nat.not_le.2 low reached]
    · rw [if_pos tidal, State.raisedLane_stands fun ⟨_, low'⟩ => low low']
      split
      · rename_i due
        obtain ⟨completes, -, -, -, reached⟩ := due
        rw [decide_eq_true ⟨reached, .inr completes⟩]
      · rename_i undue
        have kept : decide (s.store.shadow.clearanceMs k ≤ s.gantry.lanes[k].clearCount
            ∧ (s.gantry.lanes[k].clear = true ∨ (s.node.hold = false
              ∨ s.store.shadow.clearanceMs k < s.store.active.clearanceMs k))) = s.gantry.lanes[k].clear := by
          cases clear : s.gantry.lanes[k].clear
          · exact decide_eq_false fun ⟨reached, completes⟩ =>
              undue ⟨completes.resolve_left nofun, tidal, running, clear, reached⟩
          · exact decide_eq_true ⟨Nat.not_lt.1 low, .inl rfl⟩
        rw [kept]
  · rw [if_neg tidal, State.raisedLane_stands fun ⟨tidal', _⟩ => tidal tidal',
      if_neg fun ⟨_, tidal', _⟩ => tidal tidal']

/-- The slew timer is due where it ran up to the new tick and a lit channel ramps to its new code. -/
theorem State.steady_slewDue (passes : s.commitFailure = none) (tick : 1 ≤ s.store.shadow.slewTickMs)
    (ran : s.gantry.slew ≠ none → ∃ c : Fin 32, c ∈ s.store.shadow.litChannels s.gantry.heads
      ∧ s.gantry.channels[c].output ≠ s.gantry.channels[c].target) :
    s.afterTimers.slewDue = true ↔
      (∃ c ∈ s.store.shadow.litChannels s.gantry.heads, s.gantry.channels[c].output ≠ s.commitCode c)
      ∧ ∃ n ∈ s.gantry.slew, s.store.shadow.slewTickMs ≤ n := by
  obtain ⟨-, -, timer, -⟩ := State.steady_completions same steady passes
  have slew : s.afterTimers.gantry.slew = slewAfter (s.store.shadow.litChannels s.gantry.heads)
      s.committed.gantry.channels s.commitSlew := by
    rw [s.afterTimers_gantry, timer, State.steady_slew same steady]
  have count : s.commitSlew.getD 0 = s.gantry.slew.getD 0 := by
    cases timer : s.gantry.slew with
    | none =>
      rw [State.commitSlew, timer, slewAfter]
      split <;> rfl
    | some n =>
      obtain ⟨c, lit, ramps⟩ := ran (by rw [timer]; nofun)
      rw [State.commitSlew, slewAfter_ramps lit ramps, timer]
      rfl
  have reached : (∃ n ∈ s.gantry.slew, s.store.shadow.slewTickMs ≤ n)
      ↔ s.store.shadow.slewTickMs ≤ s.gantry.slew.getD 0 := by
    cases s.gantry.slew with
    | none => exact iff_of_false (fun ⟨_, absent, _⟩ => nomatch absent) (Nat.not_le.2 tick)
    | some n => simp
  have active : s.afterTimers.store.active = s.store.shadow := rfl
  rw [State.slewDue_iff, slew, reached, active]
  by_cases ramps : ∃ c ∈ s.store.shadow.litChannels s.gantry.heads,
      s.gantry.channels[c].output ≠ s.commitCode c
  · obtain ⟨c, lit, ramp⟩ := ramps
    rw [slewAfter_ramps lit (by rw [State.steady_channels same steady]; exact ramp), count]
    simp only [Option.mem_some, exists_eq_left', iff_and_self]
    exact fun _ => ⟨c, lit, ramp⟩
  · rw [slewAfter_idle fun c lit => by
      rw [State.steady_channels same steady]
      by_contra ramp
      exact ramps ⟨c, lit, ramp⟩]
    exact ⟨nofun, fun due => absurd due.1 ramps⟩

/-- The output of a channel: a lit one takes the step of a slew tick that the commit brings due. -/
theorem State.steady_output (quiet : ¬s.commitExpires) (passes : s.commitFailure = none)
    (tick : 1 ≤ s.store.shadow.slewTickMs)
    (ran : s.gantry.slew ≠ none → ∃ c : Fin 32, c ∈ s.store.shadow.litChannels s.gantry.heads
      ∧ s.gantry.channels[c].output ≠ s.gantry.channels[c].target) (c : Fin 32) :
    let x : Int := s.gantry.channels[c].output
    let y : Int := s.commitCode c
    (s.commitOk.gantry.channels[c].output : Int) =
      if c ∈ s.store.shadow.litChannels s.gantry.heads
          ∧ ∃ n ∈ s.gantry.slew, s.store.shadow.slewTickMs ≤ n then
        (if y - x > s.store.shadow.slewStep then x + s.store.shadow.slewStep
          else if x - y > s.store.shadow.slewStep then x - s.store.shadow.slewStep else y)
      else x := by
  obtain ⟨heads, channels, -⟩ := State.steady_completions same steady passes
  have due := State.steady_slewDue same steady passes tick ran
  have channels : s.afterTimers.gantry.channels[c] = { s.gantry.channels[c] with target := s.commitCode c } := by
    rw [s.afterTimers_gantry, channels, State.steady_channels same steady]
  have heads : s.afterTimers.gantry.heads = s.gantry.heads := by
    rw [s.afterTimers_gantry, heads, State.steady_heads same steady]
  intro x y
  rw [State.commitOk_quiet quiet, State.dueSlew]
  by_cases ticks : s.afterTimers.slewDue = true
  · obtain ⟨-, reached⟩ := due.1 ticks
    rw [if_pos ticks]
    simp only [reached, and_true]
    rw [s.afterTimers.slewTick_gantry, Gantry.slewTick_channel, heads]
    have active : s.afterTimers.store.active = s.store.shadow := rfl
    rw [active]
    split
    · rw [Channel.slewMove_output, channels]
    · rw [channels]
  · rw [if_neg ticks, channels]
    split
    · rename_i lit
      obtain ⟨lit, reached⟩ := lit
      have there : s.gantry.channels[c].output = s.commitCode c := by
        by_contra ramps
        exact ticks (due.2 ⟨⟨c, lit, ramps⟩, reached⟩)
      have arrived : y = x := by
        simp only [x, y, there]
      rw [arrived, if_neg (by omega), if_neg (by omega)]
    · rfl

end

end Sys2Proof.Machine
end

section
/-! SUPPORT. The completion of a commit (R61, R63, R65). -/

namespace Sys2Proof.Machine

/-! ## The completion of a commit (R61, R63, R65) -/

theorem exec_commitCompletion {s : State} (works : s.works = true) (validating : s.store.validating = true) :
    exec .commitCompletion s = .next s.commitComplete := by
  rw [exec_commitCompletion_eq, execCommitCompletion, live_works works, if_pos validating]

theorem State.commitComplete_fails {s : State} {f : CommitFailure} (fails : s.commitFailure = some f) :
    s.commitComplete = s.commitFailed f := by
  unfold State.commitComplete
  rw [fails]

theorem State.commitComplete_passes {s : State} (passes : s.commitFailure = none) :
    s.commitComplete = s.commitOk := by
  unfold State.commitComplete
  rw [passes]

section
variable {s : State}

theorem State.commitOk_tablesValid (s : State) : s.commitOk.node.tablesValid = true := by
  rw [s.commitOk_after, State.dueSlew_node]
  split
  · unfold State.watchdogExpire
    split <;> rfl
  · rfl

/-- With no watchdog due the commit itself touches node, Take Unit and watchdog alone. -/
theorem State.commitOk_quiet_rest (quiet : ¬s.commitExpires) :
    s.commitOk.watchdog = s.watchdog
    ∧ s.commitOk.take = { s.take with pendingPlan := s.take.pendingPlan.filter s.store.shadow.planDefined }
    ∧ s.commitOk.node = { s.node with
        tablesValid := true
        mode := if s.node.mode = .unconfigured then .outOfService else s.node.mode } := by
  rw [State.commitOk_quiet quiet, State.dueSlew_watchdog, State.dueSlew_take, State.dueSlew_node]
  exact ⟨rfl, rfl, rfl⟩

/-- A watchdog that runs is armed, so starting it again writes its start and the stream mark alone (R132). -/
theorem Watchdog.restart_eq {w : Watchdog} (armed : w.armed = true) (now : Nat) :
    { w with start := some now, stream := false } = (⟨true, some now, false⟩ : Watchdog) := by
  rw [armed]

/-- A watchdog due in IN_SERVICE makes it fallback entry (R126, R128). -/
theorem State.commitOk_entry_rest (due : s.commitExpires) (mode : s.node.mode = .inService) :
    s.commitOk.node = { s.node with tablesValid := true, mode := .fallback, hold := false }
    ∧ s.commitOk.watchdog = { armed := true, start := some s.now, stream := false }
    ∧ s.commitOk.take = { s.take with
        pendingPlan := none, schedule := [], scheduleFull := false
        currentPlan := s.store.shadow.fallbackPolicy } := by
  obtain ⟨node, watchdog, take, -⟩ := s.afterTimers.fallbackEntry_rest
  rw [State.commitOk_entry due mode, State.dueSlew_watchdog, State.dueSlew_take, State.dueSlew_node, node,
    watchdog, take]
  exact ⟨rfl, Watchdog.restart_eq due.1 s.now, rfl⟩

/-- A configured node's mode stands at a commit. -/
theorem State.committed_node (configured : s.node.mode ≠ .unconfigured) :
    s.committed.node = { s.node with tablesValid := true } := by
  unfold State.committed
  simp only [if_neg configured]

/-- A watchdog due in FALLBACK starts again (R132). -/
theorem State.commitOk_again_rest (due : s.commitExpires) (mode : s.node.mode = .fallback) :
    s.commitOk.node = { s.node with tablesValid := true }
    ∧ s.commitOk.watchdog = { armed := true, start := some s.now, stream := false }
    ∧ s.commitOk.take
        = { s.take with pendingPlan := s.take.pendingPlan.filter s.store.shadow.planDefined } := by
  rw [State.commitOk_again due mode, State.dueSlew_watchdog, State.dueSlew_take, State.dueSlew_node]
  exact ⟨State.committed_node (by rw [mode]; nofun), Watchdog.restart_eq due.1 s.now, rfl⟩

/-- Without fallback entry the sequencer's timers end the event at gantry and queue, but for a slew tick. -/
theorem State.commitOk_timers (noEntry : ¬s.commitExpires ∨ s.node.mode = .fallback) :
    s.commitOk.gantry = { s.completions.1 with
        channels := s.commitOk.gantry.channels, slew := s.commitOk.gantry.slew }
    ∧ s.commitOk.events = s.completions.2 := by
  by_cases due : s.commitExpires
  · rw [State.commitOk_again due (noEntry.resolve_left (not_not_intro due)), State.dueSlew_events]
    exact ⟨State.dueSlew_gantry _, rfl⟩
  · rw [State.commitOk_quiet due, State.dueSlew_events]
    exact ⟨State.dueSlew_gantry _, rfl⟩

/-- With it the heads go on to the policy's targets. -/
theorem State.commitOk_falls (due : s.commitExpires) (mode : s.node.mode = .inService) :
    s.commitOk.gantry = { ({ s.commitEnv with mode := .fallback, hold := false } : Env).fallenBack
          s.completions.1 with
        channels := s.commitOk.gantry.channels, slew := s.commitOk.gantry.slew }
    ∧ s.commitOk.events = s.completions.2.post ⟨.fallbackEntered, 0, 0, s.take.clock⟩ := by
  obtain ⟨-, -, -, events⟩ := s.afterTimers.fallbackEntry_rest
  have entered : s.afterTimers.fallbackEntry.gantry
      = ({ s.commitEnv with mode := .fallback, hold := false } : Env).fallenBack s.completions.1 :=
    s.afterTimers.fallbackEntry_gantry
  rw [State.commitOk_entry due mode, State.dueSlew_events, events, ← entered]
  exact ⟨State.dueSlew_gantry _, rfl⟩

theorem Gantry.retarget_eq (g : Gantry) (b : Bank) (code : Fin 32 → Nat) : g.retarget b code
    = { g with channels := (g.retarget b code).channels, slew := (g.retarget b code).slew } := rfl

/-- The recomputation of the codes leaves heads and lanes as the re-tests made them. -/
theorem State.committed_recoded (s : State) : s.committed.gantry = { s.commitTested with
    channels := s.committed.gantry.channels, slew := s.committed.gantry.slew } := by
  rw [s.committed_gantry]
  exact Gantry.retarget_eq ..

theorem State.committed_channel (s : State) (c : Fin 32) :
    s.committed.gantry.channels[c] = { s.commitTested.channels[c] with target := s.commitCode c } := by
  rw [s.committed_gantry, Gantry.retarget_channel]

/-- A successful commit sets the target codes; channel states, kinds and references outlast it. -/
theorem State.commitOk_channel (s : State) (c : Fin 32) :
    s.commitOk.gantry.channels[c].target = s.commitCode c
    ∧ s.commitOk.gantry.channels[c].state = s.gantry.channels[c].state
    ∧ s.commitOk.gantry.channels[c].kind = s.gantry.channels[c].kind
    ∧ s.commitOk.gantry.channels[c].ref = s.gantry.channels[c].ref := by
  simpa only [Channel.lasting, Prod.mk.injEq] using s.commitOk_channels c

theorem State.commitOk_records (s : State) :
    s.commitOk.sweep.records = s.store.shadow.references.map Neighbour.created :=
  congrArg SweepUnit.records s.commitOk_sweep

theorem State.commitOk_address (s : State) : s.commitOk.line.address = s.line.address :=
  (congrArg LinePort.address s.commitOk_line).trans rfl

end

/-- Settles O39: a commit that fails by `State.commitFailed`; one that passes by `State.committed`, the timers that
come due at it by `State.completions`, and the heads one by one by what completions and re-tests do to each. -/
theorem commitCompletes : Obligations.CommitCompletes := by
  unfold Obligations.CommitCompletes
  refine ⟨fun s => ⟨s.commitFailure_eq, s.store.shadow.checkUnset_eq⟩,
    fun m a b => ⟨fun idle idle' => checkInService_idle idle idle' a b,
      fun serving => checkInService_names serving a b⟩,
    fun s works validating => ⟨fun f fails => ?_, fun passes => ⟨s.commitOk, ?_, ?_⟩⟩⟩
  · rw [exec_commitCompletion works validating, State.commitComplete_fails fails]
    rfl
  · rw [exec_commitCompletion works validating, State.commitComplete_passes passes]
  intro new due old sameHeads completes
  refine ⟨s.commitOk_store, s.commitOk_tablesValid, s.commitOk_sweep, s.commitOk_channel, State.commitOk_plain,
    s.commitOk_reports, s.commitOk_lamp, s.commitOk_address, State.commitOk_quiet_rest,
    State.commitOk_entry_rest, State.commitOk_again_rest, fun same => ?_,
    fun quiet same timeout h present merging brings served =>
      State.commit_dwell quiet same timeout present merging brings served,
    fun quiet same h present wait unstalled brings late still =>
      State.commit_stall quiet same present wait unstalled brings late still,
    fun quiet same held h _ => ⟨fun merging le => State.commit_held quiet same held (.inl ⟨merging, le⟩),
      fun wait le => State.commit_held quiet same held (.inr ⟨wait, le⟩)⟩,
    ?_⟩
  · intro e raised code lowers
    have env : e = s.commitEnv := by
      simp only [e, s.commitOk_records]
      rfl
    clear_value e
    subst env
    have tested : s.commitEnv.retestAll (allHeads.filter new.headExists)
        { s.gantry with lanes := raised, slew := s.commitSlew } = s.commitTested :=
      (State.commitTested_sameHeads same).symm
    refine ⟨s.commitSlew, s.committed.gantry, ?_⟩
    rw [tested]
    exact ⟨s.committed_recoded, s.committed_channel, State.commitOk_timers, State.commitOk_falls⟩
  · intro quiet same tick steady lit ran
    refine ⟨?_, fun k running => State.steady_clear same steady quiet passes running, fun c => ?_⟩
    · rw [State.quiet_heads quiet, (State.steady_completions same steady passes).1,
        State.steady_heads same steady]
    · rw [(s.commitOk_channel c).1]
      exact State.steady_output same steady quiet passes tick ran c

end Sys2Proof.Machine
end

section
/-! SUPPORT. The pending plan stays one that ACTIVE defines (R82). -/

namespace Sys2Proof.Machine

/-! ## Where the condition carries over -/

/-- It reads the pending plan and ACTIVE alone. -/
theorem State.stagedPlanDefined_of_eq {s t : State} (h : s.stagedPlanDefined)
    (pending : t.take.pendingPlan = s.take.pendingPlan := by simp)
    (active : t.store.active = s.store.active := by simp) : t.stagedPlanDefined := by
  unfold State.stagedPlanDefined
  rw [pending, active]
  exact h

/-- With no plan pending there is nothing to ask. -/
theorem State.stagedPlanDefined_of_none {s : State} (none : s.take.pendingPlan = none) :
    s.stagedPlanDefined := by
  unfold State.stagedPlanDefined
  rw [none]
  nofun

/-! ## Takes and firings leave the pending plan (R73, R79) -/

theorem State.takeRecord_pendingPlan (s : State) (p : Nat) :
    (s.takeRecord p).take.pendingPlan = s.take.pendingPlan := by
  simp only [State.takeRecord]
  split <;> rfl

theorem fireEntry_pendingPlan (acc : State × Option Nat) (e : ScheduleEntry) :
    (fireEntry acc e).1.take.pendingPlan = acc.1.take.pendingPlan := by
  simp only [fireEntry]
  split
  · rfl
  · split
    case h_1 => exact acc.1.takeRecord_pendingPlan _
    case h_2 =>
      split
      · exact acc.1.takeRecord_pendingPlan _
      · rfl
    all_goals rfl

theorem fireEntries_pendingPlan (l : List ScheduleEntry) (acc : State × Option Nat) :
    (l.foldl fireEntry acc).1.take.pendingPlan = acc.1.take.pendingPlan := by
  induction l generalizing acc with
  | nil => rfl
  | cons e l ih => exact (ih _).trans (fireEntry_pendingPlan acc e)

theorem State.dueTest_pendingPlan (s : State) : s.dueTest.take.pendingPlan = s.take.pendingPlan := by
  simp only [State.dueTest]
  split
  · exact fireEntries_pendingPlan _ _
  · rw [State.takeTargets_take]
    exact fireEntries_pendingPlan _ _

/-! ## Fallback entry and the commit (R63, R82, R128) -/

/-- Fallback entry clears the pending plan; a second expiry leaves it. -/
theorem State.stagedPlanDefined_watchdogExpire {s : State} (h : s.stagedPlanDefined) :
    s.watchdogExpire.stagedPlanDefined := by
  unfold State.watchdogExpire
  split
  case h_1 =>
    obtain ⟨-, -, take, -⟩ := s.fallbackEntry_rest
    exact State.stagedPlanDefined_of_none (by rw [take])
  all_goals exact h

/-- A successful commit keeps the pending plan only where the new bank defines it. -/
theorem State.committed_stagedPlanDefined (s : State) : s.committed.stagedPlanDefined :=
  fun _ pending => (Option.mem_filter_iff.1 pending).2

theorem State.stagedPlanDefined_dueSlew {s : State} (h : s.stagedPlanDefined) : s.dueSlew.stagedPlanDefined :=
  State.stagedPlanDefined_of_eq h

theorem State.stagedPlanDefined_commitComplete {s : State} (h : s.stagedPlanDefined) :
    s.commitComplete.stagedPlanDefined := by
  unfold State.commitComplete
  split
  · rw [s.commitOk_after]
    have timers : s.afterTimers.stagedPlanDefined := s.committed_stagedPlanDefined
    refine State.stagedPlanDefined_dueSlew ?_
    split
    · exact State.stagedPlanDefined_watchdogExpire timers
    · exact timers
  · exact h

/-- A trip clears the pending plan (R52). -/
theorem State.stagedPlanDefined_sample {s : State} (h : s.stagedPlanDefined) (m : List Nat) :
    (s.sample m).stagedPlanDefined := by
  unfold State.sample
  split
  · exact h
  · simp only
    split
    · exact State.stagedPlanDefined_of_eq h
    · exact State.stagedPlanDefined_of_none rfl

/-! ## Every step -/

/-- Every event keeps the pending plan one that ACTIVE defines. -/
theorem kept_stagedPlanDefined : Kept State.stagedPlanDefined where
  queue _ _ h := h
  line _ _ _ h := h
  key _ _ h := h
  capture _ _ h := h
  post _ _ _ _ h := h
  heartbeat _ _ h := h
  refresh _ _ _ h := State.stagedPlanDefined_of_eq h
  level _ _ _ h := State.stagedPlanDefined_of_eq h
  sync _ _ h := State.stagedPlanDefined_of_eq h (State.dueTest_pendingPlan _)
  dueTest s h := State.stagedPlanDefined_of_eq h s.dueTest_pendingPlan
  elapse _ _ _ _ h := h
  expire _ h := State.stagedPlanDefined_watchdogExpire h
  dwell _ _ _ h := State.stagedPlanDefined_of_eq h
  clearance _ _ _ h := State.stagedPlanDefined_of_eq h
  stall _ _ h := State.stagedPlanDefined_of_eq h
  sequencer _ h := State.stagedPlanDefined_of_eq h
  stale _ _ h := State.stagedPlanDefined_of_eq h
  slew _ h := State.stagedPlanDefined_of_eq h
  atReading _ h := h
  temperature _ _ h := State.stagedPlanDefined_of_eq h
  atSample _ h := h
  sample _ m h := State.stagedPlanDefined_sample h m
  nextRead _ h := h
  commit _ _ h := State.stagedPlanDefined_commitComplete h
  restartDue _ _ h := h
  powerUp _ _ _ _ := State.stagedPlanDefined_of_none rfl
  keepRestart s p _ := State.stagedPlanDefined_of_none (by rw [State.keepRestart_take]; rfl)
  supplyLoss _ h := h
  resetLow _ h := h
  supplyBack _ _ h := h
  resetBack _ _ h := h
  readEvents _ h := h
  write _ _ _ _ _ _ h := h
  revert _ h := h
  validating _ h := h
  discard _ h := h
  stage s p _ defined _ := fun _ pending => Option.some.inj pending ▸ defined
  unstage _ _ := State.stagedPlanDefined_of_none rfl
  take _ _ _ _ _ := State.stagedPlanDefined_of_none rfl
  schedule _ _ _ _ _ _ _ := State.stagedPlanDefined_of_none rfl
  scheduleFull _ _ h := h
  cancel _ _ _ _ h := h
  enter _ _ _ := State.stagedPlanDefined_of_none rfl
  leave _ _ _ := State.stagedPlanDefined_of_none rfl
  hold _ _ h := h
  stepHeads _ _ h := State.stagedPlanDefined_of_eq h
  release _ _ h := State.stagedPlanDefined_of_eq h
  lampTest _ _ _ _ _ _ _ _ h := State.stagedPlanDefined_of_eq h
  lampOff _ _ _ h := State.stagedPlanDefined_of_eq h
  clearFault _ _ h := State.stagedPlanDefined_of_eq h
  relearn _ _ h := State.stagedPlanDefined_of_eq h
  restart _ _ h := h

/-- Settles O57: each event of `Kept` clears the pending plan, leaves it and ACTIVE, or checks it against the
bank in force. -/
theorem pendingPlanStaysDefined : Obligations.PendingPlanStaysDefined := by
  unfold Obligations.PendingPlanStaysDefined
  exact fun s t hs ht => kept_stagedPlanDefined.step hs ht

end Sys2Proof.Machine
end

section
/-! SUPPORT. The orders of the Take Unit (R72, R74, R78, R81), addressed and from a group. -/

namespace Sys2Proof.Machine

/-! ## An order that OPERATE suffices for and groups reach (R40 to R43) -/

/-- The row asks for no COMMISSION and no end of a commit, and is acted on from a group. -/
structure OrderSpec.Open (q : OrderSpec) : Prop where
  operate : ∀ body, q.commission body = false
  unbusied : q.busyChecked = false
  group : q.group = true

section
variable {c : Instr} {q : OrderSpec} {o : Order} (row : orderRow c = some (q, o)) (opened : q.Open)
variable {s : State} (length : q.lengthOk o.body = true)
include row opened length

/-- Addressed in an accepted mode it is answered as its owner answers it. -/
theorem exec_answered {a : Answer} (addressed : s.Addressed o) (mode : q.modeOk s = true)
    (answer : q.act o (s.received o) = a) :
    exec c s = .next (a.state.replied q.code o a.status a.content) := by
  have accepted : q.modeOk (s.received o) = true := by
    rwa [orderRow_modeOk (s := s) (t := s.received o) row rfl rfl]
  subst answer
  rw [exec_orderRow row]
  exact q.run_addressed addressed
    (q.check_none length (.inl (opened.operate _)) accepted (.inl opened.unbusied))

/-- In another mode it is refused. -/
theorem exec_wrongMode (addressed : s.Addressed o) (mode : q.modeOk s = false) :
    exec c s = .next ((s.received o).replied q.code o .wrongMode []) := by
  obtain ⟨-, -, wrongMode, -⟩ := firstFailingCheckRefusesTheOrder c q o s row addressed
  exact wrongMode length (fun keyed => by simp [opened.operate] at keyed) mode

/-- From a group in an accepted mode it is carried out as its owner does. -/
theorem exec_obeyed {f : RxFrame} {t : State} (overheard : s.Overhears o f) (mode : q.modeOk s = true)
    (effect : q.actGroup o (s.overheard q.code o f) = t) : exec c s = .next t := by
  have accepted : q.modeOk (s.overheard q.code o f) = true := by
    rwa [orderRow_modeOk (s := s) (t := s.overheard q.code o f) row rfl rfl]
  have passes := q.check_none length (.inl (opened.operate _)) accepted (.inl opened.unbusied)
  subst effect
  rw [exec_orderRow row, q.run_overheard overheard]
  simp [OrderSpec.answerGroup, opened.group, passes]

end

/-- From a group in another mode it is passed on, and no more; TAKE in FALLBACK apart. -/
theorem exec_dropped {c : Instr} {q : OrderSpec} {o : Order} (row : orderRow c = some (q, o)) {s : State}
    {f : RxFrame} (overheard : s.Overhears o f) (mode : q.modeOk s = false)
    (notTake : c = .take o → s.node.mode ≠ .fallback) : exec c s = .next (s.overheard q.code o f) := by
  obtain ⟨-, -, dropped, -⟩ := groupOrdersAreDropped c q o s f row overheard
  exact dropped mode notTake

theorem inServiceOrFallback_false {s : State} (service : s.node.mode ≠ .inService)
    (fallback : s.node.mode ≠ .fallback) : inServiceOrFallback s = false := by
  rw [← Bool.not_eq_true, inServiceOrFallback_iff]
  exact not_or.2 ⟨service, fallback⟩

/-! ## STAGE (R72) -/

theorem stageSpec_open : stageSpec.Open := ⟨fun _ => rfl, rfl, rfl⟩

section
variable {o : Order} {s : State}

theorem actStage_defined (low : 1 ≤ natAt o.body 0) (high : natAt o.body 0 ≤ 64)
    (defined : s.store.active.planDefined (natAt o.body 0) = true) :
    actStage o s = .done (s.setPending (some (natAt o.body 0))) [] := by
  simp [actStage, inRange, low, high, defined]

theorem actStage_undefined (low : 1 ≤ natAt o.body 0) (high : natAt o.body 0 ≤ 64)
    (undefined : s.store.active.planDefined (natAt o.body 0) = false) :
    actStage o s = .refuse s .unknownPlan := by
  simp [actStage, inRange, low, high, undefined]

theorem actStage_outside (outside : natAt o.body 0 = 0 ∨ 64 < natAt o.body 0) :
    actStage o s = .refuse s .outOfRange := by
  have out : inRange 1 64 (natAt o.body 0) = false := by
    simp only [inRange, Bool.and_eq_false_iff, decide_eq_false_iff_not]
    omega
  simp [actStage, out]

theorem groupStage_defined (low : 1 ≤ natAt o.body 0) (high : natAt o.body 0 ≤ 64)
    (defined : s.store.active.planDefined (natAt o.body 0) = true) :
    groupStage o s = s.setPending (some (natAt o.body 0)) := by
  simp [groupStage, inRange, low, high, defined]

theorem groupStage_undefined (low : 1 ≤ natAt o.body 0) (high : natAt o.body 0 ≤ 64)
    (undefined : s.store.active.planDefined (natAt o.body 0) = false) :
    groupStage o s = (s.setPending none).post (.planUnknown (natAt o.body 0)) := by
  simp [groupStage, inRange, low, high, undefined]

theorem groupStage_outside (outside : natAt o.body 0 = 0 ∨ 64 < natAt o.body 0) : groupStage o s = s := by
  have out : inRange 1 64 (natAt o.body 0) = false := by
    simp only [inRange, Bool.and_eq_false_iff, decide_eq_false_iff_not]
    omega
  simp [groupStage, out]

end

/-- Settles O28: R72's rows by `actStage` and `groupStage`. -/
theorem stageSetsThePendingPlan : Obligations.StageSetsThePendingPlan := by
  unfold Obligations.StageSetsThePendingPlan
  refine ⟨fun o s body service fallback => ?_, fun o s body mode => ?_⟩
  all_goals
    intros
    have row : orderRow (.stage o) = some (stageSpec, o) := rfl
    have length : stageSpec.lengthOk o.body = true := (lengthIs_iff 1 _).2 body
  · have wrong := inServiceOrFallback_false service fallback
    exact ⟨fun addressed => exec_wrongMode row stageSpec_open length addressed wrong,
      fun f overheard => exec_dropped row overheard wrong nofun⟩
  · have accepted := (inServiceOrFallback_iff s).2 mode
    refine ⟨fun addressed => ?_, fun f overheard => ?_⟩
    · have answered {a} := exec_answered (a := a) row stageSpec_open length addressed accepted
      exact ⟨fun low high defined => answered (actStage_defined low high defined),
        fun low high undefined => answered (actStage_undefined low high undefined),
        fun outside => answered (actStage_outside outside)⟩
    · have obeyed {t} := exec_obeyed (t := t) row stageSpec_open length overheard accepted
      exact ⟨fun low high defined => obeyed (groupStage_defined low high defined),
        fun low high undefined => obeyed (groupStage_undefined low high undefined),
        fun outside => obeyed (groupStage_outside outside)⟩

/-! ## TAKE (R74) -/

theorem takeSpec_open : takeSpec.Open := ⟨fun _ => rfl, rfl, rfl⟩

theorem takeMode_false {s : State} (service : s.node.mode ≠ .inService)
    (silent : s.node.mode = .fallback → s.watchdog.stream = false) : takeMode s = false := by
  rw [← Bool.not_eq_true, takeMode_iff]
  rintro (mode | ⟨mode, stream⟩)
  · exact service mode
  · rw [silent mode] at stream
    cases stream

section
variable (o : Order) {s : State}

theorem actTake_pendingPlan {p : Nat} (pending : s.take.pendingPlan = some p) :
    actTake o s = .done ((s.takePlan p).setPending none) [byteOf p] := by
  simp [actTake, pending]

theorem actTake_nothing (nothing : s.take.pendingPlan = none) : actTake o s = .refuse s .nothingStaged := by
  simp [actTake, nothing]

theorem groupTake_pendingPlan {p : Nat} (pending : s.take.pendingPlan = some p) :
    groupTake o s = (s.takePlan p).setPending none := by
  simp [groupTake, pending]

theorem groupTake_nothing (nothing : s.take.pendingPlan = none) :
    groupTake o s = s.post .takeWithoutStage := by
  simp [groupTake, nothing]

end

/-- Settles O29: R74's rows by `actTake` and `groupTake`; of the wrong modes FALLBACK alone posts. -/
theorem takeTakesThePendingPlan : Obligations.TakeTakesThePendingPlan := by
  unfold Obligations.TakeTakesThePendingPlan
  refine ⟨fun o s body service silent => ?_, fun o s body mode => ?_⟩
  all_goals
    intros
    have row : orderRow (.take o) = some (takeSpec, o) := rfl
    have length : takeSpec.lengthOk o.body = true := (lengthIs_iff 0 _).2 (by simp [body])
  · have wrong := takeMode_false service silent
    refine ⟨fun addressed => exec_wrongMode row takeSpec_open length addressed wrong, fun f overheard => ?_⟩
    by_cases fallback : s.node.mode = .fallback
    · obtain ⟨-, -, -, posts⟩ := groupOrdersAreDropped _ _ o s f row overheard
      rw [if_pos fallback]
      exact posts rfl body fallback (silent fallback)
    · rw [if_neg fallback]
      exact exec_dropped row overheard wrong fun _ => fallback
  · have accepted := (takeMode_iff s).2 mode
    refine ⟨fun addressed => ?_, fun f overheard => ?_⟩
    · have answered {a} := exec_answered (a := a) row takeSpec_open length addressed accepted
      exact ⟨fun p pending => answered (actTake_pendingPlan o pending),
        fun nothing => answered (actTake_nothing o nothing)⟩
    · have obeyed {t} := exec_obeyed (t := t) row takeSpec_open length overheard accepted
      exact ⟨fun p pending => obeyed (groupTake_pendingPlan o pending),
        fun nothing => obeyed (groupTake_nothing o nothing)⟩

/-! ## TAKE_AT (R77, R78) -/

theorem takeAtSpec_open : takeAtSpec.Open := ⟨fun _ => rfl, rfl, rfl⟩

theorem State.scheduled_iff (s : State) (due : Clock) :
    s.scheduled due = true ↔ ∃ e ∈ s.take.schedule, e.due = due := by
  simp [State.scheduled]

/-- An entry is put after those with no more time remaining and before the first that has more. -/
theorem insertEntry_split (clock : Clock) (e : ScheduleEntry) (l : List ScheduleEntry) :
    ∃ before after, l = before ++ after ∧ insertEntry clock e l = before ++ e :: after
      ∧ (∀ x ∈ before, remaining x.due clock ≤ remaining e.due clock)
      ∧ ∀ x ∈ after.head?, remaining e.due clock < remaining x.due clock := by
  induction l with
  | nil => exact ⟨[], [], rfl, rfl, nofun, nofun⟩
  | cons x l ih =>
    unfold insertEntry
    split
    · rename_i less
      exact ⟨[], x :: l, rfl, rfl, nofun, fun y first => Option.some.inj first ▸ less⟩
    · rename_i more
      obtain ⟨before, after, whole, put, earlier, later⟩ := ih
      refine ⟨x :: before, after, congrArg (x :: ·) whole, congrArg (x :: ·) put, fun y mem => ?_, later⟩
      rcases List.mem_cons.1 mem with rfl | mem
      · exact Nat.le_of_not_lt more
      · exact earlier y mem

section
variable {s : State} {due : Clock} {p : Nat}

/-- Where the due time stands, its entry takes the plan in its place. -/
theorem State.scheduleTake_replaces (stands : ∃ e ∈ s.take.schedule, e.due = due) :
    (s.scheduleTake due p).take.schedule
      = s.take.schedule.map fun e => if e.due = due then ⟨due, p⟩ else e :=
  if_pos ((s.scheduled_iff due).2 stands)

theorem State.scheduleTake_inserts (new : ¬∃ e ∈ s.take.schedule, e.due = due) :
    (s.scheduleTake due p).take.schedule = insertEntry s.take.clock ⟨due, p⟩ s.take.schedule :=
  if_neg fun stands => new ((s.scheduled_iff due).1 stands)

theorem State.takeAtCheck_tooLate (late : remaining due s.take.clock = 0 ∨ 2 ^ 31 ≤ remaining due s.take.clock) :
    s.takeAtCheck due = some .tooLate := if_pos late

theorem State.takeAtCheck_beyond (far : 86400000 < remaining due s.take.clock)
    (ahead : remaining due s.take.clock < 2 ^ 31) : s.takeAtCheck due = some .outOfRange := by
  simp only [State.takeAtCheck]
  rw [if_neg (by omega), if_pos far]

variable (future : 0 < remaining due s.take.clock) (day : remaining due s.take.clock ≤ 86400000)
include future day

/-- Within the day ahead the number of entries decides. -/
theorem State.takeAtCheck_day : s.takeAtCheck due
    = if !s.scheduled due && 4 ≤ s.take.schedule.length then some .scheduleFull else none := by
  simp only [State.takeAtCheck]
  rw [if_neg (by omega), if_neg (by omega)]

theorem State.takeAtCheck_full (new : ¬∃ e ∈ s.take.schedule, e.due = due)
    (full : 4 ≤ s.take.schedule.length) : s.takeAtCheck due = some .scheduleFull := by
  rw [← s.scheduled_iff due, Bool.not_eq_true] at new
  rw [State.takeAtCheck_day future day, new]
  simpa using full

theorem State.takeAtCheck_fits
    (room : (∃ e ∈ s.take.schedule, e.due = due) ∨ s.take.schedule.length < 4) :
    s.takeAtCheck due = none := by
  rw [State.takeAtCheck_day future day]
  rcases room with stands | room
  · rw [(s.scheduled_iff due).2 stands]
    rfl
  · simp [Nat.not_le.2 room]

end

section
variable {o : Order} {s : State}

theorem actTakeAt_nothing (nothing : s.take.pendingPlan = none) :
    actTakeAt o s = .refuse s .nothingStaged := by
  simp [actTakeAt, nothing]

theorem groupTakeAt_nothing (nothing : s.take.pendingPlan = none) :
    groupTakeAt o s = s.post .takeWithoutStage := by
  simp [groupTakeAt, nothing]

variable {p : Nat} (pending : s.take.pendingPlan = some p)
include pending

theorem actTakeAt_stopped {st : Status} (check : s.takeAtCheck (clockAt o.body 0) = some st) :
    actTakeAt o s = .refuse s st := by
  simp [actTakeAt, pending, check]

theorem actTakeAt_fits (check : s.takeAtCheck (clockAt o.body 0) = none) :
    actTakeAt o s = .done (s.scheduleTake (clockAt o.body 0) p)
      (byteOf (s.scheduleTake (clockAt o.body 0) p).take.schedule.length
        :: be32 (clockAt o.body 0 - s.take.clock)) := by
  simp [actTakeAt, pending, check]

theorem groupTakeAt_stopped {st : Status} (check : s.takeAtCheck (clockAt o.body 0) = some st)
    (room : st ≠ .scheduleFull) : groupTakeAt o s = s := by
  simp only [groupTakeAt, pending, check]

theorem groupTakeAt_full (check : s.takeAtCheck (clockAt o.body 0) = some .scheduleFull) :
    groupTakeAt o s = State.post { s with take := { s.take with scheduleFull := true } } .scheduleFull := by
  simp [groupTakeAt, pending, check]

theorem groupTakeAt_fits (check : s.takeAtCheck (clockAt o.body 0) = none) :
    groupTakeAt o s = s.scheduleTake (clockAt o.body 0) p := by
  simp [groupTakeAt, pending, check]

end

/-- Settles O31: R78's checks by `takeAtCheck`, the entry's place by `insertEntry`. -/
theorem takeAtSchedulesThePendingPlan : Obligations.TakeAtSchedulesThePendingPlan := by
  unfold Obligations.TakeAtSchedulesThePendingPlan
  refine ⟨fun o s body service fallback => ?_, fun o s body mode => ?_⟩
  all_goals
    have row : orderRow (.takeAt o) = some (takeAtSpec, o) := rfl
    have length : takeAtSpec.lengthOk o.body = true := (lengthIs_iff 4 _).2 body
  · have wrong := inServiceOrFallback_false service fallback
    exact ⟨fun addressed => exec_wrongMode row takeAtSpec_open length addressed wrong,
      fun f overheard => exec_dropped row overheard wrong nofun⟩
  · intro due d stands fits withList entered
    have accepted := (inServiceOrFallback_iff s).2 mode
    have enters : ∀ p, entered p (s.scheduleTake due p).take.schedule := fun p =>
      ⟨State.scheduleTake_replaces, fun new => State.scheduleTake_inserts new ▸ insertEntry_split ..⟩
    refine ⟨fun addressed => ?_, fun f overheard => ?_⟩
    · have answered {a} := exec_answered (a := a) row takeAtSpec_open length addressed accepted
      refine ⟨fun nothing => answered (actTakeAt_nothing nothing), fun p pending =>
        ⟨fun late => ?_, fun far ahead => ?_, fun future day new full => ?_, fun ⟨future, day, room⟩ => ?_⟩⟩
      · exact answered (actTakeAt_stopped (s := s.received o) pending (State.takeAtCheck_tooLate late))
      · exact answered (actTakeAt_stopped (s := s.received o) pending (State.takeAtCheck_beyond far ahead))
      · exact answered (actTakeAt_stopped (s := s.received o) pending (State.takeAtCheck_full future day new full))
      · exact ⟨_, enters p, answered (actTakeAt_fits pending (State.takeAtCheck_fits future day room))⟩
    · have obeyed {t} := exec_obeyed (t := t) row takeAtSpec_open length overheard accepted
      refine ⟨fun nothing => obeyed (groupTakeAt_nothing nothing), fun p pending =>
        ⟨fun outside => ?_, fun future day new full => ?_, fun ⟨future, day, room⟩ => ?_⟩⟩
      · by_cases late : d = 0 ∨ 2 ^ 31 ≤ d
        · exact obeyed (groupTakeAt_stopped pending (State.takeAtCheck_tooLate late) nofun)
        · have far : 86400000 < d ∧ d < 2 ^ 31 := by omega
          exact obeyed (groupTakeAt_stopped pending (State.takeAtCheck_beyond far.1 far.2) nofun)
      · exact obeyed (groupTakeAt_full pending (State.takeAtCheck_full future day new full))
      · exact ⟨_, enters p, obeyed (groupTakeAt_fits pending (State.takeAtCheck_fits future day room))⟩

/-! ## CANCEL_TAKES (R81) -/

theorem cancelTakesSpec_open : cancelTakesSpec.Open := ⟨fun _ => rfl, rfl, rfl⟩

theorem cancelTakesSpec_lengthOk {body : List Byte} (length : body = [] ∨ body.length = 4) :
    cancelTakesSpec.lengthOk body = true := by
  rcases length with rfl | length
  · rfl
  · simp [cancelTakesSpec, lengthIs, length]

section
variable {s : State} {body : List Byte}

theorem State.cancelled_all (s : State) : s.cancelled [] = some [] := rfl

theorem State.cancelled_one (length : body.length = 4)
    (stands : ∃ e ∈ s.take.schedule, e.due = clockAt body 0) :
    s.cancelled body = some (s.take.schedule.filter fun e => e.due != clockAt body 0) := by
  rw [State.cancelled, if_neg (by omega), if_pos ((s.scheduled_iff _).2 stands)]

theorem State.cancelled_none (length : body.length = 4)
    (absent : ¬∃ e ∈ s.take.schedule, e.due = clockAt body 0) : s.cancelled body = none := by
  rw [State.cancelled, if_neg (by omega), if_neg fun stands => absent ((s.scheduled_iff _).1 stands)]

end

section
variable {o : Order} {s : State}

theorem actCancelTakes_some {l : List ScheduleEntry} (cancelled : s.cancelled o.body = some l) :
    actCancelTakes o s = .done (s.withSchedule l) [byteOf (s.take.schedule.length - l.length)] := by
  simp [actCancelTakes, cancelled]

theorem actCancelTakes_none (cancelled : s.cancelled o.body = none) :
    actCancelTakes o s = .refuse s .noSuchEntry := by
  simp [actCancelTakes, cancelled]

theorem groupCancelTakes_some {l : List ScheduleEntry} (cancelled : s.cancelled o.body = some l) :
    groupCancelTakes o s = s.withSchedule l := by
  simp [groupCancelTakes, cancelled]

theorem groupCancelTakes_none (cancelled : s.cancelled o.body = none) : groupCancelTakes o s = s := by
  simp [groupCancelTakes, cancelled]

end

/-- Settles O32: what `cancelled` leaves of the schedule, addressed and from a group. -/
theorem cancelTakesRemovesEntries : Obligations.CancelTakesRemovesEntries := by
  unfold Obligations.CancelTakesRemovesEntries
  refine ⟨fun o s body service fallback => ?_, fun o s mode => ?_⟩
  all_goals have row : orderRow (.cancelTakes o) = some (cancelTakesSpec, o) := rfl
  · have wrong := inServiceOrFallback_false service fallback
    exact ⟨fun addressed => exec_wrongMode row cancelTakesSpec_open (cancelTakesSpec_lengthOk body) addressed wrong,
      fun f overheard => exec_dropped row overheard wrong nofun⟩
  · intro due stands withList rest
    have accepted := (inServiceOrFallback_iff s).2 mode
    refine ⟨fun addressed => ?_, fun f overheard => ?_⟩
    · have answered {a} (length : o.body = [] ∨ o.body.length = 4) := exec_answered (a := a) row
        cancelTakesSpec_open (cancelTakesSpec_lengthOk length) addressed accepted
      refine ⟨fun empty => ?_, fun length stand => ?_, fun length absent => ?_⟩
      · exact answered (.inl empty) (actCancelTakes_some (by rw [empty]; exact State.cancelled_all _))
      · exact answered (.inr length) (actCancelTakes_some (State.cancelled_one length stand))
      · exact answered (.inr length) (actCancelTakes_none (State.cancelled_none length absent))
    · have obeyed {t} (length : o.body = [] ∨ o.body.length = 4) := exec_obeyed (t := t) row
        cancelTakesSpec_open (cancelTakesSpec_lengthOk length) overheard accepted
      refine ⟨fun empty => ?_, fun length stand => ?_, fun length absent => ?_⟩
      · exact obeyed (.inl empty) (groupCancelTakes_some (by rw [empty]; exact State.cancelled_all _))
      · exact obeyed (.inr length) (groupCancelTakes_some (State.cancelled_one length stand))
      · exact obeyed (.inr length) (groupCancelTakes_none (State.cancelled_none length absent))

end Sys2Proof.Machine
end

section
/-! SUPPORT. A take of a plan (R73, R97, R106), and the entries of one due test (R79, R80). -/

namespace Sys2Proof.Machine

/-! ## The targets of a take, head by head -/

/-- The gantry once the existing heads have their codes in plan `p` as targets, and have re-tested where the
take returned the node from FALLBACK. -/
def Env.taken (e : Env) (p : Nat) (returned : Bool) (g : Gantry) : Gantry :=
  if returned then e.retestExisting (e.takeTargets p g) else e.takeTargets p g

section
variable {e : Env} {p : Nat} {h : Fin 8}

/-- One head given its code, if the plan has one for it. -/
theorem Env.giveTarget_onlyHead (e : Env) (p : Nat) (g : Gantry) (h : Fin 8) :
    g.OnlyHead (match e.bank.planTarget p h with | some t => e.setTarget h t g | none => g) h := by
  split
  · exact e.setTarget_onlyHead h _ g
  · exact .refl g h

theorem Env.takeTargets_target {a : Aspect} (present : e.bank.headExists h = true)
    (coded : e.bank.planTarget p h = some a) (g : Gantry) : (e.takeTargets p g).heads[h].target = some a := by
  obtain ⟨g', -, acted⟩ := foldl_head (e.giveTarget_onlyHead p) e.bank.existing_nodup
    ((e.bank.mem_existing h).2 present) g
  rw [coded] at acted
  exact (congrArg Head.target acted).trans (e.setTarget_target h a g')

theorem Env.takeTargets_absent (absent : e.bank.headExists h = false) (g : Gantry) :
    (e.takeTargets p g).heads[h] = g.heads[h] :=
  foldl_head_other (e.giveTarget_onlyHead p) (fun there => by simp [e.bank.mem_existing h, absent] at there) g

theorem Env.taken_target {a : Aspect} (present : e.bank.headExists h = true)
    (coded : e.bank.planTarget p h = some a) (returned : Bool) (g : Gantry) :
    (e.taken p returned g).heads[h].target = some a := by
  have given := Env.takeTargets_target present coded g
  unfold Env.taken
  split
  · exact (e.retestAll_target _ h _).trans given
  · exact given

theorem Env.taken_absent (absent : e.bank.headExists h = false) (returned : Bool) (g : Gantry) :
    (e.taken p returned g).heads[h] = g.heads[h] := by
  have stands := Env.takeTargets_absent (p := p) absent g
  unfold Env.taken
  split
  · exact (e.retestAll_other _ _ h fun there => by simp [e.bank.mem_existing h, absent] at there).trans stands
  · exact stands

end

/-! ## The node after a take (R73, R106) -/

section
variable {s : State}

/-- What the sequencer reads of the node at a take of a plan: a node in FALLBACK is IN_SERVICE first. -/
def State.takeEnv (s : State) : Env :=
  { s.env with mode := if s.node.mode = .fallback then .inService else s.node.mode }

theorem State.takeTargets_eq (s : State) (p : Nat) (returned : Bool) :
    s.takeTargets p returned = { s with gantry := s.env.taken p returned s.gantry } := by
  unfold State.takeTargets Env.taken
  cases returned <;> rfl

theorem State.takeRecord_inPlace (mode : s.node.mode ≠ .fallback) (p : Nat) : s.takeRecord p = { s with
    take := { s.take with currentPlan := p }
    events := s.events.post ⟨.taken p, 0, 0, s.take.clock⟩ } := if_neg mode

theorem State.takeRecord_returns (mode : s.node.mode = .fallback) (p : Nat) : s.takeRecord p = { s with
    take := { s.take with currentPlan := p }
    node := { s.node with mode := .inService }
    watchdog := { s.watchdog with start := some s.now }
    events := (s.events.post ⟨.taken p, 0, 0, s.take.clock⟩).post ⟨.fallbackLeft, 0, 0, s.take.clock⟩ } :=
  if_pos mode

theorem State.takePlan_inPlace (mode : s.node.mode ≠ .fallback) (p : Nat) : s.takePlan p = { s with
    take := { s.take with currentPlan := p }
    events := s.events.post ⟨.taken p, 0, 0, s.take.clock⟩
    gantry := s.takeEnv.taken p false s.gantry } := by
  have still : (s.node.mode == .fallback) = false := beq_false_of_ne mode
  rw [State.takePlan, State.takeRecord_inPlace mode, State.takeTargets_eq, still, State.takeEnv, if_neg mode]
  rfl

theorem State.takePlan_returns (mode : s.node.mode = .fallback) (p : Nat) : s.takePlan p = { s with
    take := { s.take with currentPlan := p }
    node := { s.node with mode := .inService }
    watchdog := { s.watchdog with start := some s.now }
    events := (s.events.post ⟨.taken p, 0, 0, s.take.clock⟩).post ⟨.fallbackLeft, 0, 0, s.take.clock⟩
    gantry := s.takeEnv.taken p true s.gantry } := by
  have returns : (s.node.mode == .fallback) = true := beq_iff_eq.2 mode
  rw [State.takePlan, State.takeRecord_returns mode, State.takeTargets_eq, returns, State.takeEnv, if_pos mode]
  rfl

theorem State.takePlan_gantry (s : State) (p : Nat) :
    (s.takePlan p).gantry = s.takeEnv.taken p (s.node.mode == .fallback) s.gantry := by
  by_cases mode : s.node.mode = .fallback
  · rw [State.takePlan_returns mode, mode]
    rfl
  · rw [State.takePlan_inPlace mode, beq_false_of_ne mode]

theorem State.takePlan_take (s : State) (p : Nat) : (s.takePlan p).take = { s.take with currentPlan := p } := by
  by_cases mode : s.node.mode = .fallback
  · rw [State.takePlan_returns mode]
  · rw [State.takePlan_inPlace mode]

end

/-- Settles O30: the heads by `Env.taken`, the rest by whether the take returns the node from FALLBACK. -/
theorem takeOfAPlan : Obligations.TakeOfAPlan := by
  unfold Obligations.TakeOfAPlan
  intro s p t b
  refine ⟨fun h a present coded => ?_, fun h absent => ?_, ?_, s.takePlan_take p, fun mode => ?_, fun mode => ?_,
    s.takePlan_line p, s.takePlan_store p, s.takePlan_sweep p, s.takePlan_lamp p, s.takePlan_now p⟩
  · rw [s.takePlan_gantry]
    exact Env.taken_target (e := s.takeEnv) present coded _ _
  · rw [s.takePlan_gantry]
    exact Env.taken_absent (e := s.takeEnv) absent _ _
  · intro e heads begun
    refine (s.takePlan_gantry p).trans (ite_congr (propext beq_iff_eq) (fun _ => ?_) fun _ => ?_)
    all_goals rfl
  · have taken : t = _ := State.takePlan_inPlace mode p
    rw [taken]
    exact ⟨rfl, rfl, rfl⟩
  · have taken : t = _ := State.takePlan_returns mode p
    rw [taken]
    exact ⟨rfl, rfl, rfl⟩

/-! ## The firings of one due test of a node in service (R79, log 14) -/

section
variable {s : State} (serving : s.node.mode.serving = true)
include serving

theorem State.mode_of_serving : s.node.mode = .inService ∨ s.node.mode = .fallback := by
  revert serving
  cases s.node.mode <;> simp [Mode.serving]

theorem fireEntry_takes {e : ScheduleEntry} (takes : s.entryTakes e = true) (o : Option Nat) :
    fireEntry (s, o) e = (s.takeRecord e.plan, some e.plan) := by
  rcases State.mode_of_serving serving with mode | mode
  · have defined : s.store.active.planDefined e.plan = true := by simpa [State.entryTakes, mode] using takes
    simp [fireEntry, defined, mode]
  · obtain ⟨defined, stream⟩ : s.store.active.planDefined e.plan = true ∧ s.watchdog.stream = true := by
      simpa [State.entryTakes, mode] using takes
    simp [fireEntry, defined, mode, stream]

theorem fireEntry_fails {e : ScheduleEntry} (fails : s.entryTakes e = false) (o : Option Nat) :
    fireEntry (s, o) e = (s.post (.scheduledTakeFailed e.plan), o) := by
  cases defined : s.store.active.planDefined e.plan
  · simp [fireEntry, defined]
  · rcases State.mode_of_serving serving with mode | mode
    · simp [State.entryTakes, defined, mode] at fails
    · have silent : s.watchdog.stream = false := by simpa [State.entryTakes, defined, mode] using fails
      simp [fireEntry, defined, mode, silent]

/-- With no take among them the firings post, and no more. -/
theorem fireEntries_none {l : List ScheduleEntry} (fails : ∀ e ∈ l, s.entryTakes e = false) (o : Option Nat) :
    l.foldl fireEntry (s, o) = ({ s with events := s.entryPosts l s.events }, o) := by
  rcases State.mode_of_serving serving with mode | mode
  · obtain ⟨plan, node, none, -⟩ := fireEntries_inService l s o mode
    obtain ⟨rfl, last⟩ := none fails
    exact Prod.ext node last
  · exact fireEntries_fallback_none l s o mode fails

end

/-- A node as the last take of some firings leaves it but for its targets: IN_SERVICE with that take's plan,
the watchdog restarted where it was in FALLBACK. -/
def State.returned (s : State) (p : Nat) (q : EventUnit) : State :=
  { s with
    take := { s.take with currentPlan := p }
    node := { s.node with mode := .inService }
    watchdog := if s.node.mode = .fallback then { s.watchdog with start := some s.now } else s.watchdog
    events := q }

theorem State.returned_inService {s : State} (mode : s.node.mode = .inService) (p : Nat) (q : EventUnit) :
    s.returned p q = { s with take := { s.take with currentPlan := p }, events := q } := by
  have node : ({ s.node with mode := .inService } : NodeControl) = s.node := by rw [← mode]
  rw [State.returned, node, mode]
  rfl

/-- A further take of the same test gives its plan. -/
theorem State.returned_again (s : State) (p p' : Nat) (q q' : EventUnit) :
    (s.returned p q).returned p' q' = s.returned p' q' := by
  rw [State.returned_inService (mode := rfl)]
  rfl

section
variable {s : State} {before after : List ScheduleEntry} {e : ScheduleEntry}

/-- IN_SERVICE, the firings of a list whose last take is `e`. -/
theorem fireEntries_last_inService (mode : s.node.mode = .inService) (takes : s.entryTakes e = true)
    (last : ∀ x ∈ after, s.entryTakes x = false) (o : Option Nat) :
    ∃ q, (before ++ e :: after).foldl fireEntry (s, o) = (s.returned e.plan q, some e.plan) := by
  obtain ⟨plan, node, -, gives⟩ := fireEntries_inService (before ++ e :: after) s o mode
  obtain ⟨rfl, final⟩ := gives before e after rfl takes last
  exact ⟨_, Prod.ext (node.trans (State.returned_inService mode _ _).symm) final⟩

variable (mode : s.node.mode = .fallback) (takes : s.entryTakes e = true)
include mode takes

/-- FALLBACK, the first take returns the node to IN_SERVICE, where the rest fire. -/
theorem fireEntries_first (first : ∀ x ∈ before, s.entryTakes x = false) (o : Option Nat) :
    (before ++ e :: after).foldl fireEntry (s, o) = after.foldl fireEntry (s.returned e.plan
      ((s.entryPosts (before ++ [e]) s.events).post ⟨.fallbackLeft, 0, 0, s.take.clock⟩), some e.plan) := by
  rw [fireEntries_fallback_some o mode takes first, State.returned, if_pos mode]

/-- With a take at a test in FALLBACK the stream is present, so its return changes no entry's outcome. -/
theorem State.entryTakes_returned (p : Nat) (q : EventUnit) (x : ScheduleEntry) :
    (s.returned p q).entryTakes x = s.entryTakes x := by
  have stream : s.watchdog.stream = true := by
    simp only [State.entryTakes, mode, Bool.and_eq_true, Bool.or_eq_true] at takes
    simpa using takes.2
  simp [State.entryTakes, State.returned, mode, stream]

/-- FALLBACK, the firings of a list whose last take is `e`. -/
theorem fireEntries_last_fallback (last : ∀ x ∈ after, s.entryTakes x = false) (o : Option Nat) :
    ∃ q, (before ++ e :: after).foldl fireEntry (s, o) = (s.returned e.plan q, some e.plan) := by
  cases found : before.find? s.entryTakes with
  | none =>
    have first : ∀ x ∈ before, s.entryTakes x = false := by simpa using List.find?_eq_none.1 found
    rw [fireEntries_first mode takes first o, fireEntries_none rfl fun x mem => ?_]
    · exact ⟨_, rfl⟩
    · rw [State.entryTakes_returned mode takes]
      exact last x mem
  | some e' =>
    obtain ⟨takes', before', between, rfl, first⟩ := List.find?_eq_some_iff_append.1 found
    rw [List.append_assoc, List.cons_append, fireEntries_first mode takes' (by simpa using first) o]
    obtain ⟨q, fired⟩ := fireEntries_last_inService (before := between) (e := e) (after := after) (s := s.returned _ _)
      rfl ((State.entryTakes_returned mode takes _ _ e).trans takes)
      (fun x mem => (State.entryTakes_returned mode takes _ _ x).trans (last x mem)) (some e'.plan)
    exact ⟨q, by rw [fired, State.returned_again]⟩

end

/-- The last take of the firings gives the current plan, in IN_SERVICE and from FALLBACK. -/
theorem fireEntries_last {s : State} {before after : List ScheduleEntry} {e : ScheduleEntry}
    (serving : s.node.mode.serving = true) (takes : s.entryTakes e = true)
    (last : ∀ x ∈ after, s.entryTakes x = false) (o : Option Nat) :
    ∃ q, (before ++ e :: after).foldl fireEntry (s, o) = (s.returned e.plan q, some e.plan) := by
  rcases State.mode_of_serving serving with mode | mode
  · exact fireEntries_last_inService mode takes last o
  · exact fireEntries_last_fallback mode takes last o

/-! ## The due test (R79, R80) -/

/-- The entries of the schedule that are due. -/
def State.dueEntries (s : State) : List ScheduleEntry := s.take.schedule.filter fun e => e.isDue s.take.clock

/-- The node with the entries that are due gone from the schedule. -/
def State.unscheduled (s : State) : State :=
  { s with take := { s.take with schedule := s.take.schedule.filter fun e => !e.isDue s.take.clock } }

section
variable {s u : State}

theorem State.dueTest_eq (s : State) : s.dueTest =
    let fired := s.dueEntries.foldl fireEntry (s.unscheduled, none)
    match fired.2 with
    | none => fired.1
    | some p => fired.1.takeTargets p (s.node.mode == .fallback) := rfl

/-- Firings without a take are the due test. -/
theorem State.dueTest_failed (fired : s.dueEntries.foldl fireEntry (s.unscheduled, none) = (u, none)) :
    s.dueTest = u := by
  rw [State.dueTest_eq, fired]

/-- After a take among them the heads are given the targets of the last. -/
theorem State.dueTest_taken {p : Nat}
    (fired : s.dueEntries.foldl fireEntry (s.unscheduled, none) = (u, some p)) :
    s.dueTest = u.takeTargets p (s.node.mode == .fallback) := by
  rw [State.dueTest_eq, fired]

theorem State.dueTest_events (s : State) :
    s.dueTest.events = (s.dueEntries.foldl fireEntry (s.unscheduled, none)).1.events := by
  rcases fired : s.dueEntries.foldl fireEntry (s.unscheduled, none) with ⟨u, _ | p⟩
  · rw [State.dueTest_failed fired]
  · rw [State.dueTest_taken fired, State.takeTargets_events]

theorem State.noneDue_iff (s : State) : s.noneDue ↔ s.dueEntries = [] := by
  simp [State.noneDue, State.dueEntries, List.filter_eq_nil_iff]

/-- The sequencer reads the same of a node after its last take as of a node at that take. -/
theorem State.returned_env (serving : s.node.mode.serving = true) (p : Nat) (q : EventUnit) :
    (s.returned p q).env = s.takeEnv := by
  have mode : (if s.node.mode = .fallback then Mode.inService else s.node.mode) = .inService := by
    rcases State.mode_of_serving serving with mode | mode <;> simp [mode]
  rw [State.takeEnv, mode]
  rfl

/-- A test at which `e` is the last take. -/
theorem State.dueTest_last (serving : s.node.mode.serving = true) {before after : List ScheduleEntry}
    {e : ScheduleEntry} (due : s.dueEntries = before ++ e :: after) (takes : s.entryTakes e = true)
    (last : ∀ x ∈ after, s.entryTakes x = false) : s.dueTest = { s.unscheduled with
      take := { s.unscheduled.take with currentPlan := e.plan }
      gantry := (s.takePlan e.plan).gantry
      node := { s.node with mode := .inService }
      watchdog := if s.node.mode = .fallback then { s.watchdog with start := some s.now } else s.watchdog
      events := s.dueTest.events } := by
  obtain ⟨q, fired⟩ := fireEntries_last (s := s.unscheduled) (before := before) serving takes last none
  rw [State.dueTest_taken (due ▸ fired), State.takeTargets_eq, State.takePlan_gantry,
    State.returned_env (s := s.unscheduled) serving]
  rfl

end

/-- The outcome of one due test of a node in service. -/
theorem State.dueTest_outcome {s : State} (serving : s.node.mode.serving = true) :
    ((∀ e ∈ s.dueEntries, s.entryTakes e = false) →
      s.dueTest = { s.unscheduled with events := s.entryPosts s.dueEntries s.events })
    ∧ (s.node.mode = .inService → s.dueTest.events = s.entryPosts s.dueEntries s.events)
    ∧ (s.node.mode = .fallback → ∀ before e after, s.dueEntries = before ++ e :: after →
        s.entryTakes e = true → (∀ x ∈ before, s.entryTakes x = false) →
        s.dueTest.events = s.entryPosts after
          ((s.entryPosts (before ++ [e]) s.events).post ⟨.fallbackLeft, 0, 0, s.take.clock⟩)) := by
  refine ⟨fun fails => State.dueTest_failed (fireEntries_none (s := s.unscheduled) serving fails none),
    fun mode => ?_, fun mode before e after due takes first => ?_⟩
  · obtain ⟨plan, node, -⟩ := fireEntries_inService s.dueEntries s.unscheduled none mode
    rw [State.dueTest_events, node]
    rfl
  · rw [State.dueTest_events, due, fireEntries_first (s := s.unscheduled) mode takes first]
    obtain ⟨plan, node, -⟩ := fireEntries_inService after (s.unscheduled.returned e.plan
      ((s.entryPosts (before ++ [e]) s.events).post ⟨.fallbackLeft, 0, 0, s.take.clock⟩)) (some e.plan) rfl
    refine (congrArg State.events node).trans ?_
    simp only [State.entryPosts, State.entryTakes_returned (s := s.unscheduled) mode takes]
    rfl

/-! ## SCHEDULE_FIRING (R79, R80) -/

theorem exec_scheduleFiring {s : State} {e : ScheduleEntry} {rest : List ScheduleEntry}
    (works : s.works = true) (schedule : s.take.schedule = e :: rest) :
    exec .scheduleFiring s = .next (s.reach (s.untilEntry e)).dueTest := by
  rw [exec_scheduleFiring_eq, execScheduleFiring, live_works works]
  simp only [schedule]
  rfl

/-- With no timer due before the entry's moment nothing but time passes. -/
theorem exec_scheduleFiring_soon {s : State} {e : ScheduleEntry} {rest : List ScheduleEntry}
    (works : s.works = true) (schedule : s.take.schedule = e :: rest) (soon : s.untilEntry e ≤ s.untilNext) :
    exec .scheduleFiring s = .next (s.elapse (s.untilEntry e)).dueTest := by
  rw [exec_scheduleFiring works schedule, State.reach_of_le soon]

/-- An entry is due at its moment. -/
theorem State.isDue_at (s : State) (e : ScheduleEntry) :
    e.isDue (s.elapse (s.untilEntry e)).take.clock = true := by
  have clock : (s.elapse (s.untilEntry e)).take.clock
      = s.take.clock + BitVec.ofNat 32 (s.untilEntry e) := rfl
  rw [clock, State.untilEntry]
  split
  · rename_i due
    simpa using due
  · rw [BitVec.ofNat_toNat, BitVec.setWidth_eq, add_sub_cancel]
    simp [ScheduleEntry.isDue]

/-- The one entry that is due leaves the schedule and fires. -/
theorem State.dueTest_single {u : State} {e : ScheduleEntry} {rest : List ScheduleEntry}
    (schedule : u.take.schedule = e :: rest) (due : e.isDue u.take.clock = true)
    (later : ∀ x ∈ rest, x.isDue u.take.clock = false) (serving : u.node.mode.serving = true) :
    let fired := { u with take := { u.take with schedule := rest } }
    (u.entryTakes e = true → u.dueTest = fired.takePlan e.plan)
    ∧ (u.entryTakes e = false → u.dueTest = fired.post (.scheduledTakeFailed e.plan)) := by
  intro fired
  have none : rest.filter (fun x => x.isDue u.take.clock) = [] :=
    List.filter_eq_nil_iff.2 fun x mem => by simp [later x mem]
  have all : rest.filter (fun x => !x.isDue u.take.clock) = rest :=
    List.filter_eq_self.2 fun x mem => by simp [later x mem]
  have entries : u.dueEntries = [e] := by simp [State.dueEntries, schedule, due, none]
  have left : u.unscheduled = fired := by simp [State.unscheduled, schedule, due, all, fired]
  have firing : ∀ a, fireEntry (fired, .none) e = a → u.dueEntries.foldl fireEntry (u.unscheduled, .none) = a := by
    intro a fires
    rw [entries, left]
    exact fires
  exact ⟨fun takes => State.dueTest_taken (firing _ (fireEntry_takes (s := fired) serving takes _)),
    fun fails => State.dueTest_failed (firing _ (fireEntry_fails (s := fired) serving fails _))⟩

/-! ## Where the clock moves, no entry is left due (R80) -/

section
variable {s t : State}

/-- An event that leaves no entry due, whether or not a restart comes before it. -/
theorem noneDue_live {f : State → State} (event : ∀ u, u.noneDue → (f u).noneDue) (none : s.noneDue)
    (run : live s f = .next t) : t.noneDue := by
  simp only [live, Host.Outcome.next.injEq] at run
  subst run
  split
  · exact none
  · exact event _ (State.noneDue_dueRestart none)

theorem noneDue_sweep {f : SweepFrame} (none : s.noneDue) (run : execSweep f s = .next t) : t.noneDue := by
  refine noneDue_live (fun u none => ?_) none run
  rcases u.frameEnd_cases f.bytes _ with stays | ⟨r, -, unknown | ends⟩
  · rw [stays]
    exact none
  · rw [unknown]
    exact none
  · rw [ends]
    simp only
    split
    · exact none
    · refine State.noneDue_sweepEvent (State.noneDue_of_eq none ?_ ?_) f
      all_goals
        simp only [State.captureSlots_take]
        split <;> rfl

/-- The command moves the clock of its own accord, or may set it. -/
inductive ClockCommand : Instr → Prop where
  | scheduleFiring : ClockCommand .scheduleFiring
  | watchdogExpiry : ClockCommand .watchdogExpiry
  | slewTick : ClockCommand .slewTick
  | mergeDwellCompletion (h : Fin 8) : ClockCommand (.mergeDwellCompletion h)
  | clearanceCompletion (k : Fin 4) : ClockCommand (.clearanceCompletion k)
  | stallTimeout (h : Fin 8) : ClockCommand (.stallTimeout h)
  | staleExpiry (a : Byte) (h : Fin 8) : ClockCommand (.staleExpiry a h)
  | temperatureSample (r : Int) : ClockCommand (.temperatureSample r)
  | sampleEvent (m : List Nat) : ClockCommand (.sampleEvent m)
  | sweep (f : SweepFrame) : ClockCommand (.sweep f)

theorem exec_noneDue {c : Instr} (command : ClockCommand c) (none : s.noneDue) (run : exec c s = .next t) :
    t.noneDue := by
  cases command with
  | sweep f => exact noneDue_sweep none (exec_sweep_eq s f ▸ run)
  | scheduleFiring =>
    have run : execScheduleFiring s = .next t := run
    refine noneDue_live (fun u none => ?_) none run
    split
    · exact none
    · exact State.timed_noneDue _ _ _
  | watchdogExpiry =>
    have run : execWatchdogExpiry s = .next t := run
    refine noneDue_live (fun u none => ?_) none run
    split
    · exact State.timed_noneDue _ _ _
    · exact none
  | slewTick =>
    have run : execSlewTick s = .next t := run
    refine noneDue_live (fun u none => ?_) none run
    split
    · exact none
    · exact State.timed_noneDue _ _ _
  | mergeDwellCompletion h =>
    have run : execMergeDwellCompletion h s = .next t := run
    refine noneDue_live (fun u none => ?_) none run
    split
    · exact State.timed_noneDue _ _ _
    · exact none
  | clearanceCompletion k =>
    have run : execClearanceCompletion k s = .next t := run
    refine noneDue_live (fun u none => ?_) none run
    split
    · exact State.timed_noneDue _ _ _
    · exact none
  | stallTimeout h =>
    have run : execStallTimeout h s = .next t := run
    refine noneDue_live (fun u none => ?_) none run
    split
    · exact State.timed_noneDue _ _ _
    · exact none
  | staleExpiry a h =>
    have run : execStaleExpiry a h s = .next t := run
    refine noneDue_live (fun u none => ?_) none run
    split
    · exact none
    · split
      · exact State.timed_noneDue _ _ _
      · exact none
  | temperatureSample r => exact noneDue_live (fun u _ => State.timed_noneDue _ _ _) none run
  | sampleEvent m => exact noneDue_live (fun u _ => State.timed_noneDue _ _ _) none run

theorem State.noneDue_tick (none : s.noneDue) : s.tick.noneDue := by
  unfold State.tick
  split
  · exact none
  · exact (State.due_ready _).schedule

end

/-- Settles O42: one test by the firings of its entries, SCHEDULE_FIRING by the entry's moment, and every command
that moves the clock by the test it ends with. -/
theorem scheduleEntryFires : Obligations.ScheduleEntryFires := by
  unfold Obligations.ScheduleEntryFires
  refine ⟨fun e clock => decide_eq_true_iff, fun s => ?_, fun s e rest works schedule => ?_,
    fun s e rest works schedule mode => ?_, fun c s t none run commands => ?_, fun s t none empty run => ?_⟩
  · refine ⟨fun due => State.dueTest_quiet (s.noneDue_iff.2 due), fun serving => ?_⟩
    obtain ⟨failed, inService, fallback⟩ := State.dueTest_outcome serving
    exact ⟨failed, fun before e after due takes last => State.dueTest_last serving due takes last, inService,
      fallback⟩
  · exact exec_scheduleFiring_soon works schedule
  · intro n u fired soon later
    have serving : u.node.mode.serving = true := by
      rcases mode with mode | mode <;> simp [u, mode, Mode.serving]
    have fires : exec .scheduleFiring s = .next u.dueTest := exec_scheduleFiring_soon works schedule soon
    have same : u.entryTakes e = s.entryTakes e := rfl
    obtain ⟨taken, failed⟩ := State.dueTest_single (u := u) schedule (s.isDue_at e)
      (fun x mem => decide_eq_false (Nat.not_lt.2 (later x mem))) serving
    rw [same] at taken failed
    rw [fires]
    refine ⟨fun defined stream => congrArg Host.Outcome.next (taken ?_),
      fun fails => congrArg Host.Outcome.next (failed ?_)⟩
    · rcases mode with mode | mode
      · simp [State.entryTakes, defined, mode]
      · simp [State.entryTakes, defined, stream mode]
    · rcases fails with undefined | ⟨mode, silent⟩
      · simp [State.entryTakes, undefined]
      · simp [State.entryTakes, mode, silent]
  · refine exec_noneDue ?_ none run
    rcases commands with rfl | rfl | rfl | ⟨h, rfl⟩ | ⟨k, rfl⟩ | ⟨h, rfl⟩ | ⟨a, h, rfl⟩ | ⟨r, rfl⟩ | ⟨m, rfl⟩
      | ⟨f, rfl⟩
    all_goals constructor
  · rw [step, empty] at run
    exact Host.Outcome.next.inj run ▸ State.noneDue_tick none

end Sys2Proof.Machine
end

section
/-! SUPPORT. The plan checks of a commit (R67 to R71). -/

namespace Sys2Proof.Machine

/-! ## The first failure of checks made in order -/

theorem firstFailure_eq (l : List (Option CommitFailure)) : firstFailure l = l.findSome? id := by
  induction l with
  | nil => rfl
  | cons x l ih =>
    rw [firstFailure_cons, ih]
    cases x <;> rfl

section
variable {fails : Bool} {x y : CommitFailure} {next : Option CommitFailure}

/-- A check and those after it pass. -/
theorem check_none : (if fails then some x else next) = none ↔ fails = false ∧ next = none := by
  cases fails <;> simp

/-- A check fails, or it passes and one after it fails. -/
theorem check_some : (if fails then some x else next) = some y
    ↔ (fails = true ∧ x = y) ∨ (fails = false ∧ next = some y) := by
  cases fails <;> simp

end

/-- The plans are checked in record order. -/
theorem Bank.checkPlans_eq (b : Bank) :
    b.checkPlans = (List.range 64).findSome? fun i => b.checkPlan (i + 1) := by
  rw [Bank.checkPlans, firstFailure_eq, List.findSome?_map]
  rfl

/-! ## The four checks of a plan (R68 to R70) -/

section
variable (b : Bank) (p : Nat)

/-- The plan codes the present faces, and no other (R68). -/
def Bank.CodesFaces : Prop := ∀ k f, b.facePresent k f = true ↔ b.planCode p k f ≠ 0

/-- Every aspect the plan gives a present face is fitted on its head (R68). -/
def Bank.GivesFitted : Prop := ∀ k f a, b.facePresent k f = true →
  Aspect.ofCode (b.planCode p k f) = some a → b.fitted (b.faceHead k f) a = true

/-- The plan never makes both faces of a TIDAL lane permissive (R69). -/
def Bank.SplitsTidal : Prop := ∀ k, b.tidal k = true →
  ¬((1 ≤ b.planCode p k .asc ∧ b.planCode p k .asc ≤ 3)
    ∧ 1 ≤ b.planCode p k .desc ∧ b.planCode p k .desc ≤ 3)

/-- Every merge of the plan points to a lane that it holds permissive in that direction (R70). -/
def Bank.MergesLead : Prop := ∀ k f, b.facePresent k f = true →
  b.planCode p k f = 2 ∨ b.planCode p k f = 3 →
  ∃ j : Fin 4, b.facePresent j f = true ∧ 1 ≤ b.planCode p j f ∧ b.planCode p j f ≤ 3
    ∧ (if (f = .asc ↔ b.planCode p k f = 2) then j.val + 1 = k.val else j.val = k.val + 1)

/-- The plan passes the four checks. -/
def Bank.PlanSound : Prop := b.CodesFaces p ∧ b.GivesFitted p ∧ b.SplitsTidal p ∧ b.MergesLead p

end

theorem inRange_iff (lo hi x : Nat) : inRange lo hi x = true ↔ lo ≤ x ∧ x ≤ hi := by simp [inRange]

theorem permissiveCode_iff (c : Nat) : permissiveCode c = true ↔ 1 ≤ c ∧ c ≤ 3 := inRange_iff 1 3 c

/-- Left of ascending traffic is the lane below, left of descending traffic the lane above (R2). -/
theorem mergeLane_iff {k : Fin 4} {f : Face} {c : Nat} (merge : c = 2 ∨ c = 3) (j : Fin 4) :
    mergeLane k f c = some j ↔ if (f = .asc ↔ c = 2) then j.val + 1 = k.val else j.val = k.val + 1 := by
  revert k j
  rcases merge with rfl | rfl <;> cases f <;> decide

section
variable {b : Bank} {p : Nat}

theorem Bank.planFaceFails_iff : b.planFaceFails p = false ↔ b.CodesFaces p := by
  have face : ∀ k f, (if b.facePresent k f then b.planCode p k f == 0 else b.planCode p k f != 0) = false
      ↔ (b.facePresent k f = true ↔ b.planCode p k f ≠ 0) := by
    intro k f
    cases b.facePresent k f <;> simp
  simp only [Bank.planFaceFails, List.any_eq_false, Bool.not_eq_true, face, Prod.forall, mem_allFaces,
    true_implies, Bank.CodesFaces]

theorem Bank.planFittedFails_iff : b.planFittedFails p = false ↔ b.GivesFitted p := by
  have face : ∀ k f, (match Aspect.ofCode (b.planCode p k f) with
        | some a => !b.fitted (b.faceHead k f) a
        | none => false) = false
      ↔ ∀ a, Aspect.ofCode (b.planCode p k f) = some a → b.fitted (b.faceHead k f) a = true := by
    intro k f
    cases Aspect.ofCode (b.planCode p k f) <;> simp
  simp only [Bank.planFittedFails, List.any_eq_false, Bool.not_eq_true, Prod.forall, b.mem_faces,
    Bank.GivesFitted]
  exact forall₂_congr fun k f => (imp_congr_right fun _ => face k f).trans
    ⟨fun h a present coded => h present a coded, fun h present a coded => h a present coded⟩

theorem Bank.planTidalFails_iff : b.planTidalFails p = false ↔ b.SplitsTidal p := by
  simp only [Bank.planTidalFails, List.any_eq_false, mem_allLanes, true_implies, Bool.and_eq_true,
    permissiveCode_iff, and_assoc, not_and, Bank.SplitsTidal]

/-- A merge code leads nowhere, or to the lane beside, which the plan has to hold permissive. -/
theorem Bank.mergeFails_iff {k : Fin 4} {f : Face} (merge : b.planCode p k f = 2 ∨ b.planCode p k f = 3) :
    (match mergeLane k f (b.planCode p k f) with
      | none => true
      | some j => !(b.facePresent j f && permissiveCode (b.planCode p j f))) = false
    ↔ ∃ j : Fin 4, b.facePresent j f = true ∧ 1 ≤ b.planCode p j f ∧ b.planCode p j f ≤ 3
      ∧ (if (f = .asc ↔ b.planCode p k f = 2) then j.val + 1 = k.val else j.val = k.val + 1) := by
  have leads := mergeLane_iff (k := k) (f := f) merge
  cases lane : mergeLane k f (b.planCode p k f) with
  | none =>
    refine iff_of_false nofun ?_
    rintro ⟨j, -, -, -, beside⟩
    cases lane.symm.trans ((leads j).2 beside)
  | some j =>
    simp only [Bool.not_eq_false', Bool.and_eq_true, permissiveCode_iff]
    constructor
    · rintro ⟨present, low, high⟩
      exact ⟨j, present, low, high, (leads j).1 lane⟩
    · rintro ⟨j', present, low, high, beside⟩
      obtain rfl := Option.some.inj (lane.symm.trans ((leads j').2 beside))
      exact ⟨present, low, high⟩

theorem Bank.planMergeFails_iff : b.planMergeFails p = false ↔ b.MergesLead p := by
  simp only [Bank.planMergeFails, List.any_eq_false, Bool.not_eq_true, Prod.forall, b.mem_faces,
    Bank.MergesLead]
  refine forall₂_congr fun k f => imp_congr_right fun _ => ?_
  have code : inRange 2 3 (b.planCode p k f) = true ↔ b.planCode p k f = 2 ∨ b.planCode p k f = 3 := by
    rw [inRange_iff]
    omega
  by_cases merge : b.planCode p k f = 2 ∨ b.planCode p k f = 3
  · rw [if_pos (code.2 merge), imp_iff_right merge]
    exact Bank.mergeFails_iff merge
  · rw [if_neg fun h => merge (code.1 h)]
    exact iff_of_true rfl fun h => absurd h merge

/-- A plan that is not defined is not checked. -/
theorem Bank.checkPlan_none : b.checkPlan p = none ↔ (b.planDefined p = true → b.PlanSound p) := by
  cases defined : b.planDefined p
  · simp [Bank.checkPlan, defined]
  · simp only [Bank.checkPlan, defined, Bool.not_true, Bool.false_eq_true, if_false, true_implies, check_none,
      and_true, Bank.planFaceFails_iff, Bank.planFittedFails_iff, Bank.planTidalFails_iff,
      Bank.planMergeFails_iff, Bank.PlanSound]

/-- The first of the four checks that a plan fails gives the result. -/
def Bank.PlanFails (b : Bank) (p : Nat) (r : CommitResult) : Prop :=
  ¬b.PlanSound p
    ∧ (¬b.CodesFaces p → r = .planFace)
    ∧ (b.CodesFaces p → ¬b.GivesFitted p → r = .planNotFitted)
    ∧ (b.CodesFaces p → b.GivesFitted p → ¬b.SplitsTidal p → r = .planTidalConflict)
    ∧ (b.CodesFaces p → b.GivesFitted p → b.SplitsTidal p → r = .planMergeTarget)

theorem Bank.checkPlan_some {x : CommitFailure} (fails : b.checkPlan p = some x) :
    b.planDefined p = true ∧ x.table = 4 ∧ x.index = p - 1 ∧ b.PlanFails p x.result := by
  have defined : b.planDefined p = true := by
    by_contra undefined
    simp [Bank.checkPlan, undefined] at fails
  simp only [Bank.checkPlan, defined, Bool.not_true, Bool.false_eq_true, if_false, check_some] at fails
  refine ⟨defined, ?_⟩
  simp only [Bank.PlanFails, Bank.PlanSound, ← Bank.planFaceFails_iff, ← Bank.planFittedFails_iff,
    ← Bank.planTidalFails_iff, ← Bank.planMergeFails_iff]
  rcases fails with ⟨face, rfl⟩ | ⟨face, ⟨fitted, rfl⟩ | ⟨fitted, ⟨tidal, rfl⟩ | ⟨tidal, ⟨merge, rfl⟩ | ⟨-, none⟩⟩⟩⟩
  · simp [face]
  · simp [face, fitted]
  · simp [face, fitted, tidal]
  · simp [face, fitted, tidal, merge]
  · cases none

end

/-! ## All plans, and the fallback plan (R67, R71) -/

theorem Bank.checkPlans_none (b : Bank) :
    b.checkPlans = none ↔ ∀ p, b.planDefined p = true → b.PlanSound p := by
  simp only [b.checkPlans_eq, List.findSome?_eq_none_iff, List.mem_range, Bank.checkPlan_none]
  constructor
  · intro sound p defined
    obtain ⟨low, high⟩ := Bank.planDefined_range defined
    have plan : p - 1 + 1 = p := by omega
    exact plan ▸ sound (p - 1) (by omega) (plan.symm ▸ defined)
  · exact fun sound i _ => sound (i + 1)

theorem Bank.checkPlans_some {b : Bank} {x : CommitFailure} (fails : b.checkPlans = some x) :
    ∃ p, b.planDefined p = true ∧ x.table = 4 ∧ x.index + 1 = p ∧ b.PlanFails p x.result
      ∧ ∀ q < p, b.planDefined q = true → b.PlanSound q := by
  rw [b.checkPlans_eq, List.findSome?_eq_some_iff] at fails
  obtain ⟨before, i, after, whole, found, passed⟩ := fails
  obtain ⟨defined, table, index, first⟩ := Bank.checkPlan_some found
  refine ⟨i + 1, defined, table, by omega, first, fun q less defined' => ?_⟩
  obtain ⟨low, high⟩ := Bank.planDefined_range defined'
  have plan : q - 1 + 1 = q := by omega
  have earlier : q - 1 ∈ before := by
    refine mem_before (whole ▸ List.pairwise_lt_range (n := 64)) (whole ▸ List.mem_range.2 ?_) ?_ ?_
    all_goals omega
  exact plan ▸ Bank.checkPlan_none.1 (passed _ earlier) (plan.symm ▸ defined')

theorem Bank.checkFallback_none (b : Bank) : b.checkFallback = none ↔ b.fallbackPolicy = 0
    ∨ (b.planDefined b.fallbackPolicy = true ∧ ∀ k f, b.planCode b.fallbackPolicy k f ≠ 1) := by
  by_cases hold : b.fallbackPolicy = 0
  · simp [Bank.checkFallback, hold]
  · have coded : (allFaces.any fun kf => b.planCode b.fallbackPolicy kf.1 kf.2 == 1) = false
        ↔ ∀ k f, b.planCode b.fallbackPolicy k f ≠ 1 := by
      simp only [List.any_eq_false, Prod.forall, mem_allFaces, true_implies, beq_iff_eq, ne_eq]
    simp only [Bank.checkFallback, hold, if_false, false_or, ← coded, check_none, Bool.or_eq_false_iff,
      Bool.not_eq_false', and_true]

theorem Bank.checkFallback_some {b : Bank} {x : CommitFailure} (fails : b.checkFallback = some x) :
    x = ⟨.fallbackPlan, 5, 0⟩ := by
  simp only [Bank.checkFallback] at fails
  split at fails
  · cases fails
  · split at fails
    · exact (Option.some.inj fails).symm
    · cases fails

/-- Settles O41: the first plan of `checkPlans` that fails, with the first of its checks; the fallback plan by
itself. -/
theorem planConstraints : Obligations.PlanConstraints := by
  unfold Obligations.PlanConstraints
  intro b
  refine ⟨b.checkPlans_none, fun x fails => ?_, b.checkFallback_none, fun x => Bank.checkFallback_some⟩
  obtain ⟨p, defined, table, index, ⟨unsound, first⟩, earlier⟩ := Bank.checkPlans_some fails
  exact ⟨p, defined, table, index, unsound, earlier, first⟩

end Sys2Proof.Machine
end

section
/-! SUPPORT. The passing of time: what is due at one moment, and the timed commands at theirs (R64, R75, R79,
R120, R126; logs 1 and 2). -/

namespace Sys2Proof.Machine

/-! ## A millisecond with an empty queue (R75, log 1) -/

section
variable {s : State}

theorem step_empty (empty : s.pending = []) : step s = .next s.tick := by
  rw [step, empty]

theorem State.tick_held (held : s.held = true) : s.tick = s := if_pos held

theorem State.tick_unheld (unheld : s.held = false) : s.tick = (s.reach 1).due :=
  if_neg (by rw [unheld]; nofun)

theorem State.watchdogExpire_clock (s : State) : s.watchdogExpire.take.clock = s.take.clock := by
  unfold State.watchdogExpire
  split
  case h_1 =>
    obtain ⟨-, -, take, -⟩ := s.fallbackEntry_rest
    rw [take]
  all_goals rfl

theorem State.dueWatchdog_clock (s : State) : s.dueWatchdog.take.clock = s.take.clock := by
  unfold State.dueWatchdog
  split
  · exact s.watchdogExpire_clock
  · rfl

theorem State.commitComplete_clock (s : State) : s.commitComplete.take.clock = s.take.clock := by
  unfold State.commitComplete
  split
  · rw [s.commitOk_after, State.dueSlew_take]
    split
    · exact s.afterTimers.watchdogExpire_clock
    · rfl
  · rfl

theorem State.dueCommit_clock (s : State) : s.dueCommit.take.clock = s.take.clock := by
  unfold State.dueCommit
  split
  · exact s.commitComplete_clock
  · rfl

/-- What is due on a working node moves neither local time nor the clock. -/
theorem State.due_time (works : s.works = true) : s.due.now = s.now ∧ s.due.take.clock = s.take.clock := by
  obtain ⟨-, -, sample, -⟩ := State.dueSample_since
    s.dueCommit.dueWatchdog.dueUnheld.dueStales.dueSlew.dueTest.dueReading
  obtain ⟨test, -⟩ := s.dueCommit.dueWatchdog.dueUnheld.dueStales.dueSlew.dueTest_timing
  rw [State.due, State.dueRestart_of_works works]
  refine ⟨by simp, ?_⟩
  rw [sample, State.dueReading_take, test, State.dueSlew_take, State.dueStales_take, State.dueUnheld_take,
    State.dueWatchdog_clock, State.dueCommit_clock]

theorem State.settled_time (works : s.works = true) :
    s.settled.works = true ∧ s.settled.now = s.now ∧ s.settled.take.clock = s.take.clock := by
  unfold State.settled
  split
  · exact ⟨State.due_works (State.held_of_works works), State.due_time works⟩
  · exact ⟨works, rfl, rfl⟩

theorem State.reach_one (s : State) : s.reach 1 = s.settled.elapse 1 := by
  rw [State.reach, if_neg one_ne_zero]
  simp only [State.run, le_max_left, if_true]

/-- A millisecond of local time is one of the clock. -/
theorem State.tick_time (works : s.works = true) :
    s.tick.now = s.now + 1 ∧ s.tick.take.clock = s.take.clock + 1#32 := by
  obtain ⟨settled, now, clock⟩ := State.settled_time works
  have later : (s.settled.elapse 1).works = true := (State.works_of_node (State.elapse_node _ _)).trans settled
  obtain ⟨now', clock'⟩ := State.due_time later
  rw [State.tick_unheld (State.held_of_works works), State.reach_one, now', clock', ← now, ← clock]
  exact ⟨rfl, rfl⟩

/-- A stretch with something due at its beginning. -/
theorem State.reach_stretch {n : Nat} (positive : n ≠ 0) (due : s.untilNext = 0) :
    let m := max 1 s.due.untilNext
    s.reach n = if n ≤ m then s.due.elapse n else (s.due.elapse m).reach (n - m) :=
  State.reach_due positive due

end

/-! ## What is due at one moment (log 1) -/

section
variable {s : State}

theorem exec_restartEffect {k : RestartKind} (unheld : s.held = false) (pending : s.node.restartPending = some k)
    (due : s.restartIsDue = true) :
    s.nextRead.effectOf k ⟨s.node.straps, s.node.addrModeRing, Config.dieInput s.inputReads⟩ = s.dueRestart := by
  have left : s.node.restartDue = true := by simpa [State.restartIsDue, pending] using due
  rw [State.effectOf_due (s := s.nextRead) unheld pending left, State.dueRestart]
  simp only [pending, left]

theorem State.dueCommit_idle (idle : ¬(s.store.validating = true ∧ 20 ≤ s.store.commitAge)) : s.dueCommit = s := by
  rw [State.dueCommit, if_neg (by simpa using idle)]

theorem State.dueCommit_due (validating : s.store.validating = true) (age : 20 ≤ s.store.commitAge) :
    s.dueCommit = s.commitComplete := by
  rw [State.dueCommit, if_pos (by simp [validating, age])]

theorem State.watchdogDue_iff (s : State) : s.watchdogDue = true ↔
    s.watchdog.armed = true ∧ ∃ t ∈ s.watchdog.start, t + s.store.active.watchdogMs ≤ s.now := by
  unfold State.watchdogDue
  rw [Bool.and_eq_true]
  cases s.watchdog.start <;> simp

theorem State.dueWatchdog_idle (idle : ¬(s.watchdog.armed = true
    ∧ ∃ t ∈ s.watchdog.start, t + s.store.active.watchdogMs ≤ s.now)) : s.dueWatchdog = s :=
  if_neg fun due => idle (s.watchdogDue_iff.1 due)

/-- Fallback entry, block by block. -/
theorem State.fallbackEntry_eq (s : State) : s.fallbackEntry = { s with
    node := { s.node with mode := .fallback, hold := false }
    events := s.events.post ⟨.fallbackEntered, 0, 0, s.take.clock⟩
    take := { s.take with
      pendingPlan := none, schedule := [], scheduleFull := false
      currentPlan := s.store.active.fallbackPolicy }
    watchdog := { s.watchdog with start := some s.now, stream := false }
    gantry := ({ s.env with mode := .fallback, hold := false } : Env).fallenBack s.gantry } := by
  rw [← s.fallbackEntry_gantry]
  rfl

section
variable (due : s.watchdog.armed = true ∧ ∃ t ∈ s.watchdog.start, t + s.store.active.watchdogMs ≤ s.now)
include due

/-- In FALLBACK the watchdog starts again, with no stream (R132). -/
theorem State.dueWatchdog_again (mode : s.node.mode = .fallback) :
    s.dueWatchdog = { s with watchdog := { armed := true, start := some s.now, stream := false } } := by
  rw [State.dueWatchdog, if_pos (s.watchdogDue_iff.2 due), State.watchdogExpire, mode,
    ← Watchdog.restart_eq due.1 s.now]

/-- In IN_SERVICE it brings fallback entry (R126, R128). -/
theorem State.dueWatchdog_entry (mode : s.node.mode = .inService) : s.dueWatchdog = { s with
    node := { s.node with mode := .fallback, hold := false }
    events := s.events.post ⟨.fallbackEntered, 0, 0, s.take.clock⟩
    take := { s.take with
      pendingPlan := none, schedule := [], scheduleFull := false
      currentPlan := s.store.active.fallbackPolicy }
    watchdog := { armed := true, start := some s.now, stream := false }
    gantry := ({ s.env with mode := .fallback, hold := false } : Env).fallenBack s.gantry } := by
  rw [State.dueWatchdog, if_pos (s.watchdogDue_iff.2 due), State.watchdogExpire, mode,
    ← Watchdog.restart_eq due.1 s.now]
  exact s.fallbackEntry_eq

end

theorem State.dueUnheld_completed (s : State) : s.dueUnheld = if s.node.hold = true then s else
    let done := s.env.completed true (fun _ => true) true s.take.clock s.gantry s.events
    { s with gantry := done.1, events := done.2 } := by
  rw [State.dueUnheld, s.dueSequencer_completed]

/-- A fresh record whose stale limit is up. -/
theorem State.expires_eq (s : State) (n : Neighbour) :
    s.expires n = (n.fresh && n.lastRefresh.any fun t => decide (t + s.store.active.staleMs ≤ s.now)) := by
  unfold State.expires
  cases n.lastRefresh <;> rfl

theorem State.expires_iff (s : State) (n : Neighbour) : s.expires n = true ↔
    n.fresh = true ∧ ∃ t ∈ n.lastRefresh, t + s.store.active.staleMs ≤ s.now := by
  rw [s.expires_eq, Bool.and_eq_true]
  cases n.lastRefresh <;> simp

/-- A record goes stale under bank `b`: the heads that reference it re-test against the records so left. -/
def State.wentStale (b : Bank) (u : State) (n : Neighbour) : State :=
  let records := u.sweep.records.map fun (r : Neighbour) =>
    if r.address = n.address ∧ r.head = n.head then { r with fresh := false } else r
  { u with
    sweep := { u.sweep with records := records }
    gantry := Env.retestAll { u.env with records := records } (b.existing.filter fun h => b.refersTo h n) u.gantry }

theorem State.goStales_eq (b : Bank) (l : List Neighbour) (u : State) (bank : u.store.active = b) :
    l.foldl State.goStale u = l.foldl (State.wentStale b) u := by
  induction l generalizing u with
  | nil => rfl
  | cons n l ih =>
    have one : u.goStale n = u.wentStale b n := by
      subst bank
      rfl
    rw [List.foldl_cons, List.foldl_cons, one]
    exact ih _ bank

theorem State.dueStales_eq (s : State) : s.dueStales = (s.sweep.records.filter fun n =>
    n.fresh && n.lastRefresh.any fun t => decide (t + s.store.active.staleMs ≤ s.now)).foldl
      (State.wentStale s.store.active) s := by
  rw [State.dueStales, funext s.expires_eq]
  exact State.goStales_eq _ _ s rfl

theorem State.dueSlew_idle (idle : ¬∃ n ∈ s.gantry.slew, s.store.active.slewTickMs ≤ n) : s.dueSlew = s :=
  if_neg fun due => idle (s.slewDue_iff.1 due)

theorem State.dueReading_idle (early : s.lamp.sinceReading < 1000) : s.dueReading = s :=
  if_neg (Nat.not_le.2 early)

theorem State.dueReading_due (late : 1000 ≤ s.lamp.sinceReading) :
    s.dueReading = s.nextRead.atReading.readTemperature (Config.dieInput s.inputReads) := if_pos late

theorem State.dueSample_idle (early : s.lamp.sinceSample < 100) : s.dueSample = s :=
  if_neg (Nat.not_le.2 early)

theorem State.dueSample_due (late : 100 ≤ s.lamp.sinceSample) : s.dueSample = s.nextRead.atSample.sample
    (allChannels.map fun c => Config.senseInput s.inputReads c.val) := if_pos late

/-- Neither a reading nor a sample makes an entry due. -/
theorem State.noneDue_readTemperature (none : s.noneDue) (reading : Int) : (s.readTemperature reading).noneDue :=
  State.noneDue_of_eq none (by simp) (by simp)

theorem State.noneDue_sample (none : s.noneDue) (m : List Nat) : (s.sample m).noneDue := by
  obtain ⟨clock, schedule | schedule, -⟩ := s.sample_timing m
  · exact State.noneDue_of_eq none clock schedule
  · exact State.noneDue_of_empty schedule

end

/-! ## The timed commands, while their timers run (log 2) -/

/-- The merge dwell of one head completes where it is due in unheld time (R94). -/
def State.dueDwell (h : Fin 8) (u : State) : State :=
  if !u.node.hold && u.env.dwellDue h u.gantry then u.seq fun e => e.dwellComplete h else u

/-- The clearance of one lane (R89). -/
def State.dueClearance (k : Fin 4) (u : State) : State :=
  if !u.node.hold && u.env.clearanceDue k u.gantry then u.seq fun e => e.clearanceComplete k else u

/-- The stall of one head (R101). -/
def State.dueStall (h : Fin 8) (u : State) : State :=
  if !u.node.hold && u.env.stallDue h u.gantry then u.stallHead h else u

/-- The record of one pair goes stale where its limit is up (R120). -/
def State.dueStale (r : Reference) (u : State) : State :=
  match findRecord u.sweep.records r with
  | none => u
  | some n => if u.expires n then u.goStale n else u

/-- A temperature reading where its second is up (R144). -/
def State.takeReading (reading : Int) (u : State) : State :=
  if 1000 ≤ u.lamp.sinceReading then u.atReading.readTemperature reading else u

/-- A lamp sample where its 100 ms are up (R148). -/
def State.takeSample (m : List Nat) (u : State) : State :=
  if 100 ≤ u.lamp.sinceSample then u.atSample.sample m else u

section
variable {s : State} (works : s.works = true)
include works

theorem exec_watchdogExpiry_running {t : Nat} (armed : s.watchdog.armed = true) (start : s.watchdog.start = some t) :
    exec .watchdogExpiry s = .next (s.timed (t + s.store.active.watchdogMs - s.now) State.dueWatchdog) := by
  rw [exec_watchdogExpiry_eq, execWatchdogExpiry, live_works works]
  simp only [armed, start]

theorem exec_mergeDwellCompletion_running {h : Fin 8} (unheld : s.node.hold = false)
    (present : s.store.active.headExists h = true) (merging : s.gantry.heads[h].stage = some .merging) :
    exec (.mergeDwellCompletion h) s
      = .next (s.timed (s.store.active.dwellMs - s.gantry.heads[h].mergeServed) (State.dueDwell h)) := by
  rw [exec_mergeDwellCompletion_eq, execMergeDwellCompletion, live_works works,
    if_pos (by simp only [unheld, present, merging]; rfl)]
  rfl

theorem exec_clearanceCompletion_running {k : Fin 4} (unheld : s.node.hold = false)
    (tidal : s.store.active.tidal k = true) (runs : s.gantry.lanes[k].clearSince ≠ none)
    (unclear : s.gantry.lanes[k].clear = false) : exec (.clearanceCompletion k) s
      = .next (s.timed (s.store.active.clearanceMs k - s.gantry.lanes[k].clearCount) (State.dueClearance k)) := by
  rw [exec_clearanceCompletion_eq, execClearanceCompletion, live_works works,
    if_pos (by simp only [unheld, tidal, Option.isSome_iff_ne_none.2 runs, unclear]; rfl)]
  rfl

theorem exec_stallTimeout_running {h : Fin 8} (unheld : s.node.hold = false)
    (present : s.store.active.headExists h = true)
    (waits : s.gantry.heads[h].stage = some .closeWait ∨ s.gantry.heads[h].stage = some .openingWait)
    (unstalled : s.gantry.heads[h].stalled = false) : exec (.stallTimeout h) s
      = .next (s.timed (s.store.active.stallMs - s.gantry.heads[h].waitTime) (State.dueStall h)) := by
  have waiting : s.gantry.heads[h].waiting = true := by simpa [Head.waiting] using waits
  rw [exec_stallTimeout_eq, execStallTimeout, live_works works,
    if_pos (by simp only [unheld, present, waiting, unstalled]; rfl)]
  rfl

theorem exec_staleExpiry_running {a : Byte} {h : Fin 8} {n : Neighbour} {t : Nat}
    (found : findRecord s.sweep.records ⟨a, h⟩ = some n) (fresh : n.fresh = true)
    (refreshed : n.lastRefresh = some t) : exec (.staleExpiry a h) s
      = .next (s.timed (t + s.store.active.staleMs - s.now) (State.dueStale ⟨a, h⟩)) := by
  rw [exec_staleExpiry_eq, execStaleExpiry, live_works works]
  simp only [found, fresh, refreshed]
  rfl

theorem exec_slewTick_running {n : Nat} (runs : s.gantry.slew = some n) :
    exec .slewTick s = .next (s.timed (s.store.active.slewTickMs - n) State.dueSlew) := by
  rw [exec_slewTick_eq, execSlewTick, live_works works]
  simp only [runs]

theorem exec_temperatureSample_running (reading : Int) : exec (.temperatureSample reading) s
    = .next (s.timed (1000 - s.lamp.sinceReading) (State.takeReading reading)) := by
  rw [exec_temperatureSample_eq, execTemperatureSample, live_works works]
  rfl

theorem exec_sampleEvent_running (m : List Nat) :
    exec (.sampleEvent m) s = .next (s.timed (100 - s.lamp.sinceSample) (State.takeSample m)) := by
  rw [exec_sampleEvent_eq, execSampleEvent, live_works works]
  rfl

end

/-! ## The timed commands at their moments -/

/-- A timed command with no time left is its event and the test of the schedule. -/
theorem State.timed_overdue (s : State) {n m : Nat} (late : n ≤ m) (event : State → State) :
    s.timed (n - m) event = (event s).dueTest := by
  rw [Nat.sub_eq_zero_of_le late, State.timed_zero]

theorem State.dueDwell_idle {h : Fin 8} {u : State} (idle : ¬(u.node.hold = false
    ∧ u.store.active.headExists h = true ∧ u.gantry.heads[h].stage = some .merging
    ∧ u.store.active.dwellMs ≤ u.gantry.heads[h].mergeServed)) : u.dueDwell h = u := by
  refine if_neg fun due => idle ?_
  rw [Bool.and_eq_true, Bool.not_eq_true'] at due
  exact ⟨due.1, Env.dwellDue_iff.1 due.2⟩

theorem State.dueClearance_idle {k : Fin 4} {u : State} (idle : ¬(u.node.hold = false
    ∧ u.store.active.tidal k = true ∧ u.gantry.lanes[k].clearSince ≠ none ∧ u.gantry.lanes[k].clear = false
    ∧ u.store.active.clearanceMs k ≤ u.gantry.lanes[k].clearCount)) : u.dueClearance k = u := by
  refine if_neg fun due => idle ?_
  rw [Bool.and_eq_true, Bool.not_eq_true'] at due
  exact ⟨due.1, Env.clearanceDue_iff.1 due.2⟩

theorem State.dueStall_idle {h : Fin 8} {u : State} (idle : ¬(u.node.hold = false
    ∧ u.store.active.headExists h = true
    ∧ (u.gantry.heads[h].stage = some .closeWait ∨ u.gantry.heads[h].stage = some .openingWait)
    ∧ u.gantry.heads[h].stalled = false ∧ u.store.active.stallMs ≤ u.gantry.heads[h].waitTime)) :
    u.dueStall h = u := by
  refine if_neg fun due => idle ?_
  rw [Bool.and_eq_true, Bool.not_eq_true'] at due
  exact ⟨due.1, Env.stallDue_iff.1 due.2⟩

theorem State.dueStale_idle {r : Reference} {u : State} (idle : ¬∃ n ∈ findRecord u.sweep.records r,
    n.fresh = true ∧ ∃ t ∈ n.lastRefresh, t + u.store.active.staleMs ≤ u.now) : u.dueStale r = u := by
  unfold State.dueStale
  split
  · rfl
  · rename_i n found
    exact if_neg fun due => idle ⟨n, found, (u.expires_iff n).1 due⟩

/-- The command `c` comes to a moment `n` ms away: it is the command at the state that time has then reached, and
where its timer is due there no more, the test of the schedule. -/
def State.ComesTo (s : State) (c : Instr) (n : Nat) (due : State → Prop) : Prop :=
  (s.reach n).works = true ∧ (due (s.reach n) → exec c s = exec c (s.reach n))
    ∧ (¬due (s.reach n) → exec c s = .next (s.reach n).dueTest)

section
variable {s : State} (works : s.works = true)
include works

theorem watchdogExpiry_comesTo (armed : s.watchdog.armed = true) {t : Nat} (start : s.watchdog.start = some t) :
    s.ComesTo .watchdogExpiry (t + s.store.active.watchdogMs - s.now) fun u => u.watchdog.armed = true
      ∧ ∃ t ∈ u.watchdog.start, t + u.store.active.watchdogMs ≤ u.now := by
  refine exec_timed works (exec_watchdogExpiry_running works armed start) (fun u works' due => ?_)
    fun u idle => State.dueWatchdog_idle idle
  obtain ⟨armed', t', start', late⟩ := due
  rw [exec_watchdogExpiry_running works' armed' start', u.timed_overdue late]

theorem mergeDwellCompletion_comesTo (unheld : s.node.hold = false) {h : Fin 8}
    (present : s.store.active.headExists h = true) (merging : s.gantry.heads[h].stage = some .merging) :
    s.ComesTo (.mergeDwellCompletion h) (s.store.active.dwellMs - s.gantry.heads[h].mergeServed) fun u =>
      u.node.hold = false ∧ u.store.active.headExists h = true ∧ u.gantry.heads[h].stage = some .merging
        ∧ u.store.active.dwellMs ≤ u.gantry.heads[h].mergeServed := by
  refine exec_timed works (exec_mergeDwellCompletion_running works unheld present merging)
    (fun u works' due => ?_) fun u idle => State.dueDwell_idle idle
  obtain ⟨unheld', present', merging', late⟩ := due
  rw [exec_mergeDwellCompletion_running works' unheld' present' merging', u.timed_overdue late]

theorem clearanceCompletion_comesTo (unheld : s.node.hold = false) {k : Fin 4}
    (tidal : s.store.active.tidal k = true) (runs : s.gantry.lanes[k].clearSince ≠ none)
    (unclear : s.gantry.lanes[k].clear = false) :
    s.ComesTo (.clearanceCompletion k) (s.store.active.clearanceMs k - s.gantry.lanes[k].clearCount) fun u =>
      u.node.hold = false ∧ u.store.active.tidal k = true ∧ u.gantry.lanes[k].clearSince ≠ none
        ∧ u.gantry.lanes[k].clear = false ∧ u.store.active.clearanceMs k ≤ u.gantry.lanes[k].clearCount := by
  refine exec_timed works (exec_clearanceCompletion_running works unheld tidal runs unclear)
    (fun u works' due => ?_) fun u idle => State.dueClearance_idle idle
  obtain ⟨unheld', tidal', runs', unclear', late⟩ := due
  rw [exec_clearanceCompletion_running works' unheld' tidal' runs' unclear', u.timed_overdue late]

theorem stallTimeout_comesTo (unheld : s.node.hold = false) {h : Fin 8}
    (present : s.store.active.headExists h = true)
    (waits : s.gantry.heads[h].stage = some .closeWait ∨ s.gantry.heads[h].stage = some .openingWait)
    (unstalled : s.gantry.heads[h].stalled = false) :
    s.ComesTo (.stallTimeout h) (s.store.active.stallMs - s.gantry.heads[h].waitTime) fun u =>
      u.node.hold = false ∧ u.store.active.headExists h = true
        ∧ (u.gantry.heads[h].stage = some .closeWait ∨ u.gantry.heads[h].stage = some .openingWait)
        ∧ u.gantry.heads[h].stalled = false ∧ u.store.active.stallMs ≤ u.gantry.heads[h].waitTime := by
  refine exec_timed works (exec_stallTimeout_running works unheld present waits unstalled)
    (fun u works' due => ?_) fun u idle => State.dueStall_idle idle
  obtain ⟨unheld', present', waits', unstalled', late⟩ := due
  rw [exec_stallTimeout_running works' unheld' present' waits' unstalled', u.timed_overdue late]

theorem staleExpiry_comesTo {a : Byte} {h : Fin 8} {n : Neighbour} {t : Nat}
    (found : findRecord s.sweep.records ⟨a, h⟩ = some n) (fresh : n.fresh = true)
    (refreshed : n.lastRefresh = some t) :
    s.ComesTo (.staleExpiry a h) (t + s.store.active.staleMs - s.now) fun u =>
      ∃ n ∈ findRecord u.sweep.records ⟨a, h⟩, n.fresh = true
        ∧ ∃ t ∈ n.lastRefresh, t + u.store.active.staleMs ≤ u.now := by
  refine exec_timed works (exec_staleExpiry_running works found fresh refreshed) (fun u works' due => ?_)
    fun u idle => State.dueStale_idle idle
  obtain ⟨n', found', fresh', t', refreshed', late⟩ := due
  rw [exec_staleExpiry_running works' found' fresh' refreshed', u.timed_overdue late]

theorem slewTick_comesTo {n : Nat} (runs : s.gantry.slew = some n) :
    s.ComesTo .slewTick (s.store.active.slewTickMs - n) fun u =>
      ∃ n ∈ u.gantry.slew, u.store.active.slewTickMs ≤ n := by
  refine exec_timed works (exec_slewTick_running works runs) (fun u works' due => ?_)
    fun u idle => State.dueSlew_idle idle
  obtain ⟨n', runs', late⟩ := due
  rw [exec_slewTick_running works' runs', u.timed_overdue late]

theorem temperatureSample_comesTo (reading : Int) :
    s.ComesTo (.temperatureSample reading) (1000 - s.lamp.sinceReading) fun u => 1000 ≤ u.lamp.sinceReading :=
  exec_timed works (exec_temperatureSample_running works reading)
    (fun u works' late => by rw [exec_temperatureSample_running works', u.timed_overdue late])
    fun _ early => if_neg early

theorem sampleEvent_comesTo (m : List Nat) :
    s.ComesTo (.sampleEvent m) (100 - s.lamp.sinceSample) fun u => 100 ≤ u.lamp.sinceSample :=
  exec_timed works (exec_sampleEvent_running works m)
    (fun u works' late => by rw [exec_sampleEvent_running works', u.timed_overdue late])
    fun _ early => if_neg early

/-- A reading that is due, by its command. -/
theorem exec_temperatureSample_due (none : s.noneDue) (late : 1000 ≤ s.lamp.sinceReading) :
    exec (.temperatureSample (Config.dieInput s.inputReads)) s.nextRead = .next s.dueReading := by
  have quiet := State.noneDue_readTemperature (s := s.nextRead.atReading) none (Config.dieInput s.inputReads)
  have late' : 1000 ≤ s.nextRead.lamp.sinceReading := late
  rw [exec_temperatureSample_running (s := s.nextRead) works, State.timed_overdue _ late', State.takeReading,
    if_pos late', State.dueTest_quiet quiet, State.dueReading_due late]

/-- A sample that is due, by its command. -/
theorem exec_sampleEvent_due (none : s.noneDue) (late : 100 ≤ s.lamp.sinceSample) :
    exec (.sampleEvent (allChannels.map fun c => Config.senseInput s.inputReads c.val)) s.nextRead
      = .next s.dueSample := by
  have quiet := State.noneDue_sample (s := s.nextRead.atSample) none
    (allChannels.map fun c => Config.senseInput s.inputReads c.val)
  have late' : 100 ≤ s.nextRead.lamp.sinceSample := late
  rw [exec_sampleEvent_running (s := s.nextRead) works, State.timed_overdue _ late', State.takeSample,
    if_pos late', State.dueTest_quiet quiet, State.dueSample_due late]

end

/-! ## The stretches (log 2) -/

section
variable {s : State}

/-- The watchdog's interval is up no earlier than the next timed event. -/
theorem State.untilNext_le_watchdog (armed : s.watchdog.armed = true) {t : Nat} (start : s.watchdog.start = some t) :
    s.untilNext ≤ t + s.store.active.watchdogMs - s.now :=
  State.untilNext_le_of_mem (by simp [State.untilTimers, armed, start])

theorem State.untilNext_le_slew {n : Nat} (runs : s.gantry.slew = some n) :
    s.untilNext ≤ s.store.active.slewTickMs - n :=
  State.untilNext_le_of_mem (by simp [State.untilTimers, runs])

theorem State.untilNext_le_sequencer {x : Nat} (mem : x ∈ s.untilSequencer) : s.untilNext ≤ x :=
  State.untilNext_le_of_mem (by simp [State.untilTimers, mem])

variable (unheld : s.node.hold = false)
include unheld

theorem State.untilNext_le_dwell {h : Fin 8} (present : s.store.active.headExists h = true)
    (merging : s.gantry.heads[h].stage = some .merging) :
    s.untilNext ≤ s.store.active.dwellMs - s.gantry.heads[h].mergeServed := by
  refine State.untilNext_le_sequencer ?_
  rw [State.untilSequencer, if_neg (by simp [unheld])]
  refine List.mem_append_left _ (List.mem_append_left _ (List.mem_map_of_mem (List.mem_filter.2 ⟨mem_allHeads h, ?_⟩)))
  simp only [present, merging]
  rfl

theorem State.untilNext_le_clearance {k : Fin 4} (tidal : s.store.active.tidal k = true)
    (runs : s.gantry.lanes[k].clearSince ≠ none) (unclear : s.gantry.lanes[k].clear = false) :
    s.untilNext ≤ s.store.active.clearanceMs k - s.gantry.lanes[k].clearCount := by
  refine State.untilNext_le_sequencer ?_
  rw [State.untilSequencer, if_neg (by simp [unheld])]
  refine List.mem_append_left _ (List.mem_append_right _ (List.mem_map_of_mem (List.mem_filter.2 ⟨mem_allLanes k, ?_⟩)))
  simp only [tidal, Option.isSome_iff_ne_none.2 runs, unclear]
  rfl

theorem State.untilNext_le_stall {h : Fin 8} (present : s.store.active.headExists h = true)
    (waits : s.gantry.heads[h].stage = some .closeWait ∨ s.gantry.heads[h].stage = some .openingWait)
    (unstalled : s.gantry.heads[h].stalled = false) :
    s.untilNext ≤ s.store.active.stallMs - s.gantry.heads[h].waitTime := by
  have waiting : s.gantry.heads[h].waiting = true := by simpa [Head.waiting] using waits
  refine State.untilNext_le_sequencer ?_
  rw [State.untilSequencer, if_neg (by simp [unheld])]
  refine List.mem_append_right _ (List.mem_map_of_mem (List.mem_filter.2 ⟨mem_allHeads h, ?_⟩))
  simp only [present, waiting, unstalled]
  rfl

end

section
variable (s : State) (n : Nat)

theorem State.elapse_store : (s.elapse n).store = { s.store with
    commitAge := s.store.commitAge + if s.store.validating then n else 0 } := by
  simp only [State.elapse]
  cases s.store.validating <;> rfl

/-- A count that runs while its moment is set. -/
theorem count_runs (since : Option Nat) (x n : Nat) :
    (if since.isSome then x + n else x) = x + if since ≠ none then n else 0 := by
  cases since <;> simp

theorem Head.elapse_eq (n : Nat) (hd : Head) : hd.elapse n = { hd with
    mergeServed := hd.mergeServed + if hd.mergeSince ≠ none then n else 0
    waitTime := hd.waitTime + if hd.waitStart ≠ none then n else 0 } := by
  simp only [Head.elapse, count_runs]

theorem Lane.elapse_eq (n : Nat) (l : Lane) :
    l.elapse n = { l with clearCount := l.clearCount + if l.clearSince ≠ none then n else 0 } := by
  simp only [Lane.elapse, count_runs]

theorem State.elapse_heads (h : Fin 8) : (s.elapse n).gantry.heads[h] = { s.gantry.heads[h] with
    mergeServed := s.gantry.heads[h].mergeServed
      + if s.node.hold = false ∧ s.gantry.heads[h].mergeSince ≠ none then n else 0
    waitTime := s.gantry.heads[h].waitTime
      + if s.node.hold = false ∧ s.gantry.heads[h].waitStart ≠ none then n else 0 } := by
  by_cases held : s.node.hold = true
  · simp [State.elapse, Gantry.elapse, held]
  · have later : (s.elapse n).gantry.heads[h] = s.gantry.heads[h].elapse n := by
      simp [State.elapse, Gantry.elapse, held]
    rw [later, Head.elapse_eq]
    simp [held]

theorem State.elapse_lanes (k : Fin 4) : (s.elapse n).gantry.lanes[k] = { s.gantry.lanes[k] with
    clearCount := s.gantry.lanes[k].clearCount
      + if s.node.hold = false ∧ s.gantry.lanes[k].clearSince ≠ none then n else 0 } := by
  by_cases held : s.node.hold = true
  · simp [State.elapse, Gantry.elapse, held]
  · have later : (s.elapse n).gantry.lanes[k] = s.gantry.lanes[k].elapse n := by
      simp [State.elapse, Gantry.elapse, held]
    rw [later, Lane.elapse_eq]
    simp [held]

/-- In a stretch clock, ages and slew count advance, the sequencer's counts in unheld time alone. -/
theorem State.elapse_eq : s.elapse n = { s with
    now := s.now + n
    take := { s.take with clock := s.take.clock + BitVec.ofNat 32 n }
    store := { s.store with commitAge := s.store.commitAge + if s.store.validating then n else 0 }
    lamp := { s.lamp with
      sinceReading := s.lamp.sinceReading + n, sinceSample := s.lamp.sinceSample + n }
    gantry := { (s.elapse n).gantry with channels := s.gantry.channels } } := by
  rw [← s.elapse_store n]
  rfl

end

/-! ## The statement's parts -/

/-- What is due at one moment, event by event. -/
theorem State.due_events (s : State) :
    let b := s.store.active
    let read := { s with inputReads := s.inputReads + 1 }
    let p : ResetInputs := ⟨s.node.straps, s.node.addrModeRing, Config.dieInput s.inputReads⟩
    (s.restartIsDue = true → s.held = false → s.dueRestart.works = true
      ∧ (s.node.restartPending = some .keepTables →
          exec (.keepTablesRestartEffect p) read = .next s.dueRestart)
      ∧ (s.node.restartPending = some .full →
          exec (.fullRestartEffect p) read = .next s.dueRestart))
    ∧ (s.works = true → s.store.validating = true → 20 ≤ s.store.commitAge →
        exec .commitCompletion s = .next s.dueCommit)
    ∧ (s.works = true → ∀ n ∈ s.gantry.slew, b.slewTickMs ≤ n →
        exec .slewTick s = .next s.dueSlew.dueTest) := by
  refine ⟨fun due unheld => ⟨State.dueRestart_works unheld, fun pending => ?_, fun pending => ?_⟩,
    fun works validating age => ?_, fun works n runs late => ?_⟩
  · exact congrArg Host.Outcome.next (exec_restartEffect unheld pending due)
  · exact congrArg Host.Outcome.next (exec_restartEffect unheld pending due)
  · rw [exec_commitCompletion works validating, State.dueCommit_due validating age]
  · rw [exec_slewTick_running works runs, s.timed_overdue late]

/-- Settles O3: a step on an empty queue by `State.tick`, the stretches by `State.reach`, what is due by
`State.due`, and each timed command by `State.ComesTo`. -/
theorem emptyQueuePassesAMillisecond : Obligations.EmptyQueuePassesAMillisecond := by
  unfold Obligations.EmptyQueuePassesAMillisecond
  refine ⟨fun s empty held => ?_, fun s empty works => ?_, fun s empty unheld => ?_,
    fun s n => State.reach_of_le, fun s n => State.reach_past, fun s n => State.reach_stretch, fun s => rfl,
    fun s => ?_, fun s works => ?_, fun s => ?_, fun s n => ?_⟩
  · rw [step_empty empty, State.tick_held held]
  · obtain ⟨now, clock⟩ := State.tick_time works
    exact ⟨s.tick, step_empty empty, now, clock, s.tick_pending.trans empty⟩
  · rw [step_empty empty, State.tick_unheld unheld]
  · obtain ⟨restart, commit, slew⟩ := s.due_events
    exact ⟨State.dueRestart_of_not_due, restart, State.dueCommit_idle, commit, State.dueWatchdog_idle,
      State.dueWatchdog_again, State.dueWatchdog_entry, s.dueUnheld_completed, s.dueStales_eq,
      fun idle => State.dueSlew_idle fun ⟨n, runs, late⟩ => absurd late (Nat.not_le.2 (idle n runs)), slew,
      State.dueReading_idle, exec_temperatureSample_due, State.dueSample_idle, exec_sampleEvent_due⟩
  · refine ⟨fun armed t start => watchdogExpiry_comesTo works armed start,
      fun unheld => ⟨fun h present merging => mergeDwellCompletion_comesTo works unheld present merging,
        fun k tidal runs unclear => clearanceCompletion_comesTo works unheld tidal runs unclear,
        fun h present waits unstalled => stallTimeout_comesTo works unheld present waits unstalled⟩,
      fun a h n found fresh t refreshed => staleExpiry_comesTo works found fresh refreshed,
      fun n runs => slewTick_comesTo works runs, fun e first => ?_, temperatureSample_comesTo works,
      sampleEvent_comesTo works⟩
    obtain ⟨rest, schedule⟩ := List.head?_eq_some_iff.1 first
    exact exec_scheduleFiring works schedule
  · exact ⟨s.untilNext_le_reading, s.untilNext_le_sample, State.untilNext_le_commit,
      fun armed t start => State.untilNext_le_watchdog armed start,
      fun x mem fresh t refreshed => State.untilNext_le_stale mem fresh refreshed,
      fun c runs => State.untilNext_le_slew runs, fun e mem => State.untilNext_le_entry mem,
      fun unheld => ⟨fun h => State.untilNext_le_dwell unheld, fun k => State.untilNext_le_clearance unheld,
        fun h => State.untilNext_le_stall unheld⟩⟩
  · exact ⟨s.elapse_eq n, rfl, s.elapse_heads n, s.elapse_lanes n⟩

end Sys2Proof.Machine
end

section
/-! SUPPORT. What keeps the faces of TIDAL lanes apart and their clearances true (R88, R89): the condition on
the gantry, the gantries that meet it, and the sequencer's acts. -/

namespace Sys2Proof.Machine

/-! ## The condition on the gantry -/

/-- What `State.lanesSafe` asks of the gantry under a model and a mode. -/
def Gantry.lanesSafe (g : Gantry) (b : Bank) (m : Mode) : Prop :=
  ((∀ h : Fin 8, g.heads[h].fits m) ∧ g.facesOpposed b) ∧ g.clearsSound b m

/-- What it asks of the model: once there is one, faces and heads correspond (R15). -/
def State.laneHeadsSound (s : State) : Prop :=
  s.node.tablesValid = true ∨ s.node.mode ≠ .unconfigured →
    s.store.active.checkLaneHeads s.store.active.faces [] = none

theorem State.lanesSafe_iff (s : State) :
    s.lanesSafe ↔ s.laneHeadsSound ∧ s.gantry.lanesSafe s.store.active s.node.mode := by
  unfold State.lanesSafe State.laneHeadsSound Gantry.lanesSafe
  rw [and_assoc]

/-- `g'` shows what `g` shows, in the same stages; clearances stand, or count on. -/
structure Gantry.Stands (g g' : Gantry) : Prop where
  displayed : ∀ h : Fin 8, g'.heads[h].displayed = g.heads[h].displayed
  stage : ∀ h : Fin 8, g'.heads[h].stage = g.heads[h].stage
  test : ∀ h : Fin 8, g'.heads[h].test = g.heads[h].test
  since : ∀ k : Fin 4, g'.lanes[k].clearSince = g.lanes[k].clearSince
  clear : ∀ k : Fin 4, g'.lanes[k].clear = g.lanes[k].clear
  count : ∀ k : Fin 4, g.lanes[k].clearCount ≤ g'.lanes[k].clearCount

/-- The lanes stand where the heads alone have changed. -/
theorem Gantry.Stands.of_heads {g g' : Gantry} (lanes : g'.lanes = g.lanes)
    (displayed : ∀ h : Fin 8, g'.heads[h].displayed = g.heads[h].displayed)
    (stage : ∀ h : Fin 8, g'.heads[h].stage = g.heads[h].stage)
    (test : ∀ h : Fin 8, g'.heads[h].test = g.heads[h].test) : g.Stands g' :=
  ⟨displayed, stage, test, fun _ => by rw [lanes], fun _ => by rw [lanes], fun _ => by rw [lanes]⟩

/-- The heads stand where the lanes alone have changed. -/
theorem Gantry.Stands.of_lanes {g g' : Gantry} (heads : g'.heads = g.heads)
    (since : ∀ k : Fin 4, g'.lanes[k].clearSince = g.lanes[k].clearSince)
    (clear : ∀ k : Fin 4, g'.lanes[k].clear = g.lanes[k].clear)
    (count : ∀ k : Fin 4, g.lanes[k].clearCount ≤ g'.lanes[k].clearCount) : g.Stands g' :=
  ⟨fun _ => by rw [heads], fun _ => by rw [heads], fun _ => by rw [heads], since, clear, count⟩

/-- Channels and slew timer do not count. -/
theorem Gantry.Stands.of_lamps {g g' : Gantry} (heads : g'.heads = g.heads) (lanes : g'.lanes = g.lanes) :
    g.Stands g' :=
  .of_heads lanes (fun _ => by rw [heads]) (fun _ => by rw [heads]) fun _ => by rw [heads]

/-- Heads relit that show what they showed. -/
theorem Gantry.Stands.of_relight {g : Gantry} (old new : Bank) (forced : Fin 8 → Bool) {heads : Vector Head 8}
    (same : ∀ h : Fin 8, heads[h].displayed = g.heads[h].displayed ∧ heads[h].stage = g.heads[h].stage
      ∧ heads[h].test = g.heads[h].test) : g.Stands (g.relight old new forced heads) := by
  have but := g.relight_heads old new forced heads
  exact .of_heads (g.relight_lanes old new forced heads) (fun h => (but h).displayed.trans (same h).1)
    (fun h => (but h).stage.trans (same h).2.1) fun h => (but h).test.trans (same h).2.2

theorem Gantry.Stands.trans {g g' g'' : Gantry} (x : g.Stands g') (y : g'.Stands g'') : g.Stands g'' :=
  ⟨fun h => (y.displayed h).trans (x.displayed h), fun h => (y.stage h).trans (x.stage h),
    fun h => (y.test h).trans (x.test h), fun k => (y.since k).trans (x.since k),
    fun k => (y.clear k).trans (x.clear k), fun k => (x.count k).trans (y.count k)⟩

section
variable {g g' : Gantry} {b : Bank} {m m' : Mode}

theorem Gantry.lanesSafe_stands (h : g.lanesSafe b m) (stands : g.Stands g') : g'.lanesSafe b m := by
  obtain ⟨⟨fits, opposed⟩, clears⟩ := h
  refine ⟨⟨fun i => ?_, Gantry.facesOpposed_of stands.displayed opposed⟩, fun serving k tidal => ?_,
    fun idle k => ?_⟩
  · unfold Head.fits
    rw [stands.displayed, stands.stage, stands.test]
    exact fits i
  · obtain ⟨runs, clear⟩ := clears.1 serving k tidal
    simp only [stands.displayed, stands.since, stands.clear]
    refine ⟨runs, fun set => ?_⟩
    obtain ⟨since, counted⟩ := clear set
    exact ⟨since, counted.trans (stands.count k)⟩
  · rw [stands.since, stands.clear]
    exact clears.2 idle k

/-- The condition is one for the two modes of service. -/
theorem Gantry.lanesSafe_serving (h : g.lanesSafe b m) (serving : m.serving = true) (serving' : m'.serving = true) :
    g.lanesSafe b m' := by
  have tested : m ≠ .outOfService := fun out => by simp [out, Mode.serving] at serving
  obtain ⟨⟨fits, opposed⟩, clears⟩ := h
  refine ⟨⟨fun i => ?_, opposed⟩, fun _ => clears.1 serving, fun idle => nomatch serving'.symm.trans idle⟩
  obtain ⟨dark, -, test⟩ := fits i
  exact ⟨dark, fun idle => (nomatch serving'.symm.trans idle), fun _ => test tested⟩

/-- No head shows anything, and no clearance runs. -/
structure Gantry.Dark (g : Gantry) : Prop where
  heads : ∀ h : Fin 8, g.heads[h].displayed = .dark ∧ g.heads[h].stage = none ∧ g.heads[h].test = none
  lanes : ∀ k : Fin 4, g.lanes[k].clearSince = none ∧ g.lanes[k].clear = false

theorem Gantry.Dark.stands (dark : g.Dark) (stands : g.Stands g') : g'.Dark where
  heads h := by
    rw [stands.displayed, stands.stage, stands.test]
    exact dark.heads h
  lanes k := by
    rw [stands.since, stands.clear]
    exact dark.lanes k

/-- A dark gantry is safe under every model and in every mode. -/
theorem Gantry.Dark.lanesSafe (dark : g.Dark) (b : Bank) (m : Mode) : g.lanesSafe b m := by
  refine ⟨⟨fun h => ?_, fun k _ open_ => ?_⟩, fun _ k _ => ?_, fun _ => dark.lanes⟩
  · obtain ⟨displayed, stage, test⟩ := dark.heads h
    exact ⟨fun _ => .inl stage, fun _ => ⟨stage, by rw [displayed, test]⟩, fun _ => test⟩
  · rw [(dark.heads _).1] at open_
    exact absurd open_.1 (by decide)
  · obtain ⟨since, clear⟩ := dark.lanes k
    rw [since, clear]
    refine ⟨iff_of_false (· rfl) fun closed => ?_, nofun⟩
    have asc := closed .asc
    rw [(dark.heads _).1] at asc
    cases asc

theorem Gantry.dark_darken (g : Gantry) (b : Bank) : (g.darken b).Dark where
  heads h := by
    rw [g.darken_heads]
    exact ⟨rfl, rfl, rfl⟩
  lanes k := by
    rw [g.darken_lanes]
    exact ⟨rfl, rfl⟩

theorem Gantry.dark_reset : State.reset.gantry.Dark where
  heads h := by
    rw [State.reset_head]
    exact ⟨rfl, rfl, rfl⟩
  lanes k := by
    rw [State.reset_lane]
    exact ⟨rfl, rfl⟩

/-! ## Outside service the sequencer rests (R84, R85) -/

/-- No head is on a path, and no clearance runs. -/
structure Gantry.Idle (g : Gantry) : Prop where
  stage : ∀ h : Fin 8, g.heads[h].stage = none
  since : ∀ k : Fin 4, g.lanes[k].clearSince = none

theorem Gantry.lanesSafe.idle (h : g.lanesSafe b m) (idle : m.serving = false) : g.Idle := by
  obtain ⟨⟨fits, -⟩, -, clears⟩ := h
  exact ⟨fun i => ((fits i).2.1 idle).1, fun k => (clears idle k).1⟩

variable {e : Env}

/-- Where no interval has been reached nothing completes. -/
theorem Env.completed_none (dwell : ∀ h, e.dwellDue h g = false) (clearance : ∀ k, e.clearanceDue k g = false)
    (stall : ∀ h, e.stallDue h g = false) {dwells stalls : Bool} {lanes : Fin 4 → Bool} {clock : Clock}
    {q : EventUnit} : e.completed dwells lanes stalls clock g q = (g, q) := by
  have dwelt : (if dwells then e.dueDwells g else g) = g := by rw [Env.dueDwells_none dwell, ite_self]
  have cleared : e.dueClearances (allLanes.filter lanes) g = g :=
    List.foldl_fixed' (fun k => if_neg (by rw [clearance k]; nofun)) _
  simp only [Env.completed_eq, dwelt, cleared]
  rw [Env.stallAll_none stall, ite_self]

variable (idle : g.Idle)
include idle

theorem Env.retestAll_idle (hs : List (Fin 8)) : e.retestAll hs g = g :=
  Env.retestAll_rests fun i _ => .inr (.inl (idle.stage i))

theorem Env.dwellComplete_idle (h : Fin 8) : e.dwellComplete h g = g :=
  if_neg (by rw [idle.stage]; nofun)

theorem Env.clearanceDue_idle (k : Fin 4) : e.clearanceDue k g = false := by
  refine Bool.eq_false_iff.2 fun due => ?_
  obtain ⟨-, runs, -⟩ := Env.clearanceDue_iff.1 due
  exact runs (idle.since k)

theorem Env.stepExisting_idle : e.stepExisting g = g :=
  List.foldl_fixed' (fun h => by rw [Env.stepHead, idle.stage]) _

theorem Env.dwellDue_idle (h : Fin 8) : e.dwellDue h g = false :=
  Env.dwellDue_off_merging (by rw [idle.stage]; nofun)

theorem Env.stallDue_idle (h : Fin 8) : e.stallDue h g = false :=
  Env.stallDue_off_waits (by rw [idle.stage]; nofun) (by rw [idle.stage]; nofun)

theorem Env.completed_idle {dwells stalls : Bool} {lanes : Fin 4 → Bool} {clock : Clock} {q : EventUnit} :
    e.completed dwells lanes stalls clock g q = (g, q) :=
  Env.completed_none (Env.dwellDue_idle idle) (Env.clearanceDue_idle idle) (Env.stallDue_idle idle)

end

/-! ## In service its acts keep the condition -/

theorem Env.Walks.and {e : Env} {Q R : Gantry → Prop} (W : e.Walks Q) (W' : e.Walks R) :
    e.Walks fun g => Q g ∧ R g where
  close h g hg := ⟨W.close h g hg.1, W'.close h g hg.2⟩
  merge h a st g permissive merge stage hg :=
    ⟨W.merge h a st g permissive merge stage hg.1, W'.merge h a st g permissive merge stage hg.2⟩
  opening h t g target lit holds hg :=
    ⟨W.opening h t g target lit holds hg.1, W'.opening h t g target lit holds hg.2⟩
  stand h st g lit hg := ⟨W.stand h st g lit hg.1, W'.stand h st g lit hg.2⟩
  wait h st g lit hg := ⟨W.wait h st g lit hg.1, W'.wait h st g lit hg.2⟩
  target h t g hg := ⟨W.target h t g hg.1, W'.target h t g hg.2⟩
  clear k g due hg := ⟨W.clear k g due hg.1, W'.clear k g due hg.2⟩

theorem Env.lanesSafe_walks (e : Env) (sound : e.bank.checkLaneHeads e.bank.faces [] = none)
    (serving : e.mode.serving = true) : e.Walks fun g => g.lanesSafe e.bank e.mode :=
  (e.opposed_walks sound serving).and (e.clears_walks sound serving)

/-- An act of the sequencer that changes nothing outside service. -/
theorem Env.Walk.lanesSafe {f : Env → Gantry → Gantry} (walk : Env.Walk f) {e : Env} {g : Gantry}
    (sound : e.mode.serving = true → e.bank.checkLaneHeads e.bank.faces [] = none) (idle : g.Idle → f e g = g)
    (h : g.lanesSafe e.bank e.mode) : (f e g).lanesSafe e.bank e.mode := by
  cases serving : e.mode.serving
  · rw [idle (h.idle serving)]
    exact h
  · exact walk e _ (e.lanesSafe_walks (sound serving) serving) g h

theorem Gantry.stands_retarget (g : Gantry) (b : Bank) (code : Fin 32 → Nat) : g.Stands (g.retarget b code) := by
  unfold Gantry.retarget
  exact .of_lamps rfl rfl

theorem Gantry.stands_slewTick (g : Gantry) (b : Bank) : g.Stands (g.slewTick b) := by
  unfold Gantry.slewTick
  exact .of_lamps rfl rfl

theorem Gantry.stands_stall (g : Gantry) (h : Fin 8) : g.Stands (g.stall h) :=
  .of_heads rfl (fun i => heads_set_of Head.displayed _ h i _ rfl)
    (fun i => heads_set_of Head.stage _ h i _ rfl) fun i => heads_set_of Head.test _ h i _ rfl

/-! ## Faults cleared, lamps sampled, service begun (R47, R52, R148, R154, R155, R160) -/

theorem Gantry.stands_clearFaults (g : Gantry) (b : Bank) (x : Nat) : g.Stands (g.clearFaults b x) := by
  have relit : ∀ channels, g.Stands ({ g with channels := channels }.relight b b (b.concerned x)
      (Vector.ofFn fun h : Fin 8 => if b.concerned x h then g.heads[h].clearAlts else g.heads[h])) := by
    intro channels
    have lamps : g.Stands { g with channels := channels } := .of_lamps rfl rfl
    refine lamps.trans (.of_relight _ _ _ fun i => ?_)
    simp only [Fin.getElem_fin, Vector.getElem_ofFn]
    split <;> exact ⟨rfl, rfl, rfl⟩
  exact relit _

theorem Gantry.stands_relearn (g : Gantry) (x : Nat) : g.Stands (g.relearn x) := by
  unfold Gantry.relearn
  exact .of_lamps rfl rfl

/-- Judging and switching to alternates leave what the condition reads. -/
theorem Gantry.stands_sampled (g : Gantry) (b : Bank) (m : List Nat) (failed : List (Fin 8)) :
    g.Stands (((g.judged b m).switchAlternates b failed).judgeConflicts b m) := by
  have judged : g.Stands (g.judged b m) := by
    refine .of_heads rfl (fun i => ?_) (fun i => ?_) fun i => ?_
    all_goals
      simp only [Gantry.judged, Fin.getElem_fin, Vector.getElem_ofFn]
      split <;> rfl
  have alt : ∀ (hd : Head) (a : Aspect), (hd.setAlt a).displayed = hd.displayed
      ∧ (hd.setAlt a).stage = hd.stage ∧ (hd.setAlt a).test = hd.test := by
    intro hd a
    cases a <;> exact ⟨rfl, rfl, rfl⟩
  have switched : ∀ g : Gantry, g.Stands (g.switchAlternates b failed) := fun g => by
    refine .of_relight b b _ fun i => ?_
    simp only [Fin.getElem_fin, Vector.getElem_ofFn]
    split
    · split
      · exact alt _ _
      · exact ⟨rfl, rfl, rfl⟩
    · exact ⟨rfl, rfl, rfl⟩
  have conflicts : ∀ g : Gantry, g.Stands (g.judgeConflicts b m) := fun g => by
    refine .of_lanes rfl (fun k => ?_) (fun k => ?_) fun k => ?_
    all_goals simp [Gantry.judgeConflicts]
  exact (judged.trans (switched _)).trans (conflicts _)

theorem Gantry.dark_lockout (g : Gantry) (b : Bank) : (((g.darken b).outputsOff).conflictsOff).Dark := by
  refine (g.dark_darken b).stands (.of_lanes rfl (fun k => ?_) (fun k => ?_) fun k => ?_)
  all_goals simp [Gantry.conflictsOff, Gantry.outputsOff]

theorem Gantry.enter_head (g : Gantry) (b : Bank) (now : Nat) (i : Fin 8) :
    ((g.enter b now).heads[i]).SameBut (g.heads[i].entering (b.headExists i)) := by
  rw [← g.entering_get b i, g.enter_eq]
  exact Gantry.relight_heads _ _ _ _ _ i

theorem Gantry.enter_lane (g : Gantry) {b : Bank} (now : Nat) {k : Fin 4} (tidal : b.tidal k = true) :
    (g.enter b now).lanes[k] = { g.lanes[k] with clearSince := some now, clearCount := 0, clear := false } := by
  simp [g.enter_eq, tidal]

/-- Service begins with every existing head steady, and the others dark. -/
theorem Head.fits_entering (hd : Head) (present : Bool) : (hd.entering present).fits .inService := by
  cases present
  · exact ⟨fun _ => .inl rfl, nofun, fun _ => rfl⟩
  · exact ⟨fun _ => .inr rfl, nofun, fun _ => rfl⟩

theorem Gantry.lanesSafe_enter (g : Gantry) {b : Bank} (sound : b.checkLaneHeads b.faces [] = none) (now : Nat) :
    (g.enter b now).lanesSafe b .inService := by
  have closed : ∀ (k : Fin 4) (f : Face), b.tidal k = true →
      (g.enter b now).heads[b.faceHead k f].displayed = .closed := fun k f tidal => by
    obtain ⟨faces, -⟩ := b.checkLaneHeads_none _ _ sound
    obtain ⟨present, -⟩ := faces (k, f) ((b.mem_faces k f).2 (Bank.facePresent_tidal tidal f))
    rw [(g.enter_head b now _).displayed, present]
    rfl
  refine ⟨⟨fun i => ?_, fun k tidal both => ?_⟩, fun _ k tidal => ?_, nofun⟩
  · have but := g.enter_head b now i
    have fits := g.heads[i].fits_entering (b.headExists i)
    unfold Head.fits at fits ⊢
    rwa [but.displayed, but.stage, but.test]
  · rw [closed k .asc tidal] at both
    cases both.1
  · rw [g.enter_lane now tidal]
    exact ⟨iff_of_true nofun fun f => closed k f tidal, nofun⟩

end Sys2Proof.Machine
end

section
/-! SUPPORT. No event parts the faces of TIDAL lanes, or a clearance from its closed faces (R88, R89). -/

namespace Sys2Proof.Machine

/-! ## One item replaced -/

theorem Mode.configured_of_serving {m : Mode} (serving : m.serving = true) : m ≠ .unconfigured := by
  rintro rfl
  cases serving

section
variable {s : State} (h : s.lanesSafe)
include h

theorem State.lanesSafe.sound : s.laneHeadsSound := (s.lanesSafe_iff.1 h).1

theorem State.lanesSafe.gantry : s.gantry.lanesSafe s.store.active s.node.mode := (s.lanesSafe_iff.1 h).2

/-- The gantry replaced by one that is safe. -/
theorem State.lanesSafe_gantry {g : Gantry} (safe : g.lanesSafe s.store.active s.node.mode) :
    { s with gantry := g }.lanesSafe :=
  (State.lanesSafe_iff _).2 ⟨h.sound, safe⟩

/-- Under the same model and mode the gantry stands in what the condition reads. -/
theorem State.lanesSafe_stands {t : State} (stands : s.gantry.Stands t.gantry) (node : t.node = s.node := by simp)
    (store : t.store.active = s.store.active := by simp) : t.lanesSafe := by
  have sound := h.sound
  have safe := Gantry.lanesSafe_stands h.gantry stands
  unfold State.laneHeadsSound at sound
  rw [← node, ← store] at sound safe
  exact t.lanesSafe_iff.2 ⟨sound, safe⟩

/-- A change of mode within service. -/
theorem State.lanesSafe_serving {n : NodeControl} (serving : s.node.mode.serving = true)
    (serving' : n.mode.serving = true) : { s with node := n }.lanesSafe :=
  (State.lanesSafe_iff _).2 ⟨fun _ => h.sound (.inr (Mode.configured_of_serving serving)),
    Gantry.lanesSafe_serving h.gantry serving serving'⟩

/-- Every head dark, in another mode of a configured node. -/
theorem State.lanesSafe_dark {t : State} (active : t.store.active = s.store.active)
    (configured : s.node.tablesValid = true ∨ s.node.mode ≠ .unconfigured) (dark : t.gantry.Dark) :
    t.lanesSafe := by
  refine t.lanesSafe_iff.2 ⟨fun _ => ?_, dark.lanesSafe _ _⟩
  rw [active]
  exact h.sound configured

/-! ## The sequencer -/

/-- An act of the sequencer that changes nothing outside service. -/
theorem State.lanesSafe_seq {f : Env → Gantry → Gantry} (walk : Env.Walk f)
    (idle : s.gantry.Idle → f s.env s.gantry = s.gantry) : (s.seq f).lanesSafe :=
  State.lanesSafe_gantry h (walk.lanesSafe (e := s.env)
    (fun serving => h.sound (.inr (Mode.configured_of_serving serving))) idle h.gantry)

theorem State.lanesSafe_retests (hs : Env → List (Fin 8)) : (s.seq fun e => e.retestAll (hs e)).lanesSafe :=
  State.lanesSafe_seq h (Env.walk_retestAll hs) fun idle => Env.retestAll_idle idle _

theorem State.lanesSafe_retestExisting : (s.seq Env.retestExisting).lanesSafe :=
  State.lanesSafe_retests h fun e => e.bank.existing

/-- Neighbour records do not count. -/
theorem State.lanesSafe_sweep (w : SweepUnit) : { s with sweep := w }.lanesSafe := h

theorem State.lanesSafe_refresh (k : Byte) : (s.refreshNeighbours k).lanesSafe := by
  unfold State.refreshNeighbours
  exact State.lanesSafe_retests (State.lanesSafe_sweep h _) _

theorem State.lanesSafe_goStale (n : Neighbour) : (s.goStale n).lanesSafe := by
  unfold State.goStale
  exact State.lanesSafe_retests (State.lanesSafe_sweep h _) _

/-- The timers that have reached their intervals complete. -/
theorem State.lanesSafe_completed (dwells : Bool) (lanes : Fin 4 → Bool) (stalls : Bool) :
    let done := s.env.completed dwells lanes stalls s.take.clock s.gantry s.events
    { s with gantry := done.1, events := done.2 }.lanesSafe := by
  refine State.lanesSafe_gantry (s := { s with events := _ }) h ?_
  cases serving : s.node.mode.serving
  · rw [Env.completed_idle (h.gantry.idle serving)]
    exact h.gantry
  · have walks := s.env.lanesSafe_walks (h.sound (.inr (Mode.configured_of_serving serving))) serving
    exact walks.completed (fun i g hg => Gantry.lanesSafe_stands hg (g.stands_stall i)) h.gantry

theorem State.lanesSafe_dueSequencer : s.dueSequencer.lanesSafe := by
  rw [s.dueSequencer_completed]
  exact State.lanesSafe_completed h _ _ _

theorem State.lanesSafe_dueLowered (old : Bank) : (s.dueLowered old).lanesSafe := by
  rw [s.dueLowered_completed]
  exact State.lanesSafe_completed h _ _ _

theorem State.lanesSafe_releaseHold : s.releaseHold.lanesSafe := by
  unfold State.releaseHold
  split
  · exact State.lanesSafe_retestExisting (State.lanesSafe_dueSequencer (s := s.setHold false) h)
  · exact h

/-! ## Takes (R73, R79, R133) -/

theorem State.lanesSafe_takeRecord (serving : s.node.mode.serving = true) (p : Nat) :
    (s.takeRecord p).lanesSafe ∧ (s.takeRecord p).node.mode.serving = true := by
  simp only [State.takeRecord]
  split
  · exact ⟨State.lanesSafe_serving h (n := { s.node with mode := .inService }) serving rfl, rfl⟩
  · exact ⟨h, serving⟩

theorem State.lanesSafe_takeTargets (serving : s.node.mode.serving = true) (p : Nat) (returned : Bool) :
    (s.takeTargets p returned).lanesSafe := by
  have given : (s.seq fun e => e.takeTargets p).lanesSafe := State.lanesSafe_gantry h
    ((s.env.lanesSafe_walks (h.sound (.inr (Mode.configured_of_serving serving))) serving).takeTargets p _ h.gantry)
  simp only [State.takeTargets]
  split
  · exact State.lanesSafe_retestExisting given
  · exact given

theorem State.lanesSafe_takePlan (serving : s.node.mode.serving = true) (p : Nat) : (s.takePlan p).lanesSafe := by
  obtain ⟨recorded, serving'⟩ := State.lanesSafe_takeRecord h serving p
  exact State.lanesSafe_takeTargets recorded serving' p _

end

/-- A firing keeps the condition, and is a take in service alone. -/
theorem fireEntry_lanesSafe {acc : State × Option Nat} (h : acc.1.lanesSafe)
    (taken : acc.2 ≠ none → acc.1.node.mode.serving = true) (e : ScheduleEntry) :
    (fireEntry acc e).1.lanesSafe
      ∧ ((fireEntry acc e).2 ≠ none → (fireEntry acc e).1.node.mode.serving = true) := by
  simp only [fireEntry]
  split
  · exact ⟨h, taken⟩
  · split
    case h_1 mode =>
      obtain ⟨recorded, serving⟩ := State.lanesSafe_takeRecord h (by rw [mode]; rfl) e.plan
      exact ⟨recorded, fun _ => serving⟩
    case h_2 mode =>
      split
      · obtain ⟨recorded, serving⟩ := State.lanesSafe_takeRecord h (by rw [mode]; rfl) e.plan
        exact ⟨recorded, fun _ => serving⟩
      · exact ⟨h, taken⟩
    all_goals exact ⟨h, taken⟩

theorem fireEntries_lanesSafe (l : List ScheduleEntry) {acc : State × Option Nat} (h : acc.1.lanesSafe)
    (taken : acc.2 ≠ none → acc.1.node.mode.serving = true) : (l.foldl fireEntry acc).1.lanesSafe
      ∧ ((l.foldl fireEntry acc).2 ≠ none → (l.foldl fireEntry acc).1.node.mode.serving = true) := by
  induction l generalizing acc with
  | nil => exact ⟨h, taken⟩
  | cons e l ih =>
    obtain ⟨fired, serving⟩ := fireEntry_lanesSafe h taken e
    exact ih fired serving

section
variable {s : State} (h : s.lanesSafe)
include h

theorem State.lanesSafe_dueTest : s.dueTest.lanesSafe := by
  obtain ⟨safe, serving⟩ := fireEntries_lanesSafe s.dueEntries (acc := (s.unscheduled, none)) h (absurd rfl)
  rcases fired : s.dueEntries.foldl fireEntry (s.unscheduled, none) with ⟨u, _ | p⟩
  · rw [State.dueTest_failed fired]
    rwa [fired] at safe
  · rw [State.dueTest_taken fired]
    rw [fired] at safe serving
    exact State.lanesSafe_takeTargets safe (serving nofun) p _

/-! ## Fallback (R126, R128, R132) -/

theorem State.lanesSafe_fallbackEntry (mode : s.node.mode = .inService) : s.fallbackEntry.lanesSafe := by
  have entered := State.lanesSafe_serving h (n := { s.node with mode := .fallback, hold := false })
    (by rw [mode]; rfl) rfl
  rw [s.fallbackEntry_eq]
  exact State.lanesSafe_gantry entered ((Env.lanesSafe_walks { s.env with mode := .fallback, hold := false }
    (entered.sound (.inr nofun)) rfl).fallenBack entered.gantry)

theorem State.lanesSafe_watchdogExpire : s.watchdogExpire.lanesSafe := by
  unfold State.watchdogExpire
  split
  case h_1 mode => exact State.lanesSafe_fallbackEntry h mode
  all_goals exact h

theorem State.lanesSafe_dueWatchdog : s.dueWatchdog.lanesSafe := by
  unfold State.dueWatchdog
  split
  · exact State.lanesSafe_watchdogExpire h
  · exact h

/-! ## Lamps -/

theorem State.lanesSafe_retarget : s.retarget.lanesSafe :=
  State.lanesSafe_stands h (s.gantry.stands_retarget _ _)

theorem State.lanesSafe_slewTick : s.slewTick.lanesSafe :=
  State.lanesSafe_stands h (s.gantry.stands_slewTick _)

theorem State.lanesSafe_dueSlew : s.dueSlew.lanesSafe := by
  unfold State.dueSlew
  split
  · exact State.lanesSafe_slewTick h
  · exact h

theorem State.lanesSafe_takeLevel (l : Nat) : (s.takeLevel l).lanesSafe := by
  unfold State.takeLevel
  split
  · exact h
  · exact State.lanesSafe_retarget (s := { s with lamp := { s.lamp with level := l } }) h

theorem State.lanesSafe_readTemperature (reading : Int) : (s.readTemperature reading).lanesSafe := by
  have derated : ∀ (u : LampDrive) (k : EventKind), ({ s with lamp := u }.post k).retarget.lanesSafe :=
    fun u k => State.lanesSafe_retarget (s := { s with lamp := u }.post k) h
  simp only [State.readTemperature]
  split_ifs
  exacts [h, derated _ _, derated _ _, h]

/-- Time passes: clearances count on. -/
theorem State.lanesSafe_elapse (n : Nat) : (s.elapse n).lanesSafe := by
  refine State.lanesSafe_stands h ⟨fun i => ?_, fun i => ?_, fun i => ?_, fun k => ?_, fun k => ?_, fun k => ?_⟩
    (store := by rw [s.elapse_store])
  · rw [s.elapse_heads]
  · rw [s.elapse_heads]
  · rw [s.elapse_heads]
  · rw [s.elapse_lanes]
  · rw [s.elapse_lanes]
  · rw [s.elapse_lanes]
    exact Nat.le_add_right _ _

/-! ## The sample event (R148, R154, R160) -/

theorem State.lanesSafe_postAll (ks : List EventKind) : (s.postAll ks).lanesSafe := by
  unfold State.postAll
  induction ks generalizing s with
  | nil => exact h
  | cons k ks ih => exact ih (s := s.post k) h

theorem State.lanesSafe_sample (m : List Nat) : (s.sample m).lanesSafe := by
  unfold State.sample
  split
  · exact h
  · rename_i samples
    have posted := fun failed ks ls => State.lanesSafe_postAll (State.lanesSafe_postAll (State.lanesSafe_stands
      (t := { s with gantry := _ }) h (s.gantry.stands_sampled s.store.active m failed)) ks) ls
    simp only
    split
    · exact State.lanesSafe_seq (posted _ _ _) (Env.walk_retestOpposites _) fun idle => Env.retestAll_idle idle _
    · refine State.lanesSafe_dark h (by simp) (.inr fun mode => samples (by rw [mode]; rfl)) ?_
      exact Gantry.dark_lockout _ _

end

/-! ## Service and lamp tests (R47, R48, R158) -/

section
variable {s : State} (h : s.lanesSafe)
include h

theorem State.lanesSafe_enterService (mode : s.node.mode = .outOfService) : s.enterService.lanesSafe := by
  have sound := h.sound (.inr (by rw [mode]; nofun))
  exact (State.lanesSafe_iff _).2 ⟨fun _ => sound, s.gantry.lanesSafe_enter sound s.now⟩

theorem State.lanesSafe_leaveService (serving : s.node.mode.serving = true) : s.leaveService.lanesSafe :=
  State.lanesSafe_dark h rfl (.inr (Mode.configured_of_serving serving)) (s.gantry.dark_darken _)

/-- A head opposite to one that a lamp test may light permissive shows nothing permissive. -/
theorem State.opposite_unlit (mode : s.node.mode = .outOfService) {i o : Fin 8}
    (apart : s.oppositeTestPermissive i = false) (opposite : s.store.active.oppositeHead i = some o) :
    s.gantry.heads[o].displayed.permissive = false := by
  obtain ⟨⟨fits, -⟩, -⟩ := h.gantry
  obtain ⟨-, shows, -⟩ := fits o
  obtain ⟨-, displayed⟩ := shows (by rw [mode]; rfl)
  simp only [State.oppositeTestPermissive, opposite] at apart
  rw [displayed]
  split
  · rfl
  · rename_i t test
    rwa [test] at apart

/-- A lamp test begun or ended shows what the test says, a permissive aspect only where the opposite head shows
none. -/
theorem State.lanesSafe_setHead (mode : s.node.mode = .outOfService) {i : Fin 8} {hd : Head} (forced : Bool)
    (stage : hd.stage = none) (shows : hd.displayed = (match hd.test with | none => .dark | some t => t.aspect))
    (opposite : hd.displayed.permissive = true → ∀ o, s.store.active.oppositeHead i = some o →
      s.gantry.heads[o].displayed.permissive = false) : (s.setHead i hd forced).lanesSafe := by
  have sound := h.sound (.inr (by rw [mode]; nofun))
  obtain ⟨⟨fits, opposed⟩, clears⟩ := h.gantry
  have but := s.gantry.relight_heads s.store.active s.store.active (fun j => forced && j == i)
    (s.gantry.heads.set i hd)
  have self : ((s.setHead i hd forced).gantry.heads[i]).SameBut hd := by
    have x := but i
    rwa [heads_set_self] at x
  have other : ∀ j : Fin 8, j ≠ i → ((s.setHead i hd forced).gantry.heads[j]).SameBut s.gantry.heads[j] :=
    fun j ne => by
      have x := but j
      rwa [heads_set_ne _ _ _ _ ne] at x
  refine (State.lanesSafe_iff _).2 ⟨h.sound, ⟨fun j => ?_, ?_⟩, fun serving => ?_, fun idle k => ?_⟩
  · by_cases hj : j = i
    · subst hj
      unfold Head.fits
      rw [self.stage, self.displayed, self.test]
      exact ⟨fun _ => .inl stage, fun _ => ⟨stage, shows⟩, fun out => absurd mode out⟩
    · unfold Head.fits
      rw [(other j hj).stage, (other j hj).displayed, (other j hj).test]
      exact fits j
  · refine Gantry.facesOpposed_set sound i (fun j hj => (other j hj).displayed) (fun permissive => ?_) opposed
    rw [self.displayed] at permissive
    exact opposite permissive
  · exact nomatch (mode ▸ serving : Mode.outOfService.serving = true)
  · have lanes : (s.setHead i hd forced).gantry.lanes = s.gantry.lanes := Gantry.relight_lanes _ _ _ _ _
    rw [lanes]
    exact clears.2 idle k

end

/-! ## Resets (R50, R51) -/

theorem State.lanesSafe_powerUp (s : State) (c : Cause) (p : ResetInputs) : (s.powerUp c p).lanesSafe :=
  (State.lanesSafe_iff _).2 ⟨fun configured => absurd configured (by simp [State.powerUp, State.reset]),
    Gantry.dark_reset.lanesSafe _ _⟩

theorem State.lanesSafe_keepRestart {s : State} (h : s.lanesSafe) (p : ResetInputs) :
    (s.keepRestart p).lanesSafe := by
  refine State.lanesSafe_readTemperature (State.lanesSafe_retarget ?_) _
  refine (State.lanesSafe_iff _).2 ⟨fun configured => h.sound (.inl ?_),
    Gantry.Dark.lanesSafe (Gantry.dark_reset.stands ?_) _ _⟩
  · cases valid : s.node.tablesValid
    · simp [State.rebuildNeighbours, valid] at configured
    · rfl
  · unfold State.rebuildNeighbours
    exact .of_lamps rfl rfl

/-- Held in reset every head is dark, whatever the mode. -/
theorem State.lanesSafe_heldInReset {s : State} (h : s.lanesSafe) {n : NodeControl} (mode : n.mode = s.node.mode)
    (valid : n.tablesValid = s.node.tablesValid) : { s.holdInReset with node := n }.lanesSafe := by
  refine (State.lanesSafe_iff _).2 ⟨?_, Gantry.Dark.lanesSafe ?_ _ _⟩
  · have sound := h.sound
    unfold State.laneHeadsSound at sound
    rwa [← mode, ← valid] at sound
  · exact (s.gantry.dark_darken s.store.active).stands (.of_heads rfl (fun _ => rfl) (fun _ => rfl) fun _ => rfl)

/-! ## The commit (R62 to R64) -/

/-- In service the commit finds lanes and heads as they are in force. -/
theorem State.rows_of_commits {s : State} (passes : s.commitFailure = none) (serving : s.node.mode.serving = true)
    (i : Nat) : (i < 4 → s.store.shadow.row .lanes i = s.store.active.row .lanes i)
      ∧ (i < 8 → s.store.shadow.row .heads i = s.store.active.row .heads i) := by
  have check : checkInService s.node.mode s.store.active s.store.shadow = none := by
    rw [s.commitFailure_eq] at passes
    simp only [Option.or_eq_none_iff] at passes
    exact passes.2
  rw [checkInService_serving (State.mode_of_serving serving), Option.map_eq_none_iff] at check
  simp only [Option.or_eq_none_iff] at check
  obtain ⟨⟨-, lanes⟩, heads⟩ := check
  have same : ∀ {t : Table}, tableDifference s.store.active s.store.shadow t = none → i < t.records →
      s.store.shadow.row t i = s.store.active.row t i := by
    intro t none lt
    rcases tableDifference_cases s.store.active s.store.shadow t with ⟨-, agree⟩ | ⟨j, found, -⟩
    · by_contra differ
      exact agree i ⟨lt, Ne.symm differ⟩
    · rw [none] at found
      cases found
  exact ⟨same lanes, same heads⟩

section
variable {g : Gantry} {old new : Bank} {m : Mode}

theorem Head.afterHeadsChange_untested {hd : Head} (none : hd.test = none) :
    hd.afterHeadsChange.displayed = hd.displayed ∧ hd.afterHeadsChange.stage = hd.stage
      ∧ hd.afterHeadsChange.test = hd.test := by
  rw [Head.afterHeadsChange, none]
  exact ⟨rfl, rfl, none⟩

theorem Head.afterHeadsChange_tested {hd : Head} {t : LampTest} (test : hd.test = some t) :
    hd.afterHeadsChange.displayed = .dark ∧ hd.afterHeadsChange.stage = none
      ∧ hd.afterHeadsChange.test = none := by
  rw [Head.afterHeadsChange, test]
  exact ⟨rfl, rfl, rfl⟩

/-- The heads across a commit. -/
theorem Gantry.commit_head (g : Gantry) (old new : Bank) (i : Fin 8) :
    ((g.commit old new).heads[i]).SameBut
      (if old.heads = new.heads then g.heads[i] else g.heads[i].afterHeadsChange) := by
  have but := g.relight_heads old new (fun _ => false)
    (if old.heads = new.heads then g.heads else Vector.ofFn fun h : Fin 8 => g.heads[h].afterHeadsChange) i
  unfold Gantry.commit
  split_ifs at but ⊢
  · exact but
  · simpa using but

/-- Heads under no lamp test show across a commit what they showed. -/
theorem Gantry.stands_commit (stays : old.heads = new.heads ∨ ∀ i : Fin 8, g.heads[i].test = none) :
    g.Stands (g.commit old new) := by
  have given : ∀ i : Fin 8, ∃ x : Head, ((g.commit old new).heads[i]).SameBut x
      ∧ x.displayed = g.heads[i].displayed ∧ x.stage = g.heads[i].stage ∧ x.test = g.heads[i].test := by
    intro i
    refine ⟨_, g.commit_head old new i, ?_⟩
    split_ifs with same
    · exact ⟨rfl, rfl, rfl⟩
    · exact Head.afterHeadsChange_untested (stays.resolve_left same i)
  refine .of_heads (Gantry.relight_lanes _ _ _ _ _) (fun i => ?_) (fun i => ?_) fun i => ?_
  all_goals obtain ⟨x, but, displayed, stage, test⟩ := given i
  · exact but.displayed.trans displayed
  · exact but.stage.trans stage
  · exact but.test.trans test

/-- A lane across the raising of its interval (R89). -/
theorem Env.raisedClearances_lane (e : Env) (g : Gantry) (k : Fin 4) :
    ((e.raisedClearances g).lanes[k]).clearSince = g.lanes[k].clearSince
    ∧ ((e.raisedClearances g).lanes[k]).clearCount = g.lanes[k].clearCount
    ∧ (((e.raisedClearances g).lanes[k]).clear = true →
        g.lanes[k].clear = true ∧ (e.bank.tidal k = true → e.bank.clearanceMs k ≤ g.lanes[k].clearCount)) := by
  have lane : (e.raisedClearances g).lanes[k] =
      if e.bank.tidal k && g.lanes[k].clear && g.lanes[k].clearCount < e.bank.clearanceMs k then
        { g.lanes[k] with clear := false } else g.lanes[k] := by
    simp [Env.raisedClearances]
  rw [lane]
  split_ifs with raised
  · exact ⟨rfl, rfl, nofun⟩
  · refine ⟨rfl, rfl, fun clear => ⟨clear, fun tidal => ?_⟩⟩
    simpa only [tidal, clear, Bool.true_and, decide_eq_true_eq, Nat.not_lt] using raised

/-- A lane whose clearance does not run stays so. -/
theorem Env.raisedClearances_unclear (e : Env) {k : Fin 4}
    (unclear : g.lanes[k].clearSince = none ∧ g.lanes[k].clear = false) :
    (e.raisedClearances g).lanes[k].clearSince = none ∧ (e.raisedClearances g).lanes[k].clear = false := by
  obtain ⟨since, -, raised⟩ := e.raisedClearances_lane g k
  exact ⟨since.trans unclear.1, Bool.eq_false_iff.2 fun set => nomatch unclear.2.symm.trans (raised set).1⟩

/-- In service the new model has the lanes and heads of the old. -/
theorem Gantry.lanesSafe_raised (h : g.lanesSafe old m) (serving : m.serving = true)
    (tidal : ∀ k, new.tidal k = old.tidal k) (faces : ∀ k f, new.faceHead k f = old.faceHead k f)
    {e : Env} (bank : e.bank = new) : (e.raisedClearances g).lanesSafe new m := by
  subst bank
  obtain ⟨⟨fits, opposed⟩, clears⟩ := h
  refine ⟨⟨fits, fun k hk => ?_⟩, fun _ k hk => ?_, fun idle => nomatch serving.symm.trans idle⟩
  · simp only [faces]
    exact opposed k (tidal k ▸ hk)
  · obtain ⟨runs, clear⟩ := clears.1 serving k (tidal k ▸ hk)
    obtain ⟨since, count, raised⟩ := e.raisedClearances_lane g k
    simp only [faces, since, count]
    refine ⟨runs, fun set => ?_⟩
    obtain ⟨was, counted⟩ := raised set
    exact ⟨(clear was).1, counted hk⟩

/-- A dark gantry stays dark. -/
theorem Gantry.Dark.raised (dark : g.Dark) (e : Env) : (e.raisedClearances g).Dark where
  heads := dark.heads
  lanes k := e.raisedClearances_unclear (dark.lanes k)

end

section
variable {s : State} (h : s.lanesSafe)
include h

/-- Outside service a commit that changes the HEADS table ends the lamp tests: every head is dark. -/
theorem State.dark_commit (idle : s.node.mode.serving = false)
    (ends : s.store.active.heads ≠ s.store.shadow.heads ∨ s.node.mode = .unconfigured) :
    (s.gantry.commit s.store.active s.store.shadow).Dark := by
  obtain ⟨⟨fits, -⟩, -, clears⟩ := h.gantry
  refine ⟨fun i => ?_, fun k => ?_⟩
  · obtain ⟨-, shows, test⟩ := fits i
    obtain ⟨stage, displayed⟩ := shows idle
    have but := s.gantry.commit_head s.store.active s.store.shadow i
    rw [but.displayed, but.stage, but.test]
    split_ifs with same
    · have none := test (by rw [ends.resolve_left (· same)]; nofun)
      rw [none] at displayed
      exact ⟨displayed, stage, none⟩
    · cases tested : s.gantry.heads[i].test with
      | none =>
        obtain ⟨same', stage', test'⟩ := Head.afterHeadsChange_untested tested
        rw [tested] at displayed test'
        exact ⟨same'.trans displayed, stage'.trans stage, test'⟩
      | some t => exact Head.afterHeadsChange_tested tested
  · have lanes : (s.gantry.commit s.store.active s.store.shadow).lanes = s.gantry.lanes :=
      Gantry.relight_lanes _ _ _ _ _
    rw [lanes]
    exact clears idle k

/-- The gantry under the new model, before the re-tests. -/
theorem State.lanesSafe_activated (passes : s.commitFailure = none) :
    (s.commitEnv.raisedClearances (s.gantry.commit s.store.active s.store.shadow)).lanesSafe s.store.shadow
      s.commitEnv.mode := by
  have sound := State.laneHeads_of_commits passes
  by_cases serving : s.node.mode.serving = true
  · have mode : s.commitEnv.mode = s.node.mode := if_neg (Mode.configured_of_serving serving)
    have rows := State.rows_of_commits passes serving
    obtain ⟨⟨fits, -⟩, -⟩ := h.gantry
    have untested : ∀ i : Fin 8, s.gantry.heads[i].test = none := fun i =>
      (fits i).2.2 fun out => by simp [out, Mode.serving] at serving
    rw [mode]
    refine Gantry.lanesSafe_raised (Gantry.lanesSafe_stands h.gantry (Gantry.stands_commit (.inr untested))) serving
      (fun k => ?_) (fun k f => ?_) rfl
    · unfold Bank.tidal Bank.laneKind
      rw [(rows k).1 k.isLt]
    · unfold Bank.faceHead
      rw [(rows k).1 k.isLt]
  · have idle := Bool.eq_false_iff.2 serving
    by_cases ends : s.store.active.heads ≠ s.store.shadow.heads ∨ s.node.mode = .unconfigured
    · exact ((State.dark_commit h idle ends).raised _).lanesSafe _ _
    · obtain ⟨same, configured⟩ := not_or.1 ends
      have mode : s.commitEnv.mode = s.node.mode := if_neg configured
      obtain ⟨⟨fits, opposed⟩, -, clears⟩ :=
        Gantry.lanesSafe_stands h.gantry (Gantry.stands_commit (.inl (not_not.1 same)))
      rw [mode]
      refine ⟨⟨fits, fun k tidal => ?_⟩, fun serves => absurd serves serving,
        fun _ k => s.commitEnv.raisedClearances_unclear (clears idle k)⟩
      obtain ⟨was, faces⟩ := Bank.tidal_of_heads (h.sound (.inr configured)) sound (not_not.1 same) tidal
      simp only [← faces]
      exact opposed k was

theorem State.lanesSafe_committed (passes : s.commitFailure = none) : s.committed.lanesSafe := by
  have sound := State.laneHeads_of_commits passes
  have tested : s.commitTested.lanesSafe s.store.shadow s.commitEnv.mode :=
    Env.walk_retestExisting.lanesSafe (fun _ => sound) (fun idle => Env.retestAll_idle idle _)
      (State.lanesSafe_activated h passes)
  refine (State.lanesSafe_iff _).2 ⟨fun _ => sound, ?_⟩
  rw [s.committed_gantry]
  exact Gantry.lanesSafe_stands tested (s.commitTested.stands_retarget _ _)

theorem State.lanesSafe_commitComplete : s.commitComplete.lanesSafe := by
  cases passes : s.commitFailure with
  | some f =>
    rw [State.commitComplete_fails passes]
    exact State.lanesSafe_stands h (.of_lamps rfl rfl) (store := rfl)
  | none =>
    have timers : ∀ {u : State}, u.lanesSafe → ∀ old,
        (if u.node.hold then u.dueLowered old else u.dueSequencer).lanesSafe := fun {u} hu old => by
      split
      · exact State.lanesSafe_dueLowered hu old
      · exact State.lanesSafe_dueSequencer hu
    rw [State.commitComplete_passes passes, s.commitOk_eq]
    exact State.lanesSafe_dueSlew (State.lanesSafe_dueWatchdog (timers (State.lanesSafe_committed h passes) _))

/-! ## Every step -/

theorem State.lanesSafe_clearFault (x : Nat) : (({ s with gantry := s.gantry.clearFaults s.store.active x }).seq
    fun e g => e.retestOpposites s.gantry g).lanesSafe := by
  have cleared := State.lanesSafe_stands (t := { s with gantry := s.gantry.clearFaults s.store.active x }) h
    (s.gantry.stands_clearFaults s.store.active x)
  exact State.lanesSafe_seq cleared (Env.walk_retestOpposites _) fun idle => Env.retestAll_idle idle _

end

/-- Every event keeps the faces apart and the clearances true. -/
theorem kept_lanesSafe : Kept State.lanesSafe where
  queue _ _ h := h
  line _ _ _ h := h
  key _ _ h := h
  capture _ _ h := h
  post _ _ _ _ h := h
  heartbeat _ _ h := h
  refresh _ k _ h := State.lanesSafe_refresh h k
  level _ l _ h := State.lanesSafe_takeLevel h l
  sync s c h := State.lanesSafe_dueTest (s := { s with take := { s.take with clock := c } }) h
  dueTest _ h := State.lanesSafe_dueTest h
  elapse _ n _ _ h := State.lanesSafe_elapse h n
  expire _ h := State.lanesSafe_watchdogExpire h
  dwell _ i _ h := State.lanesSafe_seq h (Env.walk_dwellComplete i) fun idle => Env.dwellComplete_idle idle i
  clearance s k due h := by
    have walked := State.lanesSafe_seq h (Env.walk_clearanceComplete k) fun idle =>
      if_neg (by rw [Env.clearanceDue_idle idle k]; nofun)
    simpa only [State.seq, if_pos due] using walked
  stall s i h := State.lanesSafe_stands (t := s.stallHead i) h (s.gantry.stands_stall i)
  sequencer _ h := State.lanesSafe_dueSequencer h
  stale _ n h := State.lanesSafe_goStale h n
  slew _ h := State.lanesSafe_slewTick h
  atReading _ h := h
  temperature _ r h := State.lanesSafe_readTemperature h r
  atSample _ h := h
  sample _ m h := State.lanesSafe_sample h m
  nextRead _ h := h
  commit _ _ h := State.lanesSafe_commitComplete h
  restartDue _ _ h := h
  powerUp s c p _ := State.lanesSafe_powerUp s c p
  keepRestart _ p h := State.lanesSafe_keepRestart h p
  supplyLoss _ h := State.lanesSafe_heldInReset h rfl rfl
  resetLow _ h := State.lanesSafe_heldInReset h rfl rfl
  supplyBack _ _ h := h
  resetBack _ _ h := h
  readEvents _ h := h
  write _ _ _ _ _ _ h := h
  revert _ h := h
  validating _ h := h
  discard _ h := h
  stage _ _ _ _ h := h
  unstage _ h := h
  take _ p mode _ h := State.lanesSafe_takePlan h (serving_of_takeMode mode) p
  schedule _ _ _ _ _ _ h := h
  scheduleFull _ _ h := h
  cancel _ _ _ _ h := h
  enter _ mode h := State.lanesSafe_enterService h mode
  leave _ serving h := State.lanesSafe_leaveService h serving
  hold _ _ h := h
  stepHeads s _ h := State.lanesSafe_seq h Env.walk_stepExisting fun idle => Env.stepExisting_idle idle
  release _ _ h := State.lanesSafe_releaseHold h
  lampTest s i a p mode _ _ apart h :=
    State.lanesSafe_setHead h mode true ((h.gantry.idle (by rw [mode]; rfl)).stage i) rfl
      fun permissive _ opposite => State.opposite_unlit h mode (apart permissive) opposite
  lampOff s i mode h := State.lanesSafe_setHead h mode false rfl rfl nofun
  clearFault _ x h := State.lanesSafe_clearFault h x
  relearn s x h := State.lanesSafe_stands (t := { s with gantry := s.gantry.relearn x }) h (s.gantry.stands_relearn x)
  restart _ _ h := h

/-- Settles O60: each event of `Kept` keeps the condition. -/
theorem oppositeFacesNeverBothOpen : Obligations.OppositeFacesNeverBothOpen := by
  unfold Obligations.OppositeFacesNeverBothOpen
  exact fun s t hs ht => kept_lanesSafe.step hs ht

end Sys2Proof.Machine
end

section
/-! SUPPORT. The conditions of R87, R88, R96 and R97: what each asks of the neighbours, the opposite head and
the lane. -/

namespace Sys2Proof.Machine

/-! ## References (R87, R97) -/

theorem Aspect.closing_iff (a : Aspect) : a.closing = true ↔ a ∈ [Aspect.mergeL, .mergeR, .closed] := by
  cases a <;> decide

theorem Aspect.permissive_iff (a : Aspect) : a.permissive = true ↔ a ∈ [Aspect.open_, .mergeL, .mergeR] := by
  cases a <;> decide

/-- A reference holds when it is absent, or names a fresh record of a lit head that shows an asked aspect. -/
theorem referenceHolds_iff (records : List Neighbour) {asked : Aspect → Bool} {aspects : List Aspect}
    (kind : ∀ a, asked a = true ↔ a ∈ aspects) (x : Option Reference) :
    referenceHolds records asked x = true ↔ ∀ r ∈ x, ∃ n,
      records.find? (fun n => n.address == r.address && n.head == r.head) = some n
        ∧ n.fresh = true ∧ n.aspect ∈ aspects ∧ (n.proving = .proven ∨ n.proving = .degraded) := by
  cases x with
  | none => exact iff_of_true rfl nofun
  | some r =>
    simp only [referenceHolds, findRecord, Option.mem_def, Option.some.injEq, forall_eq']
    cases records.find? fun n => n.address == r.address && n.head == r.head with
    | none => simp
    | some n => simp [kind, and_assoc]

section
variable {e : Env} {h : Fin 8} {k : Fin 4} {f : Face} (served : e.bank.servedFace h = some (k, f))
include served

theorem Env.upstreamHolds_served :
    e.upstreamHolds h = referenceHolds e.records Aspect.closing (e.bank.upstream k f) := by
  unfold Env.upstreamHolds
  rw [served]

theorem Env.downstreamHolds_served :
    e.downstreamHolds h = referenceHolds e.records Aspect.permissive (e.bank.downstream k f) := by
  unfold Env.downstreamHolds
  rw [served]

/-! ## The guard (R88) -/

theorem Env.guardHolds_served (g : Gantry) :
    e.guardHolds h g = true ↔ (e.bank.tidal k = true →
      g.heads[e.bank.faceHead k f.other].displayed = .closed
        ∧ g.heads[e.bank.faceHead k f.other].proving ≠ .failed ∧ g.lanes[k].clear = true) := by
  unfold Env.guardHolds
  rw [served]
  cases tidal : e.bank.tidal k
  · simp [tidal]
  · simp [tidal, and_assoc]

end

/-! ## Opening (R96) -/

/-- A head that leaves CLOSED needs its guard, one that goes to OPEN the downstream condition. -/
theorem Env.openingHolds_iff (e : Env) (h : Fin 8) (a : Aspect) (g : Gantry) :
    e.openingHolds h a g = true ↔
      (g.heads[h].displayed = .closed → e.guardHolds h g = true)
        ∧ (a = .open_ → e.downstreamHolds h = true ∧ e.mode ≠ .fallback) := by
  simp [Env.openingHolds, imp_iff_not_or]

theorem Aspect.ne_open_of_merge {a : Aspect} (merge : a.merge = true) : a ≠ .open_ := by
  rintro rfl
  cases merge

theorem Aspect.ne_closed_of_merge {a : Aspect} (merge : a.merge = true) : a ≠ .closed := by
  rintro rfl
  cases merge

/-- Settles O45: each condition, through the lemma that says what it asks. -/
theorem openingAndClosingConditions : Obligations.OpeningAndClosingConditions := by
  unfold Obligations.OpeningAndClosingConditions
  intro e h k f a g served
  have upstream := referenceHolds_iff e.records Aspect.closing_iff (e.bank.upstream k f)
  have downstream := referenceHolds_iff e.records Aspect.permissive_iff (e.bank.downstream k f)
  rw [← Env.upstreamHolds_served served] at upstream
  rw [← Env.downstreamHolds_served served] at downstream
  have guard := Env.guardHolds_served served g
  refine ⟨upstream, downstream, fun closed opened => ?_, fun closed merge => ?_, fun merge opened => ?_⟩
  · rw [e.openingHolds_iff, guard, downstream]
    exact and_congr (forall_prop_of_true closed) (forall_prop_of_true opened)
  · rw [e.openingHolds_iff, guard]
    have turned := Aspect.ne_open_of_merge merge
    exact (and_iff_left fun opened => absurd opened turned).trans (forall_prop_of_true closed)
  · rw [e.openingHolds_iff, downstream]
    have lit := Aspect.ne_closed_of_merge merge
    exact (and_iff_right fun closed => absurd closed lit).trans (forall_prop_of_true opened)

end Sys2Proof.Machine
end

section
/-! SUPPORT. The paths of R91, R92 and R103 row by row, and what lets a target taken under the hold go on as one
taken without it: a path reads neither the stage nor the wait of the head it begins at. -/

namespace Sys2Proof.Machine

/-! ## What a path does not read of its head -/

/-- The head record without its stage and its wait. -/
def Head.offPath (hd : Head) : Head :=
  { hd with stage := none, waitStart := none, waitTime := 0, stalled := false }

theorem Head.showing_offPath {x y : Head} (same : x.offPath = y.offPath) (now : Nat) (a : Aspect) (st : Stage) :
    x.showing now a st = y.showing now a st :=
  congrArg (·.showing now a st) same

/-- The gantry with another record for one head. -/
def Gantry.placeHead (g : Gantry) (h : Fin 8) (x : Head) : Gantry := { g with heads := g.heads.set h x }

theorem Gantry.placeHead_self (g : Gantry) (h : Fin 8) (x : Head) : (g.placeHead h x).heads[h] = x :=
  heads_set_self _ _ _

/-- A relighting reads of the heads before it what they show. -/
theorem Gantry.relight_congr {g g' : Gantry} (lanes : g'.lanes = g.lanes) (channels : g'.channels = g.channels)
    (slew : g'.slew = g.slew) (shown : ∀ i : Fin 8, g'.heads[i].shown = g.heads[i].shown) (old new : Bank)
    (forced : Fin 8 → Bool) (heads : Vector Head 8) :
    g'.relight old new forced heads = g.relight old new forced heads := by
  unfold Gantry.relight
  simp only [shown, old.litChannels_congr shown, lanes, channels, slew]

section
variable {e : Env} {g : Gantry} {h : Fin 8} {x : Head} (same : x.offPath = g.heads[h].offPath)
include same

/-- The other fields stand where `m` does not read stage and wait. -/
theorem Gantry.placeHead_field {β : Type} (m : Head → β) (reads : ∀ hd : Head, m hd.offPath = m hd) (i : Fin 8) :
    m (g.placeHead h x).heads[i] = m g.heads[i] :=
  heads_set_of m _ h i _ ((reads x).symm.trans ((congrArg m same).trans (reads _)))

theorem Env.lanesAfter_placeHead (a : Aspect) : e.lanesAfter h a (g.placeHead h x) = e.lanesAfter h a g := by
  have displayed := Gantry.placeHead_field same Head.displayed fun _ => rfl
  unfold Env.lanesAfter
  simp only [displayed]
  rfl

theorem Env.change_placeHead (a : Aspect) (st : Stage) : e.change h a st (g.placeHead h x) = e.change h a st g := by
  have heads : (g.placeHead h x).heads.set h (g.heads[h].showing e.now a st)
      = g.heads.set h (g.heads[h].showing e.now a st) := by simp [Gantry.placeHead]
  have shown := Gantry.placeHead_field same Head.shown fun _ => rfl
  unfold Env.change
  rw [Env.lanesAfter_placeHead same, g.placeHead_self, Head.showing_offPath same, heads]
  exact Gantry.relight_congr (g := { g with lanes := e.lanesAfter h a g })
    (g' := { g.placeHead h x with lanes := e.lanesAfter h a g }) rfl rfl rfl shown _ _ _ _

theorem Env.openingHolds_placeHead (a : Aspect) : e.openingHolds h a (g.placeHead h x) = e.openingHolds h a g := by
  have displayed := Gantry.placeHead_field same Head.displayed fun _ => rfl
  have proving := Gantry.placeHead_field same Head.proving fun _ => rfl
  unfold Env.openingHolds Env.guardHolds
  simp only [displayed, proving]
  rfl

end

section
variable (e : Env) (h : Fin 8) (a : Aspect) (st w : Stage) (g : Gantry)

theorem Env.change_stand : e.change h a st (g.stand h w) = e.change h a st g :=
  Env.change_placeHead (x := { g.heads[h] with stage := some w }) rfl a st

/-- The head that waits, as `Env.wait` leaves it. -/
theorem Env.wait_offPath : ((e.wait h w g).heads[h]).offPath = g.heads[h].offPath := by
  rw [e.wait_head]
  rfl

theorem Env.wait_eq : e.wait h w g = g.placeHead h (e.wait h w g).heads[h] := by
  rw [e.wait_head]
  rfl

theorem Env.change_wait : e.change h a st (e.wait h w g) = e.change h a st g := by
  rw [e.wait_eq]
  exact Env.change_placeHead (e.wait_offPath h w g) a st

theorem Env.openingHolds_wait : e.openingHolds h a (e.wait h w g) = e.openingHolds h a g := by
  rw [e.wait_eq]
  exact Env.openingHolds_placeHead (e.wait_offPath h w g) a

end

/-! ## The rows of the path table (R91, R92) -/

theorem Aspect.merge_iff {a : Aspect} : a.merge = true ↔ a = .mergeL ∨ a = .mergeR := by
  cases a <;> decide

theorem Aspect.permissive_cases {a : Aspect} : a.permissive = true ↔ a = .open_ ∨ a.merge = true := by
  cases a <;> decide

section
variable {h : Fin 8} {a : Aspect} {g : Gantry} (target : g.heads[h].target = some a)
include target

/-- The displayed aspect is the target's: there is no path. -/
theorem Env.beginPath_arrived (e : Env) (arrived : g.heads[h].displayed = a) :
    e.beginPath h g = g.stand h .steady := by
  unfold Env.beginPath
  rw [target]
  exact if_pos arrived

section
variable (e : Env) (away : g.heads[h].displayed ≠ a)
include away

theorem Env.beginPath_turn (permissive : g.heads[h].displayed.permissive = true) (merge : a.merge = true) :
    e.beginPath h g = e.atOnce h a .steady g := by
  unfold Env.beginPath
  rw [target]
  simp only [if_neg away]
  rcases Aspect.permissive_cases.1 permissive with opened | merging
  · simp only [opened, merge, if_true]
  · rcases Aspect.merge_iff.1 merging with left | right
    · simp only [left, merge, if_true]
    · simp only [right, merge, if_true]

theorem Env.beginPath_close (opened : g.heads[h].displayed = .open_) (merge : a.merge = false) :
    e.beginPath h g = e.atOnce h (e.bank.closingMerge h) .merging g := by
  unfold Env.beginPath
  rw [target]
  simp only [if_neg away]
  simp only [opened, merge, if_neg Bool.false_ne_true]

theorem Env.beginPath_leaveClosed (closed : g.heads[h].displayed = .closed) :
    e.beginPath h g = e.reachOpeningWait h a g := by
  unfold Env.beginPath
  rw [target]
  simp only [if_neg away]
  simp only [closed]

end

section
variable (e : Env) (merging : g.heads[h].displayed.merge = true)
include merging

theorem Env.beginPath_open (opened : a = .open_) : e.beginPath h g = e.reachOpeningWait h a g := by
  subst opened
  unfold Env.beginPath
  rw [target]
  simp only [if_neg (Aspect.ne_open_of_merge merging)]
  rcases Aspect.merge_iff.1 merging with left | right
  · simp only [left]
    rfl
  · simp only [right]
    rfl

theorem Env.beginPath_dwell (merge : a.merge = false) (opened : a ≠ .open_) : e.beginPath h g =
    if g.heads[h].mergeServed < e.bank.dwellMs then g.stand h .merging else e.reachCloseWait h g := by
  have away : g.heads[h].displayed ≠ a := by
    rintro rfl
    exact Bool.false_ne_true (merge.symm.trans merging)
  unfold Env.beginPath
  rw [target]
  simp only [if_neg away]
  rcases Aspect.merge_iff.1 merging with left | right
  · simp only [left, merge, if_neg opened, if_neg Bool.false_ne_true]
  · simp only [right, merge, if_neg opened, if_neg Bool.false_ne_true]

end

end

/-! ## Re-tests (R99) -/

section
variable {e : Env} {h : Fin 8} {g : Gantry}

theorem Env.retest_stand {st : Stage} (still : st = .steady ∨ st = .merging) :
    e.retest h (g.stand h st) = g.stand h st := by
  refine Env.retest_rests ?_
  rw [g.stand_head]
  rcases still with rfl | rfl
  · exact .inr (.inr (.inl rfl))
  · exact .inr (.inr (.inr (.inl rfl)))

variable (unheld : e.hold = false)
include unheld

theorem Env.retest_closeWait (wait : g.heads[h].stage = some .closeWait) :
    e.retest h g = if e.upstreamHolds h then e.change h .closed .steady g else g := by
  unfold Env.retest
  rw [wait]
  exact if_neg (by simp [unheld])

theorem Env.retest_openingWait (wait : g.heads[h].stage = some .openingWait) {a : Aspect}
    (target : g.heads[h].target = some a) :
    e.retest h g = if e.openingHolds h a g then e.change h a .steady g else g := by
  unfold Env.retest
  rw [wait, target]
  exact if_neg (by simp [unheld])

theorem Env.retest_held (held : g.heads[h].stage = some .held) : e.retest h g = e.beginPath h g := by
  have same : { e with hold := false } = e := by rw [← unheld]
  unfold Env.retest Env.heldChange
  rw [held, same]
  exact if_neg (by simp [unheld])

/-! ## A target let go (R103) -/

/-- A change held is made at the re-test, where the path's row is the same from HELD. -/
theorem Env.retest_atOnce {b : Aspect} {st : Stage}
    (row : ∀ g' : Gantry, g'.heads[h].displayed = g.heads[h].displayed →
      g'.heads[h].target = g.heads[h].target → e.beginPath h g' = e.atOnce h b st g') :
    e.retest h ({ e with hold := true }.atOnce h b st g) = e.beginPath h g := by
  have stood : { e with hold := true }.atOnce h b st g = g.stand h .held := rfl
  have changes : ∀ g', e.atOnce h b st g' = e.change h b st g' := fun _ => if_neg (by simp [unheld])
  have here := g.stand_head h .held
  rw [stood, Env.retest_held unheld (by rw [here]), row _ (by rw [here]) (by rw [here]), row g rfl rfl, changes,
    changes]
  exact e.change_stand h b st .held g

theorem Env.retest_reachOpeningWait {a : Aspect} (target : g.heads[h].target = some a) :
    e.retest h ({ e with hold := true }.reachOpeningWait h a g) = e.reachOpeningWait h a g := by
  have waited : { e with hold := true }.reachOpeningWait h a g = e.wait h .openingWait g := rfl
  have here := e.wait_head h .openingWait g
  rw [waited, Env.retest_openingWait unheld (by rw [here]) (a := a) (by rw [here]; exact target)]
  rw [e.openingHolds_wait, e.change_wait]
  simp [Env.reachOpeningWait, unheld]

theorem Env.retest_reachCloseWait :
    e.retest h ({ e with hold := true }.reachCloseWait h g) = e.reachCloseWait h g := by
  have waited : { e with hold := true }.reachCloseWait h g = e.wait h .closeWait g := rfl
  have here := e.wait_head h .closeWait g
  rw [waited, Env.retest_closeWait unheld (by rw [here])]
  rw [e.change_wait]
  simp [Env.reachCloseWait, unheld]

/-- A path begun under the hold and let go is the path begun without it: row by row. -/
theorem Env.retest_beginPath {a : Aspect} (target : g.heads[h].target = some a)
    (lit : g.heads[h].displayed ≠ .dark) :
    e.retest h ({ e with hold := true }.beginPath h g) = e.beginPath h g := by
  by_cases arrived : g.heads[h].displayed = a
  · rw [Env.beginPath_arrived target _ arrived, Env.beginPath_arrived target _ arrived]
    exact Env.retest_stand (.inl rfl)
  by_cases turn : g.heads[h].displayed.permissive = true ∧ a.merge = true
  · obtain ⟨permissive, merge⟩ := turn
    rw [Env.beginPath_turn target _ arrived permissive merge]
    exact Env.retest_atOnce unheld fun g' shown aimed => Env.beginPath_turn (aimed.trans target) e
      (by rwa [shown]) (by rwa [shown]) merge
  cases displayed : g.heads[h].displayed with
  | dark => exact absurd displayed lit
  | closed =>
    rw [Env.beginPath_leaveClosed target _ arrived displayed, Env.beginPath_leaveClosed target _ arrived displayed]
    exact Env.retest_reachOpeningWait unheld target
  | open_ =>
    have merge : a.merge = false := Bool.eq_false_iff.2 fun merge => turn ⟨by rw [displayed]; rfl, merge⟩
    rw [Env.beginPath_close target _ arrived displayed merge]
    exact Env.retest_atOnce unheld fun g' shown aimed => Env.beginPath_close (aimed.trans target) e
      (by rwa [shown]) (shown.trans displayed) merge
  | mergeL | mergeR =>
    have merging : g.heads[h].displayed.merge = true := by rw [displayed]; rfl
    have merge : a.merge = false := Bool.eq_false_iff.2 fun merge => turn ⟨by rw [displayed]; rfl, merge⟩
    by_cases opened : a = .open_
    · rw [Env.beginPath_open target _ merging opened, Env.beginPath_open target _ merging opened]
      exact Env.retest_reachOpeningWait unheld target
    · rw [Env.beginPath_dwell target _ merging merge opened, Env.beginPath_dwell target _ merging merge opened]
      split
      · exact Env.retest_stand (.inr rfl)
      · exact Env.retest_reachCloseWait unheld

end

/-! ## What a path leaves of its head -/

/-- The head shows `x` in stage `st` under target `a`, in no wait, its merge begun at `since` with `served`
served. -/
def Head.arrives (hd : Head) (a x : Aspect) (st : Stage) (since : Option Nat) (served : Nat) : Prop :=
  hd.displayed = x ∧ hd.stage = some st ∧ hd.target = some a ∧ hd.mergeSince = since
    ∧ hd.mergeServed = served ∧ hd.waitStart = none ∧ hd.stalled = false

section
variable {e : Env} {h : Fin 8} {a x : Aspect} {st : Stage} {g : Gantry} {since : Option Nat} {served : Nat}

theorem Env.change_arrives (target : g.heads[h].target = some a)
    (begins : (if x.merge then (if g.heads[h].displayed.merge then g.heads[h].mergeSince else some e.now) else none)
      = since)
    (serves : (if x.merge && g.heads[h].displayed.merge then g.heads[h].mergeServed else 0) = served) :
    ((e.change h x st g).heads[h]).arrives a x st since served := by
  obtain ⟨p, changed⟩ := e.change_head h x st g
  rw [changed]
  exact ⟨rfl, rfl, target, begins, serves, rfl, rfl⟩

/-- A merge begins at the change, where one is shown. -/
theorem Env.change_arrives_begun (target : g.heads[h].target = some a)
    (fresh : g.heads[h].displayed.merge = false) :
    ((e.change h x st g).heads[h]).arrives a x st (if x.merge then some e.now else none) 0 :=
  Env.change_arrives target (by rw [fresh]; rfl) (by rw [fresh, Bool.and_false]; rfl)

/-- A merge turned to the other goes on. -/
theorem Env.change_arrives_turned (target : g.heads[h].target = some a)
    (merging : g.heads[h].displayed.merge = true) (merge : x.merge = true) :
    ((e.change h x st g).heads[h]).arrives a x st g.heads[h].mergeSince g.heads[h].mergeServed :=
  Env.change_arrives target (by rw [merging, merge]; rfl) (by rw [merging, merge]; rfl)

theorem Env.atOnce_arrives (shown : ((e.change h x st g).heads[h]).arrives a x st since served) :
    if e.hold then (e.atOnce h x st g).heads[h] = { g.heads[h] with stage := some .held }
    else ((e.atOnce h x st g).heads[h]).arrives a x st since served := by
  unfold Env.atOnce
  split
  · exact g.stand_head h .held
  · exact shown

theorem Env.reachOpeningWait_arrives
    (shown : ((e.change h x .steady g).heads[h]).arrives a x .steady since served) :
    (e.hold = false ∧ e.openingHolds h x g = true →
        ((e.reachOpeningWait h x g).heads[h]).arrives a x .steady since served)
      ∧ (¬(e.hold = false ∧ e.openingHolds h x g = true) → (e.reachOpeningWait h x g).heads[h] =
        { g.heads[h] with stage := some .openingWait, waitStart := some e.now, waitTime := 0, stalled := false }) := by
  unfold Env.reachOpeningWait
  refine ⟨fun opens => ?_, fun waits => ?_⟩
  · rw [if_pos (by simpa using opens)]
    exact shown
  · rw [if_neg (by simpa using waits), e.wait_head]

theorem Env.reachCloseWait_arrives
    (shown : ((e.change h .closed .steady g).heads[h]).arrives a .closed .steady since served) :
    (e.hold = false ∧ e.upstreamHolds h = true →
        ((e.reachCloseWait h g).heads[h]).arrives a .closed .steady since served)
      ∧ (¬(e.hold = false ∧ e.upstreamHolds h = true) → (e.reachCloseWait h g).heads[h] =
        { g.heads[h] with stage := some .closeWait, waitStart := some e.now, waitTime := 0, stalled := false }) := by
  unfold Env.reachCloseWait
  refine ⟨fun closes => ?_, fun waits => ?_⟩
  · rw [if_pos (by simpa using closes)]
    exact shown
  · rw [if_neg (by simpa using waits), e.wait_head]

end

/-! ## O46 -/

theorem Env.setTarget_other {e : Env} {h : Fin 8} {a : Aspect} {g : Gantry} (other : g.heads[h].target ≠ some a) :
    e.setTarget h a g = e.beginPath h (g.placeHead h
      { g.heads[h] with target := some a, waitStart := none, waitTime := 0, stalled := false }) := if_neg other

/-- A target taken under the hold and let go is the target taken without it. -/
theorem Env.retest_setTarget {e : Env} {h : Fin 8} {a : Aspect} {g : Gantry} (unheld : e.hold = false)
    (other : g.heads[h].target ≠ some a) (lit : g.heads[h].displayed ≠ .dark) :
    e.retest h ({ e with hold := true }.setTarget h a g) = e.setTarget h a g := by
  rw [Env.setTarget_other other, Env.setTarget_other other]
  have here := g.placeHead_self h
    { g.heads[h] with target := some a, waitStart := none, waitTime := 0, stalled := false }
  exact Env.retest_beginPath unheld (a := a) (by rw [here]) (by rwa [here])

/-- Settles O46: each row by its equation, and what the act of the row leaves of the head. -/
theorem pathsBeginAsTabled : Obligations.PathsBeginAsTabled := by
  unfold Obligations.PathsBeginAsTabled
  refine ⟨fun e h a g => ⟨fun same => if_pos same, Env.setTarget_other⟩, fun e h a g other lit =>
    Env.retest_setTarget (e := { e with hold := false }) rfl other lit, fun e h g => ⟨?_, ?_, ?_, ?_, ?_⟩,
    fun e h a g target lit => ⟨?_, ?_, ?_, ?_, ?_, ?_, ?_, ?_⟩⟩
  · rintro (held | none | steady | merging)
    · exact Env.retest_rests (.inl held)
    · exact Env.retest_rests (.inr (.inl none))
    · exact Env.retest_rests (.inr (.inr (.inl steady)))
    · exact Env.retest_rests (.inr (.inr (.inr (.inl merging))))
  · exact fun unheld wait => Env.retest_closeWait unheld wait
  · exact fun unheld wait a target => Env.retest_openingWait unheld wait target
  · exact fun unheld held => Env.retest_held unheld held
  · exact ⟨rfl, fun _ => rfl⟩
  · intro arrived
    rw [Env.beginPath_arrived target e arrived]
    exact g.stand_head h .steady
  · intro opened merge
    have shown := Env.change_arrives_begun (e := e) (x := a) (st := .steady) target (by rw [opened]; rfl)
    rw [merge, if_pos rfl] at shown
    have away : g.heads[h].displayed ≠ a := fun same => Aspect.ne_open_of_merge merge (same ▸ opened)
    rw [Env.beginPath_turn target e away (by rw [opened]; rfl) merge]
    exact Env.atOnce_arrives shown
  · rintro opened rfl
    have shown := Env.change_arrives_begun (e := e) (x := e.bank.closingMerge h) (st := .merging) target
      (by rw [opened]; rfl)
    rw [e.bank.closingMerge_merge h, if_pos rfl] at shown
    rw [Env.beginPath_close target e (by rw [opened]; decide) opened rfl]
    exact Env.atOnce_arrives shown
  · intro merging merge away
    rw [Env.beginPath_turn target e away (Aspect.permissive_cases.2 (.inr merging)) merge]
    exact Env.atOnce_arrives (Env.change_arrives_turned target merging merge)
  · rintro merging rfl
    rw [Env.beginPath_open target e merging rfl]
    exact Env.reachOpeningWait_arrives (Env.change_arrives target rfl rfl)
  · rintro merging rfl
    rw [Env.beginPath_dwell target e merging rfl (by decide)]
    refine ⟨fun short => ?_, fun served => ?_⟩
    · rw [if_pos short]
      exact g.stand_head h .merging
    · rw [if_neg (Nat.not_lt.2 served)]
      exact Env.reachCloseWait_arrives (Env.change_arrives target rfl rfl)
  · intro closed permissive
    have away : g.heads[h].displayed ≠ a := by
      rintro rfl
      rw [closed] at permissive
      cases permissive
    rw [Env.beginPath_leaveClosed target e away closed]
    exact Env.reachOpeningWait_arrives (Env.change_arrives_begun target (by rw [closed]; rfl))
  · exact fun i other => (e.beginPath_onlyHead h g).other i other

end Sys2Proof.Machine
end

section
/-! SUPPORT. The sequencer's timers at the moment they are due (R89, R94, R101, R120). -/

namespace Sys2Proof.Machine

/-! ## A timed command up to whose moment nothing is due -/

theorem State.timed_of_le {s : State} {n : Nat} (next : n ≤ s.untilNext) (event : State → State) :
    s.timed n event = (event (s.elapse n)).dueTest := by
  unfold State.timed
  rw [State.reach_of_le next]

section
variable {u : State} (unheld : u.node.hold = false)
include unheld

theorem State.dueDwell_due {h : Fin 8} (due : u.env.dwellDue h u.gantry = true) :
    u.dueDwell h = { u with gantry := u.env.reachCloseWait h u.gantry } := by
  have completes : u.env.dwellComplete h u.gantry = u.env.reachCloseWait h u.gantry :=
    if_pos (Env.dwellDue_iff.1 due).2.1
  rw [State.dueDwell, if_pos (by rw [unheld, due]; rfl), State.seq, completes]

theorem State.dueClearance_due {k : Fin 4} (due : u.env.clearanceDue k u.gantry = true) :
    u.dueClearance k = { u with gantry := u.env.clearanceComplete k u.gantry } := by
  rw [State.dueClearance, if_pos (by rw [unheld, due]; rfl), State.seq]

theorem State.dueStall_due {h : Fin 8} (due : u.env.stallDue h u.gantry = true) : u.dueStall h = { u with
    gantry := u.gantry.stall h
    events := u.events.post ⟨.sequenceStalled h, 0, 0, u.take.clock⟩ } := by
  rw [State.dueStall, if_pos (by rw [unheld, due]; rfl)]
  rfl

end

theorem State.dueStale_due {r : Reference} {u : State} {n : Neighbour}
    (found : findRecord u.sweep.records r = some n) (expires : u.expires n = true) : u.dueStale r = u.goStale n := by
  unfold State.dueStale
  rw [found]
  exact if_pos expires

/-! ## The timers as time comes to them -/

section
variable {s : State} (unheld : s.node.hold = false)
include unheld

theorem State.elapse_dwellDue {h : Fin 8} (present : s.store.active.headExists h = true)
    (merging : s.gantry.heads[h].stage = some .merging) (runs : s.gantry.heads[h].mergeSince ≠ none) :
    let u := s.elapse (s.store.active.dwellMs - s.gantry.heads[h].mergeServed)
    u.env.dwellDue h u.gantry = true := by
  refine Env.dwellDue_iff.2 ⟨present, ?_⟩
  rw [State.elapse_heads, if_pos ⟨unheld, runs⟩]
  exact ⟨merging, le_add_tsub⟩

theorem State.elapse_clearanceDue {k : Fin 4} (tidal : s.store.active.tidal k = true)
    (runs : s.gantry.lanes[k].clearSince ≠ none) (unclear : s.gantry.lanes[k].clear = false) :
    let u := s.elapse (s.store.active.clearanceMs k - s.gantry.lanes[k].clearCount)
    u.env.clearanceDue k u.gantry = true := by
  refine Env.clearanceDue_iff.2 ⟨tidal, ?_⟩
  rw [State.elapse_lanes, if_pos ⟨unheld, runs⟩]
  exact ⟨runs, unclear, le_add_tsub⟩

theorem State.elapse_stallDue {h : Fin 8} (present : s.store.active.headExists h = true)
    (waits : s.gantry.heads[h].stage = some .closeWait ∨ s.gantry.heads[h].stage = some .openingWait)
    (unstalled : s.gantry.heads[h].stalled = false) (runs : s.gantry.heads[h].waitStart ≠ none) :
    let u := s.elapse (s.store.active.stallMs - s.gantry.heads[h].waitTime)
    u.env.stallDue h u.gantry = true := by
  refine Env.stallDue_iff.2 ⟨present, ?_⟩
  rw [State.elapse_heads, if_pos (c := _ ∧ s.gantry.heads[h].waitStart ≠ none) ⟨unheld, runs⟩]
  exact ⟨waits, unstalled, le_add_tsub⟩

end

theorem State.elapse_expires {s : State} {n : Neighbour} {refreshed : Nat} (fresh : n.fresh = true)
    (last : n.lastRefresh = some refreshed) :
    (s.elapse (refreshed + s.store.active.staleMs - s.now)).expires n = true :=
  (State.expires_iff _ n).2 ⟨fresh, refreshed, last, le_add_tsub⟩

/-! ## What the faces of a lane make of its clearance (R89) -/

section
variable {e : Env} {g : Gantry} {i j : Fin 8}

theorem Env.retestAll_first (ne : j ≠ i) (rests : e.Rests j g.heads[j]) : e.retestAll [i, j] g = e.retest i g := by
  have stands := (e.retest_onlyHead i g).other j ne
  exact Env.retest_rests (h := j) (by rwa [stands])

theorem Env.retestAll_second (rests : e.Rests i g.heads[i]) : e.retestAll [i, j] g = e.retest j g := by
  have stands : e.retest i g = g := Env.retest_rests rests
  exact congrArg (e.retest j) stands

end

/-- The head stands on no wait: a re-test leaves it. -/
def Head.still (hd : Head) : Prop := hd.stage = some .steady ∨ hd.stage = some .merging

theorem Head.still.rests {hd : Head} (still : hd.still) (e : Env) (h : Fin 8) : e.Rests h hd := by
  rcases still with steady | merging
  · exact .inr (.inr (.inl steady))
  · exact .inr (.inr (.inr (.inl merging)))

theorem Head.still.off_openingWait {hd : Head} (still : hd.still) : hd.stage ≠ some .openingWait := by
  rcases still with steady | merging
  · rw [steady]
    nofun
  · rw [merging]
    nofun

/-- The lane clear flag set. -/
def Gantry.clearLane (g : Gantry) (k : Fin 4) : Gantry :=
  { g with lanes := g.lanes.set k { g.lanes[k] with clear := true } }

theorem Env.clearanceComplete_eq (e : Env) (k : Fin 4) (g : Gantry) : e.clearanceComplete k g =
    e.retestAll [e.bank.faceHead k .asc, e.bank.faceHead k .desc] (g.clearLane k) := rfl

section
variable {e : Env} {g : Gantry} {k : Fin 4}

theorem Env.clearanceComplete_other {i : Fin 8} (asc : i ≠ e.bank.faceHead k .asc)
    (desc : i ≠ e.bank.faceHead k .desc) : (e.clearanceComplete k g).heads[i] = g.heads[i] :=
  e.retestAll_other _ (g.clearLane k) i (by simp [asc, desc])

theorem Env.clearanceComplete_still (asc : (g.heads[e.bank.faceHead k .asc]).still)
    (desc : (g.heads[e.bank.faceHead k .desc]).still) : e.clearanceComplete k g = g.clearLane k := by
  refine Env.retestAll_rests (g := g.clearLane k) fun i faces => ?_
  simp only [List.mem_cons, List.not_mem_nil, or_false] at faces
  rcases faces with rfl | rfl
  · exact asc.rests e _
  · exact desc.rests e _

/-- Where one face stands in OPENING_WAIT and the other is still, the one re-tests alone: it opens, or waits on. -/
theorem Env.clearanceComplete_opening (unheld : e.hold = false) {f : Face} {a : Aspect}
    (other : (g.heads[e.bank.faceHead k f.other]).still)
    (wait : g.heads[e.bank.faceHead k f].stage = some .openingWait)
    (target : g.heads[e.bank.faceHead k f].target = some a) : e.clearanceComplete k g =
      if e.openingHolds (e.bank.faceHead k f) a (g.clearLane k) then
        e.change (e.bank.faceHead k f) a .steady (g.clearLane k)
      else g.clearLane k := by
  have alone : e.clearanceComplete k g = e.retest (e.bank.faceHead k f) (g.clearLane k) := by
    rw [e.clearanceComplete_eq]
    cases f with
    | asc =>
      refine Env.retestAll_first (fun same => other.off_openingWait ?_) (other.rests e _)
      exact (congrArg (fun i : Fin 8 => g.heads[i].stage) same).trans wait
    | desc => exact Env.retestAll_second (other.rests e _)
  rw [alone]
  exact Env.retest_openingWait (g := g.clearLane k) unheld wait target

end

/-! ## The statement's parts -/

section
variable {s : State} (works : s.works = true)
include works

theorem exec_mergeDwellCompletion_completes (unheld : s.node.hold = false) {h : Fin 8}
    (present : s.store.active.headExists h = true) (merging : s.gantry.heads[h].stage = some .merging)
    (runs : s.gantry.heads[h].mergeSince ≠ none)
    (next : s.store.active.dwellMs - s.gantry.heads[h].mergeServed ≤ s.untilNext) :
    let u := s.elapse (s.store.active.dwellMs - s.gantry.heads[h].mergeServed)
    exec (.mergeDwellCompletion h) s
      = .next ({ u with gantry := u.env.reachCloseWait h u.gantry } : State).dueTest := by
  intro u
  rw [exec_mergeDwellCompletion_running works unheld present merging, State.timed_of_le next,
    State.dueDwell_due (u := u) unheld (State.elapse_dwellDue unheld present merging runs)]

theorem exec_clearanceCompletion_completes (unheld : s.node.hold = false) {k : Fin 4}
    (tidal : s.store.active.tidal k = true) (runs : s.gantry.lanes[k].clearSince ≠ none)
    (unclear : s.gantry.lanes[k].clear = false)
    (next : s.store.active.clearanceMs k - s.gantry.lanes[k].clearCount ≤ s.untilNext) :
    let u := s.elapse (s.store.active.clearanceMs k - s.gantry.lanes[k].clearCount)
    exec (.clearanceCompletion k) s
      = .next ({ u with gantry := u.env.clearanceComplete k u.gantry } : State).dueTest := by
  intro u
  rw [exec_clearanceCompletion_running works unheld tidal runs unclear, State.timed_of_le next,
    State.dueClearance_due (u := u) unheld (State.elapse_clearanceDue unheld tidal runs unclear)]

theorem exec_stallTimeout_completes (unheld : s.node.hold = false) {h : Fin 8}
    (present : s.store.active.headExists h = true)
    (waits : s.gantry.heads[h].stage = some .closeWait ∨ s.gantry.heads[h].stage = some .openingWait)
    (unstalled : s.gantry.heads[h].stalled = false) (runs : s.gantry.heads[h].waitStart ≠ none)
    (next : s.store.active.stallMs - s.gantry.heads[h].waitTime ≤ s.untilNext) :
    let u := s.elapse (s.store.active.stallMs - s.gantry.heads[h].waitTime)
    exec (.stallTimeout h) s = .next ({ u with
      gantry := u.gantry.stall h
      events := s.events.post ⟨.sequenceStalled h, 0, 0, u.take.clock⟩ } : State).dueTest := by
  intro u
  rw [exec_stallTimeout_running works unheld present waits unstalled, State.timed_of_le next,
    State.dueStall_due (u := u) unheld (State.elapse_stallDue unheld present waits unstalled runs)]
  rfl

theorem exec_staleExpiry_completes {n : Neighbour} {refreshed : Nat}
    (found : findRecord s.sweep.records ⟨n.address, n.head⟩ = some n) (fresh : n.fresh = true)
    (last : n.lastRefresh = some refreshed) (next : refreshed + s.store.active.staleMs - s.now ≤ s.untilNext) :
    exec (.staleExpiry n.address n.head) s
      = .next ((s.elapse (refreshed + s.store.active.staleMs - s.now)).goStale n).dueTest := by
  rw [exec_staleExpiry_running works found fresh last, State.timed_of_le next,
    State.dueStale_due (u := s.elapse _) found (State.elapse_expires fresh last)]

end

/-- A dwell served goes on to CLOSED, or to wait for it; no other head is touched. -/
theorem Env.reachCloseWait_served {e : Env} (h : Fin 8) (g : Gantry) (unheld : e.hold = false) :
    if e.upstreamHolds h then
      (e.reachCloseWait h g).heads[h].displayed = .closed ∧ (e.reachCloseWait h g).heads[h].stage = some .steady
    else (e.reachCloseWait h g).heads[h] = { g.heads[h] with
      stage := some .closeWait, waitStart := some e.now, waitTime := 0, stalled := false } := by
  unfold Env.reachCloseWait
  cases upstream : e.upstreamHolds h
  · simp only [unheld, Bool.not_false, Bool.and_false, Bool.false_eq_true, if_false]
    exact e.wait_head h .closeWait g
  · obtain ⟨p, shown⟩ := e.change_head h .closed .steady g
    simp only [unheld, Bool.not_false, Bool.and_true, if_true]
    rw [shown]
    exact ⟨rfl, rfl⟩

/-- The heads that refer to a record, in order. -/
theorem Bank.referring_eq {b : Bank} {n : Neighbour} {hs : List (Fin 8)}
    (refer : ∀ h, h ∈ hs ↔ b.headExists h = true ∧ b.refersTo h n = true) (sorted : hs.Pairwise (· < ·)) :
    (b.existing.filter fun h => b.refersTo h n) = hs :=
  (b.existing_sorted.filter _).eq_of_mem_iff sorted fun h => by
    rw [List.mem_filter, b.mem_existing, refer]

/-- Settles O44: each timer by its completion at its own moment. -/
theorem sequencerTimersComplete : Obligations.SequencerTimersComplete := by
  unfold Obligations.SequencerTimersComplete
  refine ⟨fun s h works unheld present merging runs => ?_, fun s k works unheld tidal runs unclear => ?_,
    fun s h works unheld present waits unstalled runs => ?_, fun s n refreshed works found fresh last => ?_⟩
  · intro n u next
    refine ⟨_, exec_mergeDwellCompletion_completes works unheld present merging runs next, rfl, ?_, ?_⟩
    · exact (u.env.reachCloseWait_onlyHead h u.gantry).other
    · exact Env.reachCloseWait_served (e := u.env) h u.gantry unheld
  · intro b n u cleared still next
    have opening : ∀ (f : Face) (a : Aspect), still (b.faceHead k f.other) →
        u.gantry.heads[b.faceHead k f].stage = some .openingWait → u.gantry.heads[b.faceHead k f].target = some a →
        u.env.clearanceComplete k u.gantry = if u.env.openingHolds (b.faceHead k f) a cleared then
          u.env.change (b.faceHead k f) a .steady cleared else cleared := fun f a other wait target =>
      Env.clearanceComplete_opening (e := u.env) unheld other wait target
    refine ⟨_, exec_clearanceCompletion_completes works unheld tidal runs unclear next, rfl,
      fun i asc desc => Env.clearanceComplete_other asc desc, rfl,
      fun asc desc => Env.clearanceComplete_still asc desc, fun f a other wait target unmet => ?_,
      fun f a other wait target opens => ?_⟩
    · exact (opening f a other wait target).trans (if_neg (by rw [unmet]; nofun))
    · have opened := (opening f a other wait target).trans (if_pos opens)
      obtain ⟨p, shown⟩ := u.env.change_head (b.faceHead k f) a .steady cleared
      rw [← opened] at shown
      exact ⟨congrArg Head.displayed shown, congrArg Head.stage shown⟩
  · exact fun next => exec_stallTimeout_completes works unheld present waits unstalled runs next
  · intro u next
    refine ⟨_, exec_staleExpiry_completes works found fresh last next, rfl, fun h apart => ?_,
      fun hs refer sorted => ?_, rfl⟩
    · refine Env.retestAll_other _ _ u.gantry h fun refers => ?_
      exact Bool.false_ne_true (apart.symm.trans (List.mem_filter.1 refers).2)
    · rw [← Bank.referring_eq refer sorted]
      rfl

end Sys2Proof.Machine
end

section
/-! SUPPORT. HOLD, STEP and RELEASE (R102 to R105). -/

namespace Sys2Proof.Machine

/-! ## STEP, stage by stage (R104) -/

section
variable {e : Env} {h : Fin 8} {g : Gantry}

theorem Env.stepHead_still (still : g.heads[h].stage = none ∨ g.heads[h].stage = some .steady) :
    e.stepHead h g = g := by
  unfold Env.stepHead
  rcases still with none | steady
  · rw [none]
  · rw [steady]

theorem Env.stepHead_held (held : g.heads[h].stage = some .held) :
    e.stepHead h g = { e with hold := false }.beginPath h g := by
  unfold Env.stepHead
  rw [held]
  rfl

theorem Env.stepHead_closing (closing : g.heads[h].stage = some .merging ∨ g.heads[h].stage = some .closeWait) :
    e.stepHead h g = if e.upstreamHolds h then e.change h .closed .steady g else g := by
  unfold Env.stepHead
  rcases closing with merging | wait
  · rw [merging]
  · rw [wait]

theorem Env.stepHead_opening (wait : g.heads[h].stage = some .openingWait) {a : Aspect}
    (target : g.heads[h].target = some a) :
    e.stepHead h g = if e.openingHolds h a g then e.change h a .steady g else g := by
  unfold Env.stepHead
  rw [wait, target]

/-- At a STEP the head is acted on once, as it stands before. -/
theorem Env.stepExisting_head (present : e.bank.headExists h = true) : ∃ g' : Gantry,
    g'.heads[h] = g.heads[h] ∧ (e.stepExisting g).heads[h] = (e.stepHead h g').heads[h] :=
  foldl_head (fun g i => e.stepHead_onlyHead i g) e.bank.existing_nodup ((e.bank.mem_existing h).2 present) g

theorem Env.stepExisting_stands (still : e.bank.headExists h = false ∨ g.heads[h].stage = some .steady) :
    (e.stepExisting g).heads[h] = g.heads[h] := by
  cases present : e.bank.headExists h
  · have absent : h ∉ e.bank.existing := fun member =>
      Bool.false_ne_true (present.symm.trans ((e.bank.mem_existing h).1 member))
    exact foldl_head_other (fun g i => e.stepHead_onlyHead i g) absent g
  · have steady : g.heads[h].stage = some .steady := still.resolve_left (by rw [present]; nofun)
    obtain ⟨g', same, stepped⟩ := Env.stepExisting_head (g := g) present
    rw [stepped, Env.stepHead_still (.inr (by rw [same]; exact steady)), same]

theorem Env.change_shows (e : Env) (h : Fin 8) (a : Aspect) (st : Stage) (g : Gantry) :
    (e.change h a st g).heads[h].displayed = a ∧ (e.change h a st g).heads[h].stage = some st := by
  rw [e.change_displayed, e.change_stage, if_pos rfl, if_pos rfl]
  exact ⟨rfl, rfl⟩

theorem Env.stepExisting_closing (present : e.bank.headExists h = true)
    (closing : g.heads[h].stage = some .merging ∨ g.heads[h].stage = some .closeWait) :
    if e.upstreamHolds h then
      (e.stepExisting g).heads[h].displayed = .closed ∧ (e.stepExisting g).heads[h].stage = some .steady
    else (e.stepExisting g).heads[h] = g.heads[h] := by
  obtain ⟨g', same, stepped⟩ := Env.stepExisting_head (g := g) present
  rw [stepped, Env.stepHead_closing (by rwa [same])]
  cases e.upstreamHolds h
  · exact same
  · exact e.change_shows h .closed .steady g'

theorem Env.atOnce_unheld (unheld : e.hold = false) (a : Aspect) (st : Stage) :
    e.atOnce h a st g = e.change h a st g := if_neg (by simp [unheld])

section
variable (present : e.bank.headExists h = true) (held : g.heads[h].stage = some .held) {a : Aspect}
  (target : g.heads[h].target = some a) (away : g.heads[h].displayed ≠ a)
include present held target away

theorem Env.stepExisting_heldClose (opened : g.heads[h].displayed = .open_) (merge : a.merge = false) :
    (e.stepExisting g).heads[h].displayed = e.bank.closingMerge h
      ∧ (e.stepExisting g).heads[h].stage = some .merging := by
  obtain ⟨g', same, stepped⟩ := Env.stepExisting_head (g := g) present
  rw [← same] at held target away opened
  rw [stepped, Env.stepHead_held held, Env.beginPath_close target _ away opened merge, Env.atOnce_unheld rfl]
  exact Env.change_shows _ h _ _ g'

theorem Env.stepExisting_heldTurn (permissive : g.heads[h].displayed.permissive = true) (merge : a.merge = true) :
    (e.stepExisting g).heads[h].displayed = a ∧ (e.stepExisting g).heads[h].stage = some .steady := by
  obtain ⟨g', same, stepped⟩ := Env.stepExisting_head (g := g) present
  rw [← same] at held target away permissive
  rw [stepped, Env.stepHead_held held, Env.beginPath_turn target _ away permissive merge, Env.atOnce_unheld rfl]
  exact Env.change_shows _ h _ _ g'

end

theorem changedHeads_eq (g g' : Gantry) : changedHeads g g' =
    (allHeads.filter fun h => g'.heads[h].displayed ≠ g.heads[h].displayed).length := by
  refine congrArg List.length (List.filter_congr fun h _ => Bool.eq_iff_iff.2 ?_)
  rw [bne_iff_ne, decide_eq_true_eq]

/-! ## RELEASE lets no head stand in HELD (R105) -/

theorem Env.reachCloseWait_stage : (e.reachCloseWait h g).heads[h].stage = some .steady
    ∨ (e.reachCloseWait h g).heads[h].stage = some .closeWait := by
  unfold Env.reachCloseWait
  split
  · exact .inl (e.change_shows h .closed .steady g).2
  · rw [e.wait_head]
    exact .inr rfl

theorem Env.reachOpeningWait_stage {a : Aspect} : (e.reachOpeningWait h a g).heads[h].stage = some .steady
    ∨ (e.reachOpeningWait h a g).heads[h].stage = some .openingWait := by
  unfold Env.reachOpeningWait
  split
  · exact .inl (e.change_shows h a .steady g).2
  · rw [e.wait_head]
    exact .inr rfl

/-- The head does not stand in HELD, or has a change to make there. -/
def Head.goesOn (hd : Head) : Prop := hd.stage = some .held → hd.displayed ≠ .dark ∧ hd.target ≠ none

theorem Head.goesOn_of {hd : Head} (off : hd.stage ≠ some .held) : hd.goesOn := fun held => absurd held off

theorem Stage.off_held {x : Option Stage} {st : Stage} (stage : x = some st) (off : st ≠ .held) :
    x ≠ some .held := by
  rw [stage]
  exact fun held => off (Option.some.inj held)

/-- What holds of every way a path can begin holds of the path. -/
theorem Env.beginPath_elim {P : Gantry → Prop} {a : Aspect} (target : g.heads[h].target = some a)
    (lit : g.heads[h].displayed ≠ .dark) (steady : P (g.stand h .steady)) (merging : P (g.stand h .merging))
    (change : ∀ b st, st = .steady ∨ st = .merging → P (e.atOnce h b st g))
    (opening : P (e.reachOpeningWait h a g)) (close : P (e.reachCloseWait h g)) : P (e.beginPath h g) := by
  unfold Env.beginPath
  rw [target]
  simp only
  split
  · exact steady
  · split
    case h_1 dark => exact absurd dark lit
    case h_2 =>
      split
      · exact change _ _ (.inl rfl)
      · exact change _ _ (.inr rfl)
    case h_3 => exact opening
    all_goals
      split
      · exact change _ _ (.inl rfl)
      · split
        · exact opening
        · split
          · exact merging
          · exact close

section
variable (unheld : e.hold = false)
include unheld

/-- A path begun unheld never stands in HELD. -/
theorem Env.beginPath_off_held {a : Aspect} (target : g.heads[h].target = some a)
    (lit : g.heads[h].displayed ≠ .dark) : (e.beginPath h g).heads[h].stage ≠ some .held := by
  have stands : ∀ st, (g.stand h st).heads[h].stage = some st := fun st => by rw [g.stand_head]
  refine Env.beginPath_elim (P := fun x => x.heads[h].stage ≠ some .held) target lit
    (Stage.off_held (stands _) nofun) (Stage.off_held (stands _) nofun) (fun b st changes => ?_) ?_ ?_
  · rw [Env.atOnce_unheld unheld]
    refine Stage.off_held (e.change_shows h b st g).2 ?_
    rcases changes with rfl | rfl
    · nofun
    · nofun
  · exact (e.reachOpeningWait_stage (h := h) (g := g) (a := a)).elim (Stage.off_held · nofun)
      (Stage.off_held · nofun)
  · exact (e.reachCloseWait_stage (h := h) (g := g)).elim (Stage.off_held · nofun) (Stage.off_held · nofun)

/-- A re-test makes the held change, and brings no other head to HELD. -/
theorem Env.retest_off_held (on : (g.heads[h]).goesOn) : (e.retest h g).heads[h].stage ≠ some .held := by
  by_cases held : g.heads[h].stage = some .held
  · obtain ⟨lit, aimed⟩ := on held
    obtain ⟨a, target⟩ := Option.ne_none_iff_exists'.1 aimed
    rw [Env.retest_held unheld held]
    exact Env.beginPath_off_held unheld target lit
  by_cases wait : g.heads[h].stage = some .closeWait ∨ g.heads[h].stage = some .openingWait
  · rcases Env.retest_wait (e := e) wait g (.inl rfl) with same | steady
    · rwa [same]
    · exact Stage.off_held steady nofun
  · have rests : e.Rests h g.heads[h] := by
      cases stage : g.heads[h].stage with
      | none => exact .inr (.inl stage)
      | some st =>
        cases st with
        | steady => exact .inr (.inr (.inl stage))
        | merging => exact .inr (.inr (.inr (.inl stage)))
        | closeWait => exact absurd (.inl stage) wait
        | openingWait => exact absurd (.inr stage) wait
        | held => exact absurd stage held
    rwa [Env.retest_rests rests]

/-- The completions of one event bring no head to HELD. -/
theorem Env.completed_goesOn {dwells stalls : Bool} {lanes : Fin 4 → Bool} {clock : Clock} {q : EventUnit}
    (on : (g.heads[h]).goesOn) : ((e.completed dwells lanes stalls clock g q).1.heads[h]).goesOn := by
  have dwelt : ((if dwells then e.dueDwells g else g).heads[h]).goesOn := by
    by_cases idle : dwells = true → e.dwellDue h g = false
    · rwa [Env.dwelt_idle idle]
    · obtain ⟨rfl, due⟩ := Classical.not_imp.1 idle
      obtain ⟨g', -, acted⟩ := Env.dueDwells_due (Bool.eq_true_of_not_eq_false due)
      rw [if_pos rfl, acted]
      exact Head.goesOn_of
        (Env.reachCloseWait_stage.elim (Stage.off_held · nofun) (Stage.off_held · nofun))
  have moved : ((e.moved dwells lanes g).heads[h]).goesOn :=
    Env.dueClearances_keeps (fun g on => Head.goesOn_of (Env.retest_off_held unheld on)) _ dwelt
  rw [Env.completed_moved]
  cases stalls
  · exact moved
  · rw [if_pos rfl]
    cases due : e.stallDue h (e.moved dwells lanes g)
    · rw [Env.stallAll_idle (r := (e.moved dwells lanes g, q)) due]
      exact moved
    · rw [(Env.stallAll_due (r := (e.moved dwells lanes g, q)) due).1]
      exact moved

/-- When every existing head re-tests, none is left in HELD. -/
theorem Env.retestExisting_off_held (present : e.bank.headExists h = true) (on : (g.heads[h]).goesOn) :
    (e.retestAll e.bank.existing g).heads[h].stage ≠ some .held := by
  obtain ⟨g', same, retested⟩ := foldl_head (fun g i => e.retest_onlyHead i g) e.bank.existing_nodup
    ((e.bank.mem_existing h).2 present) g
  have kept : (e.retestAll e.bank.existing g).heads[h] = (e.retest h g').heads[h] := retested
  rw [kept]
  exact Env.retest_off_held unheld (by rwa [same])

end

/-- No interval has been reached where every count that runs lies below its interval. -/
theorem Env.completed_early
    (dwell : ∀ h : Fin 8, g.heads[h].stage = some .merging → g.heads[h].mergeServed < e.bank.dwellMs)
    (clearance : ∀ k : Fin 4, g.lanes[k].clear = false → g.lanes[k].clearCount < e.bank.clearanceMs k)
    (stall : ∀ h : Fin 8, g.heads[h].stalled = false → g.heads[h].waitTime < e.bank.stallMs) {dwells stalls : Bool}
    {lanes : Fin 4 → Bool} {clock : Clock} {q : EventUnit} :
    e.completed dwells lanes stalls clock g q = (g, q) := by
  refine Env.completed_none (fun h => ?_) (fun k => ?_) (fun h => ?_)
  all_goals refine Bool.eq_false_iff.2 fun due => ?_
  · obtain ⟨-, merging, served⟩ := Env.dwellDue_iff.1 due
    exact absurd (dwell h merging) (Nat.not_lt.2 served)
  · obtain ⟨-, -, unclear, counted⟩ := Env.clearanceDue_iff.1 due
    exact absurd (clearance k unclear) (Nat.not_lt.2 counted)
  · obtain ⟨-, -, unstalled, waited⟩ := Env.stallDue_iff.1 due
    exact absurd (stall h unstalled) (Nat.not_lt.2 waited)

end

/-- RELEASE of a set flag: what has been reached completes, and every existing head re-tests, unheld. -/
theorem State.releaseHold_held {s : State} (held : s.node.hold = true) : s.releaseHold =
    let unheld := { s.env with hold := false }
    let done := unheld.completed true (fun _ => true) true s.take.clock s.gantry s.events
    { s with
      node := { s.node with hold := false }
      gantry := unheld.retestAll s.store.active.existing done.1, events := done.2 } := by
  rw [State.releaseHold, if_pos held, State.dueSequencer_completed]
  rfl

theorem State.releaseHold_clear {s : State} (clear : s.node.hold = false) : s.releaseHold = s :=
  if_neg (by simp [clear])

theorem actStep_held {s : State} (held : s.node.hold = true) (o : Order) : actStep o s =
    .done { s with gantry := s.env.stepExisting s.gantry }
      [byteOf (changedHeads s.gantry (s.env.stepExisting s.gantry))] := if_pos held

theorem actStep_unheld {s : State} (unheld : s.node.hold = false) (o : Order) :
    actStep o s = .refuse s .wrongMode := if_neg (by simp [unheld])

/-- Settles O35: the rows of STEP by `Env.stepHead`, RELEASE by the completions at the release and the re-test of
every existing head. -/
theorem holdStepAndRelease : Obligations.HoldStepAndRelease := by
  unfold Obligations.HoldStepAndRelease
  refine ⟨fun e h g => ⟨Env.stepHead_still, Env.stepHead_held, Env.stepHead_closing, fun wait a target =>
    Env.stepHead_opening wait target⟩, fun o s addressed body authority key mode => ?_⟩
  intro u b unheld
  have length : lengthIs 0 o.body = true := (lengthIs_iff 0 _).2 (by simp [body])
  have accepted : inService u = true := (inService_iff _).2 mode
  have answered : ∀ {c : Instr} {code : Byte} {act : Order → State → Answer},
      orderRow c = some (addressedOrder code (lengthIs 0) needsCommission inService act, o) →
      exec c s = .next ((act o u).state.replied code o (act o u).status (act o u).content) :=
    fun row => exec_addressedOrder row addressed length (.inr ⟨authority, key⟩) accepted
  refine ⟨answered (act := fun _ s => .done (s.setHold true) []) rfl, fun clear => ?_, fun held => ?_,
    fun clear => ?_, fun held => ?_⟩
  · rw [answered (act := fun _ s => .done s.releaseHold []) rfl, State.releaseHold_clear (s := u) clear]
    rfl
  · have released := State.releaseHold_held (s := u) held
    refine ⟨u.releaseHold, answered (act := fun _ s => .done s.releaseHold []) rfl, fun h present on => ?_,
      fun dwell clearance stall => ?_, ?_, ?_⟩
    · rw [released]
      exact Env.retestExisting_off_held (e := unheld) rfl present (Env.completed_goesOn rfl on)
    · have early := Env.completed_early (e := unheld) (dwells := true) (stalls := true) (lanes := fun _ => true)
        (clock := s.take.clock) (q := s.events) dwell clearance stall
      rw [released]
      exact ⟨congrArg (unheld.retestAll b.existing) (congrArg Prod.fst early), congrArg Prod.snd early⟩
    · rw [released]
      exact ⟨rfl, rfl⟩
    · rw [released]
  · rw [answered rfl, actStep_unheld (s := u) clear]
    rfl
  · refine ⟨{ u with gantry := s.env.stepExisting s.gantry }, _, ?_, changedHeads_eq s.gantry _, rfl, rfl,
      fun h still => ?_, fun h a present stage target away => ⟨fun opened closed => ?_, fun permissive merge => ?_⟩,
      fun h present closing => ?_⟩
    · rw [answered rfl, actStep_held (s := u) held]
      rfl
    · have stands := Env.stepExisting_stands (e := s.env) still
      exact ⟨congrArg Head.displayed stands, congrArg Head.stage stands⟩
    · subst closed
      exact Env.stepExisting_heldClose (e := s.env) present stage target away opened rfl
    · exact Env.stepExisting_heldTurn (e := s.env) present stage target away permissive merge
    · exact Env.stepExisting_closing (e := s.env) present closing

end Sys2Proof.Machine
end

section
/-! SUPPORT. The own slot of a passing SWEEP, and the head bytes it carries (R21, R33, R118). -/

namespace Sys2Proof.Machine

/-! ## The own slot of a passing SWEEP (R118) -/

/-- The frame that leaves OUT with a slot put over it. -/
def LinePort.writeSlot (l : LinePort) (written : Nat × List Byte) : LinePort :=
  match l.thru with
  | some x => { l with thru := some { x with slot := some written } }
  | none => { l with elastic := l.elastic.map fun x => { x with slot := some written } }

theorem LinePort.writeSlot_thru {l : LinePort} {x : OutFrame} (hx : l.thru = some x) (written : Nat × List Byte) :
    l.writeSlot written = { l with thru := some { x with slot := some written } } := by
  rw [LinePort.writeSlot, hx]

theorem LinePort.writeSlot_elastic {l : LinePort} {x : OutFrame} (hn : l.thru = none) (hx : l.elastic = some x)
    (written : Nat × List Byte) :
    l.writeSlot written = { l with elastic := some { x with slot := some written } } := by
  rw [LinePort.writeSlot, hn, hx]
  rfl

section
variable {s : State} (works : s.works = true) {x : OutFrame} (leaves : s.line.leaving = some x)
include works leaves

/-- A frame without a slot takes the one there is for it. -/
theorem exec_ownSlotWrite_writes {n : Byte} {written : Nat × List Byte} (bare : x.slot = none)
    (room : s.slotFor x (x.slotCount n) = some written) :
    exec (.ownSlotWrite n) s = .next { s with line := s.line.writeSlot written } := by
  refine (exec_ownSlotWrite_eq s n).trans ((live_works works _).trans ?_)
  simp only [leaves, bare, room]
  rfl

/-- A slot once written stands, and where there is none for the frame nothing is written. -/
theorem exec_ownSlotWrite_stands {n : Byte} (stands : x.slot ≠ none ∨ s.slotFor x (x.slotCount n) = none) :
    exec (.ownSlotWrite n) s = .next s := by
  refine (exec_ownSlotWrite_eq s n).trans ((live_works works _).trans ?_)
  simp only [leaves]
  cases bare : x.slot with
  | some written => rfl
  | none => rw [stands.resolve_left (not_not_intro bare)]

/-- The own slot is written where the frame is a SWEEP that bears none yet and has room for it. -/
theorem exec_ownSlotWrite (n : Byte) : exec (.ownSlotWrite n) s = .next
    (if x.slot = none ∧ x.kind = sweepKind ∧ 1 ≤ s.line.address ∧ s.line.address ≤ x.slotCount n then
      { s with line := s.line.writeSlot (8 + 12 * (s.line.address - 1), s.ownSlot x.second) }
    else s) := by
  by_cases writes : x.slot = none ∧ x.kind = sweepKind ∧ 1 ≤ s.line.address ∧ s.line.address ≤ x.slotCount n
  · rw [if_pos writes, exec_ownSlotWrite_writes works leaves writes.1]
    rw [s.slotFor_eq, if_pos writes.2]
  · rw [if_neg writes, exec_ownSlotWrite_stands works leaves]
    refine (not_and_or.1 writes).imp_right fun roomless => ?_
    rw [s.slotFor_eq, if_neg roomless]

end

/-- No own slot is written with address 0, one above the count the command brings, or no frame leaving. -/
theorem exec_ownSlotWrite_nothing {n : Byte} {s : State} (works : s.works = true)
    (idle : s.line.address = 0 ∨ s.line.tx ≠ .passing ∨ s.line.rx = .brk ∨ (n.toNat < s.line.address
      ∧ ∀ x, s.line.thru = some x ∨ s.line.elastic = some x → x.ended = false)) :
    exec (.ownSlotWrite n) s = .next s := by
  cases leaves : s.line.leaving with
  | none => exact (exec_none_leaving works leaves).2 n
  | some x =>
    obtain ⟨passing, unbroken, owned⟩ := LinePort.leaving_some leaves
    refine exec_ownSlotWrite_stands works leaves (.inr ?_)
    rw [s.slotFor_eq]
    refine if_neg fun ⟨_, low, high⟩ => ?_
    obtain zero | off | broken | ⟨above, unended⟩ := idle
    · omega
    · exact off passing
    · exact unbroken broken
    · rw [OutFrame.slotCount, unended x owned] at high
      exact absurd high (by simpa using above)

/-- A slot written in passing that does not lie within the frame's slots is taken back. -/
theorem State.withSlot_of_written {s : State} {x : OutFrame} {i : Nat} {slot : List Byte}
    (written : x.slot = some (i, slot)) :
    (s.withSlot x).slot = if i + slot.length ≤ 8 + 12 * natAt x.bytes 7 then x.slot else none := by
  simp only [State.withSlot, written]

/-! ## The head byte of a slot (R33) -/

/-- The fields of a head byte stand where the slot has them. -/
theorem headByte_fields : ∀ (aspect : Fin 5) (alternate : Bool) (proving : Fin 4) (moves : Bool),
    let x := byteOf (aspect.val + 8 * bit alternate + 16 * proving.val + 64 * bit moves + 128)
    x.extractLsb' 0 3 = BitVec.ofNat 3 aspect.val ∧ x.getLsbD 3 = alternate
      ∧ x.extractLsb' 4 2 = BitVec.ofNat 2 proving.val ∧ x.getLsbD 6 = moves ∧ x.getLsbD 7 = true := by
  decide

theorem Aspect.code_lt (a : Aspect) : a.code < 5 := by cases a <;> decide

theorem Proving.code_lt (p : Proving) : p.code < 4 := by cases p <;> decide

theorem Head.onAlternate_iff (hd : Head) : hd.onAlternate = true ↔ ∃ a, hd.shown = some (a, .alternate) := by
  unfold Head.onAlternate
  cases hd.shown with
  | none => simp
  | some x => obtain ⟨a, _ | _⟩ := x <;> simp

theorem Head.inTransition_iff (hd : Head) :
    hd.inTransition = true ↔ ∃ a, hd.target = some a ∧ a ≠ hd.displayed := by
  unfold Head.inTransition
  cases hd.target <;> simp

theorem State.headByte_absent {s : State} {h : Fin 8} (absent : s.store.active.headExists h = false) :
    s.headByte h = 0#8 := if_neg (by simp [absent])

theorem State.headByte_present {s : State} {h : Fin 8} (present : s.store.active.headExists h = true) :
    let hd := s.gantry.heads[h]
    let x := s.headByte h
    x.extractLsb' 0 3 = BitVec.ofNat 3 hd.displayed.code ∧ x.getLsbD 3 = hd.onAlternate
      ∧ x.extractLsb' 4 2 = BitVec.ofNat 2 hd.proving.code ∧ x.getLsbD 6 = hd.inTransition
      ∧ x.getLsbD 7 = true := by
  intro hd x
  have packed : x = _ := if_pos present
  rw [packed]
  exact headByte_fields ⟨_, hd.displayed.code_lt⟩ hd.onAlternate ⟨_, hd.proving.code_lt⟩ hd.inTransition

/-- Settles O13: a write by `exec_ownSlotWrite`, the leaving by `withSlot`, and a head byte field by field. -/
theorem ownSlotIsWrittenFromOneMoment : Obligations.OwnSlotIsWrittenFromOneMoment := by
  unfold Obligations.OwnSlotIsWrittenFromOneMoment
  refine ⟨fun s x => ?_, fun n s works idle => exec_ownSlotWrite_nothing works idle, fun s h => ?_⟩
  · intro content own writes
    refine ⟨fun n works passing unbroken => ?_, rfl, fun bare => ?_, fun i slot written =>
      State.withSlot_of_written written⟩
    · intro count
      refine ⟨fun thru => ?_, fun empty elastic gap => ?_⟩
      · rw [exec_ownSlotWrite works (LinePort.leaving_thru passing unbroken thru), LinePort.writeSlot_thru thru]
        rfl
      · rw [exec_ownSlotWrite works (LinePort.leaving_elastic passing unbroken empty elastic gap),
          LinePort.writeSlot_elastic empty elastic]
        rfl
    · rw [State.withSlot_unwritten bare, s.slotFor_eq]
      rfl
  · refine ⟨State.headByte_absent, fun present => ?_⟩
    obtain ⟨aspect, alternate, proving, moves, existsBit⟩ := State.headByte_present present
    refine ⟨aspect.trans ?_, alternate ▸ Head.onAlternate_iff _, proving.trans ?_,
      moves ▸ Head.inTransition_iff _, existsBit⟩
    · cases s.gantry.heads[h].displayed <;> rfl
    · cases s.gantry.heads[h].proving <;> rfl

end Sys2Proof.Machine
end

section
/-! SUPPORT. A SWEEP at its frame end: damaged, repeated or accepted, and what an accepted one makes of the neighbour
records, the heads, the lighting level and the clock (R28, R76, R111 to R116). -/

namespace Sys2Proof.Machine

/-! ## A SWEEP that the node does not take: damaged or repeated (R28, R112) -/

/-- A damaged SWEEP is passed on and nothing else. -/
theorem exec_sweep_damaged {f : SweepFrame} {s : State} {r : RxFrame} (wf : f.wf = true)
    (receives : s.Receives sweepKind f.number r) (damaged : r.damaged = true) :
    exec (.sweep f) s = .next { s with
      line := s.line.closeFrame r f.bytes true, sweep := { s.sweep with capture := [] } } := by
  have ends := State.Receives.frameEnd (frame := f.bytes) receives (headerOf_sweep wf)
  refine (exec_sweep_eq s f).trans ((live_works receives.works _).trans ?_)
  simp only [ends, damaged]
  rfl

/-- The own slot as received does not depend on where the frame goes. -/
theorem State.sweepShowsDuplicate_closed (s : State) (f : SweepFrame) (r : RxFrame) :
    (s.onLine fun l => l.closeFrame r f.bytes true).sweepShowsDuplicate f = s.sweepShowsDuplicate f := by
  simp only [State.sweepShowsDuplicate, State.onLine, LinePort.closeFrame_address]

/-- The node as an undamaged SWEEP comes to its Sweep Unit: the frame passed on, a duplicate address posted. -/
def State.heard (s : State) (f : SweepFrame) (r : RxFrame) : State :=
  { s with
    line := s.line.closeFrame r f.bytes true
    events := if s.sweepShowsDuplicate f then s.events.post ⟨.duplicateAddress, 0, 0, s.take.clock⟩
      else s.events }

theorem exec_sweep_heard {f : SweepFrame} {s : State} {r : RxFrame} (wf : f.wf = true)
    (receives : s.Receives sweepKind f.number r) (undamaged : r.damaged = false) :
    exec (.sweep f) s = .next (((s.heard f r).captureSlots f r.capturing).sweepEvent f) := by
  rw [exec_sweep_undamaged wf receives undamaged, s.sweepShowsDuplicate_closed, State.heard]
  cases s.sweepShowsDuplicate f <;> rfl

theorem State.sweepEvent_repeated {s : State} {f : SweepFrame} (repeated : s.sweep.lastPhase = some f.phase) :
    s.sweepEvent f = (s.post .repeatedHeartbeat).dropCapture := if_pos repeated

/-- Settles O11: without a duplicate address the SWEEP is heard on the line alone, and `sweepEvent` ends at the
post. -/
theorem repeatedSweepIsPostedAlone : Obligations.RepeatedSweepIsPostedAlone := by
  unfold Obligations.RepeatedSweepIsPostedAlone
  intro f s r wf receives undamaged repeated single
  have alone : s.heard f r = { s with line := s.line.closeFrame r f.bytes true } := by
    rw [State.heard, single]
    rfl
  refine ⟨_, (exec_sweep_heard wf receives undamaged).trans
    (congrArg _ (State.sweepEvent_repeated (s := (s.heard f r).captureSlots f r.capturing) repeated)), ?_⟩
  rw [alone]
  exact ⟨rfl, rfl, rfl⟩

/-! ## The records that a SWEEP refreshes (R115, R116) -/

/-- The slots of the SWEEP refresh the record: captured, stamped with its number or the one before, and of a head
that exists. -/
def Neighbour.hitBy (n : Neighbour) (f : SweepFrame) (capturing : Bool) : Prop :=
  capturing = true ∧ 1 ≤ n.address.toNat ∧ n.address.toNat ≤ f.slots.length
    ∧ (f.slotByte n.address.toNat 0 = f.number ∨ f.slotByte n.address.toNat 0 = f.number - 1#8)
    ∧ (f.slotByte n.address.toNat (2 + n.head.val)).getLsbD 7 = true

/-- The entry of the capture store for a record. -/
def Neighbour.entryIn (n : Neighbour) (f : SweepFrame) (capturing : Bool) : Option Captured :=
  if capturing then captureFor f n else none

section
variable (n : Neighbour) (f : SweepFrame) (capturing : Bool)

theorem Neighbour.entryIn_eq : n.entryIn f capturing =
    if capturing = true ∧ 1 ≤ n.address.toNat ∧ n.address.toNat ≤ f.slots.length then
      some ⟨f.slotByte n.address.toNat 0, f.slotByte n.address.toNat (2 + n.head.val)⟩
    else none := by
  simp only [Neighbour.entryIn, captureFor, inRange_iff, ite_and]

theorem refreshes_iff : refreshes f.number (n.entryIn f capturing) = true ↔ n.hitBy f capturing := by
  rw [n.entryIn_eq]
  by_cases captured : capturing = true ∧ 1 ≤ n.address.toNat ∧ n.address.toNat ≤ f.slots.length
  · rw [if_pos captured]
    simp [refreshes, Captured.current, Neighbour.hitBy, captured]
  · rw [if_neg captured]
    exact iff_of_false nofun fun ⟨c, low, high, _⟩ => captured ⟨c, low, high⟩

end

/-- A record takes what a capture that refreshes it shows. -/
theorem Neighbour.refresh_hit {n : Neighbour} {f : SweepFrame} {capturing : Bool} (hit : n.hitBy f capturing)
    (now : Nat) : n.refresh now f.number (n.entryIn f capturing) = { n with
      aspect := Aspect.ofSlot (f.slotByte n.address.toNat (2 + n.head.val))
      proving := Proving.ofSlot (f.slotByte n.address.toNat (2 + n.head.val))
      lastRefresh := some now, fresh := true } := by
  have current := (refreshes_iff n f capturing).2 hit
  obtain ⟨c, low, high, -, -⟩ := hit
  rw [n.entryIn_eq, if_pos ⟨c, low, high⟩] at current ⊢
  exact if_pos current

/-- Any other capture leaves it. -/
theorem Neighbour.refresh_miss {n : Neighbour} {f : SweepFrame} {capturing : Bool} (miss : ¬n.hitBy f capturing)
    (now : Nat) : n.refresh now f.number (n.entryIn f capturing) = n := by
  have stale := mt (refreshes_iff n f capturing).1 miss
  cases entry : n.entryIn f capturing with
  | none => rfl
  | some c =>
    rw [entry] at stale
    exact if_neg stale

/-- The aspect codes of a slot; those above 4 read as DARK. -/
theorem Aspect.ofCode_getD (code : Nat) : (Aspect.ofCode code).getD .dark = match code with
    | 1 => .open_ | 2 => .mergeL | 3 => .mergeR | 4 => .closed | _ => .dark := by
  rcases code with _ | _ | _ | _ | _ | code <;> rfl

/-! ## An accepted SWEEP, step by step (R113 to R116) -/

/-- The records as an accepted SWEEP leaves them. -/
def State.sweptRecords (s : State) (f : SweepFrame) (capturing : Bool) : List Neighbour :=
  s.sweep.records.map fun n => n.refresh s.now f.number (n.entryIn f capturing)

/-- The heads whose faces refer to a record that the SWEEP refreshes, in order. -/
def State.sweptHeads (s : State) (f : SweepFrame) (capturing : Bool) : List (Fin 8) :=
  s.store.active.existing.filter fun h =>
    (s.sweep.records.filter fun n => refreshes f.number (n.entryIn f capturing)).any fun n =>
      s.store.active.refersTo h n

/-- The gantry once these heads have re-tested. -/
def State.sweptTests (s : State) (f : SweepFrame) (capturing : Bool) : Gantry :=
  { s.env with records := s.sweptRecords f capturing }.retestAll (s.sweptHeads f capturing) s.gantry

theorem State.sweptRecords_length (s : State) (f : SweepFrame) (capturing : Bool) :
    (s.sweptRecords f capturing).length = s.sweep.records.length := List.length_map _

section
variable {s : State} {f : SweepFrame} {capturing : Bool}

theorem State.sweptRecords_get {i : Nat} {n : Neighbour} (at_i : s.sweep.records[i]? = some n) :
    (s.sweptRecords f capturing)[i]? = some (n.refresh s.now f.number (n.entryIn f capturing)) := by
  rw [State.sweptRecords, List.getElem?_map, at_i]
  rfl

theorem State.mem_sweptHeads (h : Fin 8) : h ∈ s.sweptHeads f capturing ↔
    s.store.active.headExists h = true
      ∧ ∃ n ∈ s.sweep.records, n.hitBy f capturing ∧ s.store.active.refersTo h n = true := by
  simp only [State.sweptHeads, List.mem_filter, Bank.mem_existing, List.any_eq_true, refreshes_iff, and_assoc]

/-- They are the one sorted list of such heads. -/
theorem State.sweptHeads_eq {hs : List (Fin 8)} (refer : ∀ h, h ∈ hs ↔ s.store.active.headExists h = true
      ∧ ∃ n ∈ s.sweep.records, n.hitBy f capturing ∧ s.store.active.refersTo h n = true)
    (sorted : hs.Pairwise (· < ·)) : s.sweptHeads f capturing = hs :=
  (s.store.active.existing_sorted.filter _).eq_of_mem_iff sorted fun h =>
    (State.mem_sweptHeads h).trans (refer h).symm

/-- Step 3 on the slots of the SWEEP itself. -/
theorem State.refreshNeighbours_captured
    (captured : s.sweep.capture = s.sweep.records.map fun n => n.entryIn f capturing) :
    s.refreshNeighbours f.number = { s with
      sweep := { s.sweep with records := s.sweptRecords f capturing }
      gantry := s.sweptTests f capturing } := by
  have pairs : s.sweep.records.zip s.sweep.capture = s.sweep.records.map fun n => (n, n.entryIn f capturing) := by
    rw [captured, List.map_prod_left_eq_zip]
  have records : (s.sweep.records.map fun n => (n, n.entryIn f capturing)).map (fun p : Neighbour × Option Captured =>
      p.1.refresh s.now f.number p.2) = s.sweptRecords f capturing := List.map_map
  have hit : ((s.sweep.records.map fun n => (n, n.entryIn f capturing)).filter fun p => refreshes f.number p.2).map
      Prod.fst = s.sweep.records.filter fun n => refreshes f.number (n.entryIn f capturing) := by
    rw [List.filter_map, List.map_map]
    exact List.map_id _
  simp only [State.refreshNeighbours, pairs, records, hit]
  rfl

end

/-- The gantry with the target codes of a lighting level, where the level is another. -/
def State.relevelled (s : State) (level : Nat) (g : Gantry) : Gantry :=
  if level = s.lamp.level then g
  else g.retarget s.store.active (s.store.active.targetCode s.node.tablesValid level s.lamp.derate)

theorem State.takeLevel_eq (s : State) (level : Nat) : s.takeLevel level = { s with
    lamp := { s.lamp with level := level }, gantry := s.relevelled level s.gantry } := by
  unfold State.takeLevel State.relevelled
  by_cases same : s.lamp.level = level
  · rw [if_pos same, if_pos same.symm, ← same]
  · rw [if_neg same, if_neg (Ne.symm same)]
    rfl

theorem State.relevelled_same {s : State} {level : Nat} (same : level = s.lamp.level) (g : Gantry) :
    s.relevelled level g = g := if_pos same

theorem State.relevelled_other {s : State} {level : Nat} (other : level ≠ s.lamp.level) (g : Gantry) :
    s.relevelled level g
      = g.retarget s.store.active (s.store.active.targetCode s.node.tablesValid level s.lamp.derate) :=
  if_neg other

/-- Heads and lanes stand at a new level. -/
theorem State.relevelled_eq (s : State) (level : Nat) (g : Gantry) : s.relevelled level g =
    if level = s.lamp.level then g else { g with
      channels := (s.relevelled level g).channels, slew := (s.relevelled level g).slew } := by
  by_cases same : level = s.lamp.level
  · rw [if_pos same, State.relevelled_same same]
  · rw [if_neg same, State.relevelled_other same]
    exact Gantry.retarget_eq ..

/-- The node after an accepted SWEEP, before the clock is looked at. -/
def State.swept (s : State) (f : SweepFrame) (r : RxFrame) : State :=
  { s.heard f r with
    sweep := { lastPhase := some f.phase, records := s.sweptRecords f r.capturing, capture := [] }
    watchdog := s.watchdog.heartbeat s.now
    lamp := { s.lamp with level := f.level }
    gantry := s.relevelled f.level (s.sweptTests f r.capturing) }

theorem Watchdog.heartbeat_eq (w : Watchdog) (now : Nat) : w.heartbeat now =
    if w.armed then { armed := true, start := some now, stream := true } else w := by
  unfold Watchdog.heartbeat
  cases armed : w.armed <;> rfl

/-- The steps of an accepted SWEEP in order, up to the clock. -/
theorem State.sweepEvent_accepted {s : State} {f : SweepFrame} {r : RxFrame}
    (accepted : s.sweep.lastPhase ≠ some f.phase) :
    ((s.heard f r).captureSlots f r.capturing).sweepEvent f = (s.swept f r).syncClock f.masterTime := by
  have other : ((s.heard f r).captureSlots f r.capturing).sweep.lastPhase ≠ some f.phase := accepted
  rw [State.sweepEvent, if_neg other]
  simp only
  rw [State.refreshNeighbours_captured (f := f) (capturing := r.capturing) rfl, State.takeLevel_eq]
  rfl

/-- Clock synchronisation: the clock stands within 2 ms of the candidate, or is set to it and the schedule tested. -/
theorem State.syncClock_eq (s : State) (master : Clock) : s.syncClock master =
    let candidate := master + BitVec.ofNat 32 s.store.active.compensation
    let ahead := (candidate - s.take.clock).toInt
    if -2 ≤ ahead ∧ ahead ≤ 2 then s else { s with take := { s.take with clock := candidate } }.dueTest := rfl

/-- Settles O12: a damaged SWEEP by `exec_sweep_damaged`; an accepted one by `State.swept`, its records by what
refreshes each, its gantry by the re-tests and then the new target codes. -/
theorem acceptedSweepReachesTheBlocks : Obligations.AcceptedSweepReachesTheBlocks := by
  unfold Obligations.AcceptedSweepReachesTheBlocks
  intro f s r wf receives
  refine ⟨fun damaged => ⟨_, exec_sweep_damaged wf receives damaged, rfl, rfl⟩, fun undamaged accepted => ?_⟩
  intro slot hit shows proves refreshed b candidate ahead level
  refine ⟨s.swept f r, ?_, ?_, s.sweptRecords_length f r.capturing,
    fun i n at_i => ⟨fun hits => ?_, fun misses => ?_⟩, fun hs refer sorted => ?_⟩
  · rw [exec_sweep_heard wf receives undamaged, State.sweepEvent_accepted accepted, State.syncClock_eq]
    rfl
  · rw [← s.watchdog.heartbeat_eq s.now]
    rfl
  · refine (State.sweptRecords_get at_i).trans (congrArg some ((Neighbour.refresh_hit hits s.now).trans ?_))
    rw [Aspect.ofSlot, Aspect.ofCode_getD]
    rfl
  · exact (State.sweptRecords_get at_i).trans (congrArg some (Neighbour.refresh_miss misses s.now))
  · have tests : s.sweptTests f r.capturing
        = { s.env with records := (s.swept f r).sweep.records }.retestAll hs s.gantry := by
      rw [State.sweptTests, State.sweptHeads_eq refer sorted]
      rfl
    intro g
    have gantry : (s.swept f r).gantry = s.relevelled level g := congrArg (s.relevelled level) tests
    rw [gantry]
    refine ⟨s.relevelled_eq level g, fun other => ?_⟩
    rw [State.relevelled_other other]
    refine ⟨fun c => g.retarget_channel b _ c, fun ⟨c, lit, ramps⟩ => ?_, fun idle => ?_⟩
    · exact (g.retarget_slew b _).trans (slewAfter_ramps lit ramps g.slew)
    · exact (g.retarget_slew b _).trans (slewAfter_idle idle g.slew)

end Sys2Proof.Machine
end

section
/-! SUPPORT. The expiry of the watchdog: what fallback entry makes of each head (R126, R128 to R130, R97). -/

namespace Sys2Proof.Machine

/-! ## No head comes to OPEN in FALLBACK (R97) -/

/-- Every head that displays OPEN is one of `was`. -/
def Gantry.opensOnly (was : Fin 8 → Prop) (g : Gantry) : Prop := ∀ i : Fin 8, g.heads[i].displayed = .open_ → was i

section
variable {was : Fin 8 → Prop} {g : Gantry} (among : g.opensOnly was)
include among

/-- An act on one head alone, after which that head does not display OPEN, or displays what it did. -/
theorem Gantry.opensOnly_act {g' : Gantry} {h : Fin 8} (only : g.OnlyHead g' h)
    (shown : g'.heads[h].displayed ≠ .open_ ∨ g'.heads[h].displayed = g.heads[h].displayed) : g'.opensOnly was := by
  intro i opened
  by_cases here : i = h
  · subst here
    rcases shown with other | same
    · exact absurd opened other
    · exact among i (same.symm.trans opened)
  · rw [only.other i here] at opened
    exact among i opened

theorem Gantry.opensOnly_change (e : Env) (h : Fin 8) {a : Aspect} (st : Stage) (other : a ≠ .open_) :
    (e.change h a st g).opensOnly was := by
  refine Gantry.opensOnly_act among (e.change_onlyHead h a st g) (.inl ?_)
  rw [(e.change_shows h a st g).1]
  exact other

theorem Gantry.opensOnly_set (h : Fin 8) {x : Head} (same : x.displayed = g.heads[h].displayed) :
    ({ g with heads := g.heads.set h x } : Gantry).opensOnly was :=
  Gantry.opensOnly_act among ⟨fun _ other => heads_set_ne _ _ _ _ other⟩
    (.inr ((congrArg Head.displayed (heads_set_self g.heads h x)).trans same))

end

/-- In FALLBACK the opening conditions fail for OPEN. -/
theorem Env.openingHolds_fallback {e : Env} (mode : e.mode = .fallback) {h : Fin 8} {a : Aspect} {g : Gantry}
    (opens : e.openingHolds h a g = true) : a ≠ .open_ :=
  fun opened => ((e.openingHolds_iff h a g).1 opens).2 opened |>.2 mode

/-- In FALLBACK the sequencer brings no head to OPEN. -/
theorem Env.opensOnly_walks {e : Env} (mode : e.mode = .fallback) (was : Fin 8 → Prop) :
    e.Walks (Gantry.opensOnly was) where
  close h _ among := Gantry.opensOnly_change among e h .steady nofun
  merge h _ st _ _ merge _ among := Gantry.opensOnly_change among e h st (Aspect.ne_open_of_merge merge)
  opening h _ _ _ _ opens among := Gantry.opensOnly_change among e h .steady (Env.openingHolds_fallback mode opens)
  stand h _ _ _ among := Gantry.opensOnly_set among h rfl
  wait h _ _ _ among := Gantry.opensOnly_set among h rfl
  target h _ _ among := Gantry.opensOnly_set among h rfl
  clear _ _ _ among := among

/-! ## A head under the HOLD policy (R129) -/

/-- The head stands where the HOLD policy lets it go on: in MERGING or CLOSE_WAIT. -/
def Head.closing (hd : Head) : Prop := hd.stage = some .merging ∨ hd.stage = some .closeWait

/-- A head told to stay: given its displayed aspect as target, but for one that is closing. -/
def Env.keepAspect (e : Env) (h : Fin 8) (g : Gantry) : Gantry :=
  if g.heads[h].stage = some .merging ∨ g.heads[h].stage = some .closeWait then g
  else e.setTarget h g.heads[h].displayed g

theorem Env.fallenBack_hold {e : Env} (policy : e.bank.fallbackPolicy = 0) (g : Gantry) : e.fallenBack g =
    e.retestAll e.bank.existing (e.bank.existing.foldl (fun g h => e.keepAspect h g) g) :=
  congrArg (e.retestAll e.bank.existing) (if_pos policy)

theorem Env.fallenBack_plan {e : Env} (policy : e.bank.fallbackPolicy ≠ 0) (g : Gantry) : e.fallenBack g =
    e.taken e.bank.fallbackPolicy true g :=
  congrArg (e.retestAll e.bank.existing) (if_neg policy)

theorem Env.keepAspect_onlyHead (e : Env) (h : Fin 8) (g : Gantry) : g.OnlyHead (e.keepAspect h g) h := by
  unfold Env.keepAspect
  split
  · exact .refl g h
  · exact e.setTarget_onlyHead h _ g

section
variable {e : Env} {h : Fin 8} {g : Gantry}

theorem Env.keepAspect_closing (closing : (g.heads[h]).closing) : e.keepAspect h g = g := if_pos closing

theorem Env.keepAspect_kept (kept : g.heads[h].target = some g.heads[h].displayed) : e.keepAspect h g = g := by
  unfold Env.keepAspect
  split
  · rfl
  · exact if_pos kept

/-- Another target is abandoned: the head stands STEADY on what it displays. -/
theorem Env.keepAspect_turned (off : ¬(g.heads[h]).closing) (other : g.heads[h].target ≠ some g.heads[h].displayed) :
    (e.keepAspect h g).heads[h] = { g.heads[h] with
      target := some g.heads[h].displayed, stage := some .steady, waitStart := none, waitTime := 0
      stalled := false } := by
  have set : e.keepAspect h g = e.setTarget h g.heads[h].displayed g := if_neg off
  have here := g.placeHead_self h
    { g.heads[h] with target := some g.heads[h].displayed, waitStart := none, waitTime := 0, stalled := false }
  rw [set, Env.setTarget_other other, Env.beginPath_arrived (a := g.heads[h].displayed) (by rw [here]) e (by rw [here]),
    Gantry.stand_head, here]

/-- A re-test of a head that displays its target leaves it displayed, but where it waits to close. -/
theorem Env.retest_arrived (unheld : e.hold = false) (arrived : g.heads[h].target = some g.heads[h].displayed)
    (off : ¬(g.heads[h]).closing) : (e.retest h g).heads[h].displayed = g.heads[h].displayed := by
  cases stage : g.heads[h].stage with
  | none => rw [Env.retest_rests (.inr (.inl stage))]
  | some st =>
    cases st with
    | steady => rw [Env.retest_rests (.inr (.inr (.inl stage)))]
    | merging => exact absurd (.inl stage) off
    | closeWait => exact absurd (.inr stage) off
    | openingWait =>
      rw [Env.retest_openingWait unheld stage arrived]
      split
      · exact (e.change_shows h _ .steady g).1
      · rfl
    | held => rw [Env.retest_held unheld stage, Env.beginPath_arrived arrived e rfl, g.stand_head]

section
variable (policy : e.bank.fallbackPolicy = 0) (present : e.bank.headExists h = true)
include policy present

/-- An existing head is told to stay once, and re-tests once. -/
theorem Env.fallenBack_head (g : Gantry) : ∃ g₁ g₂ : Gantry, g₁.heads[h] = g.heads[h]
    ∧ g₂.heads[h] = (e.keepAspect h g₁).heads[h] ∧ (e.fallenBack g).heads[h] = (e.retest h g₂).heads[h] := by
  have listed := (e.bank.mem_existing h).2 present
  obtain ⟨g₁, same, kept⟩ := foldl_head (fun g i => e.keepAspect_onlyHead i g) e.bank.existing_nodup listed g
  obtain ⟨g₂, after, retested⟩ := foldl_head (fun g i => e.retest_onlyHead i g) e.bank.existing_nodup listed
    (e.bank.existing.foldl (fun g h => e.keepAspect h g) g)
  rw [Env.fallenBack_hold policy]
  exact ⟨g₁, g₂, same, after.trans kept, retested⟩

/-- A head that keeps its target and has nothing to re-test stands. -/
theorem Env.fallenBack_rests (stays : (g.heads[h]).closing ∨ g.heads[h].target = some g.heads[h].displayed)
    (rests : e.Rests h g.heads[h]) : (e.fallenBack g).heads[h] = g.heads[h] := by
  obtain ⟨g₁, g₂, same, after, retested⟩ := Env.fallenBack_head policy present g
  have kept : e.keepAspect h g₁ = g₁ := by
    rw [← same] at stays
    exact stays.elim Env.keepAspect_closing Env.keepAspect_kept
  rw [kept, same] at after
  rw [retested, Env.retest_rests (by rwa [after]), after]

/-- A head that waits to close is CLOSED where its upstream condition holds. -/
theorem Env.fallenBack_closes (unheld : e.hold = false) (wait : g.heads[h].stage = some .closeWait)
    (upstream : e.upstreamHolds h = true) : (e.fallenBack g).heads[h].displayed = .closed
      ∧ (e.fallenBack g).heads[h].stage = some .steady ∧ (e.fallenBack g).heads[h].waitStart = none
      ∧ (e.fallenBack g).heads[h].stalled = false := by
  obtain ⟨g₁, g₂, same, after, retested⟩ := Env.fallenBack_head policy present g
  rw [Env.keepAspect_closing (by rw [same]; exact .inr wait), same] at after
  rw [retested, Env.retest_closeWait unheld (by rwa [after]), if_pos upstream]
  obtain ⟨p, shown⟩ := e.change_head h .closed .steady g₂
  rw [shown]
  exact ⟨rfl, rfl, rfl, rfl⟩

/-- A head on its way elsewhere stands STEADY on what it displays. -/
theorem Env.fallenBack_turned (off : ¬(g.heads[h]).closing) (other : g.heads[h].target ≠ some g.heads[h].displayed) :
    (e.fallenBack g).heads[h] = { g.heads[h] with
      target := some g.heads[h].displayed, stage := some .steady, waitStart := none, waitTime := 0
      stalled := false } := by
  obtain ⟨g₁, g₂, same, after, retested⟩ := Env.fallenBack_head policy present g
  rw [Env.keepAspect_turned (by rwa [same]) (by rwa [same]), same] at after
  rw [retested, Env.retest_rests (.inr (.inr (.inl (by rw [after])))), after]

theorem Env.fallenBack_closing_target (closing : (g.heads[h]).closing) :
    (e.fallenBack g).heads[h].target = g.heads[h].target := by
  obtain ⟨g₁, g₂, same, after, retested⟩ := Env.fallenBack_head policy present g
  rw [Env.keepAspect_closing (by rwa [same]), same] at after
  rw [retested, e.retest_target, after]

/-- Any other head has what it displays as its target, and displays it. -/
theorem Env.fallenBack_stays (unheld : e.hold = false) (off : ¬(g.heads[h]).closing) :
    (e.fallenBack g).heads[h].target = some g.heads[h].displayed
      ∧ (e.fallenBack g).heads[h].displayed = g.heads[h].displayed := by
  by_cases kept : g.heads[h].target = some g.heads[h].displayed
  · obtain ⟨g₁, g₂, same, after, retested⟩ := Env.fallenBack_head policy present g
    rw [Env.keepAspect_kept (by rwa [same]), same] at after
    have shown := Env.retest_arrived (g := g₂) unheld (by rwa [after]) (by rwa [after])
    rw [retested, shown, e.retest_target, after]
    exact ⟨kept, rfl⟩
  · rw [Env.fallenBack_turned policy present off kept]
    exact ⟨rfl, rfl⟩

end

end

/-- Under a plan each existing head has its face's code as target (R130). -/
theorem Env.fallenBack_coded {e : Env} {h : Fin 8} {a : Aspect} (policy : e.bank.fallbackPolicy ≠ 0)
    (present : e.bank.headExists h = true) (coded : e.bank.planTarget e.bank.fallbackPolicy h = some a) (g : Gantry) :
    (e.fallenBack g).heads[h].target = some a := by
  rw [Env.fallenBack_plan policy]
  exact Env.taken_target present coded true g

/-! ## The expiry (R126) -/

/-- When the interval has passed, the watchdog is due. -/
theorem State.elapse_watchdogDue {s : State} (armed : s.watchdog.armed = true) {start : Nat}
    (runs : s.watchdog.start = some start) : let u := s.elapse (start + s.store.active.watchdogMs - s.now)
    u.watchdog.armed = true ∧ ∃ t ∈ u.watchdog.start, t + u.store.active.watchdogMs ≤ u.now :=
  ⟨armed, start, runs, le_add_tsub⟩

section
variable {s : State} (works : s.works = true) (armed : s.watchdog.armed = true) {start : Nat}
  (runs : s.watchdog.start = some start) (next : start + s.store.active.watchdogMs - s.now ≤ s.untilNext)
include works armed runs next

theorem exec_watchdogExpiry_expires : exec .watchdogExpiry s
    = .next ((s.elapse (start + s.store.active.watchdogMs - s.now)).dueWatchdog).dueTest := by
  rw [exec_watchdogExpiry_running works armed runs, State.timed_of_le next]

theorem exec_watchdogExpiry_again (mode : s.node.mode = .fallback) :
    let u := s.elapse (start + s.store.active.watchdogMs - s.now)
    exec .watchdogExpiry s
      = .next ({ u with watchdog := { armed := true, start := some u.now, stream := false } } : State).dueTest := by
  intro u
  rw [exec_watchdogExpiry_expires works armed runs next,
    State.dueWatchdog_again (State.elapse_watchdogDue armed runs) mode]

/-- Fallback entry leaves no entry for the due test. -/
theorem exec_watchdogExpiry_entry (mode : s.node.mode = .inService) :
    let u := s.elapse (start + s.store.active.watchdogMs - s.now)
    exec .watchdogExpiry s = .next { u with
      node := { s.node with mode := .fallback, hold := false }
      events := s.events.post ⟨.fallbackEntered, 0, 0, u.take.clock⟩
      take := { u.take with
        pendingPlan := none, schedule := [], scheduleFull := false
        currentPlan := s.store.active.fallbackPolicy }
      watchdog := { armed := true, start := some u.now, stream := false }
      gantry := ({ u.env with mode := .fallback, hold := false } : Env).fallenBack u.gantry } := by
  intro u
  rw [exec_watchdogExpiry_expires works armed runs next,
    State.dueWatchdog_entry (State.elapse_watchdogDue armed runs) mode,
    State.dueTest_quiet (State.noneDue_of_empty rfl)]
  rfl

end

/-- Settles O43: the expiry by `State.dueWatchdog_again` and `State.dueWatchdog_entry`, each head by its stage at
fallback entry, and no head in OPEN by `Env.opensOnly_walks`. -/
theorem watchdogExpires : Obligations.WatchdogExpires := by
  unfold Obligations.WatchdogExpires
  intro s start works armed runs b u next
  refine ⟨exec_watchdogExpiry_again works armed runs next, fun mode =>
    ⟨_, exec_watchdogExpiry_entry works armed runs next mode, rfl, rfl, rfl, rfl, fun hold h present => ?_,
      ⟨rfl, fun hold h present => ⟨fun merging => ?_, fun wait => ⟨fun unmet => ?_, fun upstream => ?_⟩,
        fun steady kept => ?_, fun merging wait other => ?_⟩⟩,
      fun plan h a present coded => ?_, ?_, rfl⟩⟩
  · have same : u.gantry.heads[h].stage = s.gantry.heads[h].stage ∧ u.gantry.heads[h].target = s.gantry.heads[h].target
        ∧ u.gantry.heads[h].displayed = s.gantry.heads[h].displayed := by
      rw [State.elapse_heads]
      exact ⟨rfl, rfl, rfl⟩
    obtain ⟨stage, target, displayed⟩ := same
    rw [← stage, ← target, ← displayed]
    split
    next closing => exact Env.fallenBack_closing_target hold present closing
    next off => exact Env.fallenBack_stays hold present rfl off
  · exact Env.fallenBack_rests hold present (.inl (.inl merging)) (.inr (.inr (.inr (.inl merging))))
  · exact Env.fallenBack_rests hold present (.inl (.inr wait)) (.inr (.inr (.inr (.inr ⟨wait, unmet⟩))))
  · exact Env.fallenBack_closes hold present rfl wait upstream
  · exact Env.fallenBack_rests hold present (.inr kept) (.inr (.inr (.inl steady)))
  · exact Env.fallenBack_turned hold present (not_or.2 ⟨merging, wait⟩) other
  · exact Env.fallenBack_coded plan present coded u.gantry
  · refine (Env.opensOnly_walks rfl fun i => s.gantry.heads[i].displayed = .open_).fallenBack fun i opened => ?_
    rw [State.elapse_heads] at opened
    exact opened

end Sys2Proof.Machine
end

section
/-! SUPPORT. No event lights a channel outside every displayed pattern (R11, R139). -/

namespace Sys2Proof.Machine

/-! ## The judgement of a sample leaves the output (R149 to R152) -/

theorem Channel.measure_output (ch : Channel) (b : Bank) (c : Fin 32) :
    (ch.measure b c).channel.output = ch.output := by
  simp only [Channel.measure]
  split_ifs <;> rfl

theorem Channel.judgeLit_output (ch : Channel) (b : Bank) (c : Fin 32) :
    (ch.judgeLit b c).channel.output = ch.output := by
  unfold Channel.judgeLit
  split_ifs
  · rfl
  · rfl
  · exact ch.measure_output b c

theorem Channel.judgeUnlit_output (ch : Channel) (b : Bank) (c : Fin 32) :
    (ch.judgeUnlit b c).channel.output = ch.output := by
  unfold Channel.judgeUnlit
  split_ifs <;> rfl

theorem Gantry.judge_output (g : Gantry) (b : Bank) (m : List Nat) (c : Fin 32) :
    (g.judge b m c).channel.output = g.channels[c].output := by
  simp only [Gantry.judge]
  split
  · exact Channel.judgeLit_output _ b c
  · exact Channel.judgeUnlit_output _ b c

theorem Gantry.judged_output (g : Gantry) (b : Bank) (m : List Nat) (c : Fin 32) :
    (g.judged b m).channels[c].output = g.channels[c].output := by
  have judged : (g.judged b m).channels[c] = (g.judge b m c).channel := by simp [Gantry.judged]
  rw [judged, g.judge_output]

/-- Judging a head leaves what it shows. -/
theorem Gantry.judged_shown (g : Gantry) (b : Bank) (m : List Nat) (h : Fin 8) :
    (g.judged b m).heads[h].shown = g.heads[h].shown := by
  simp only [Gantry.judged, Fin.getElem_fin, Vector.getElem_ofFn]
  split <;> rfl

/-! ## The gantry -/

/-- Where every output is 0, no unlit channel has another. -/
theorem Gantry.unlitDark_of_off {g : Gantry} (off : ∀ c : Fin 32, g.channels[c].output = 0) (b : Bank) :
    g.unlitDark b := fun c _ => off c

/-- Every output is 0 when the node is held in reset or locked out. -/
theorem Gantry.outputsOff_unlitDark (g : Gantry) (b : Bank) : g.outputsOff.unlitDark b :=
  Gantry.unlitDark_of_off (fun c => by simp [Gantry.outputsOff]) b

section
variable {g : Gantry} {b : Bank} (dark : g.unlitDark b)
include dark

/-- Channels replaced by others with the same outputs. -/
theorem Gantry.unlitDark_channels {channels : Vector Channel 32}
    (outputs : ∀ c : Fin 32, channels[c].output = g.channels[c].output) (slew : Option Nat) :
    ({ g with channels := channels, slew := slew } : Gantry).unlitDark b :=
  Gantry.unlitDark_of (g := g) (fun _ => rfl) outputs dark

/-- A recomputation sets target codes alone: the outputs follow by slew ticks (R138). -/
theorem Gantry.retarget_unlitDark (old : Bank) (code : Fin 32 → Nat) : (g.retarget old code).unlitDark b := by
  unfold Gantry.retarget
  exact Gantry.unlitDark_channels dark (fun c => by simp) _

/-- A slew tick moves lit channels alone (R142). -/
theorem Gantry.slewTick_unlitDark : (g.slewTick b).unlitDark b := by
  intro c unlit
  rw [g.slewTick_heads] at unlit
  rw [g.slewTick_channel, if_neg unlit]
  exact dark c unlit

theorem Gantry.stall_unlitDark (h : Fin 8) : (g.stall h).unlitDark b :=
  Gantry.unlitDark_of (g.set_shown h _ rfl) (fun _ => rfl) dark

/-- The sample judges channels and heads where they stand. -/
theorem Gantry.judged_unlitDark (m : List Nat) : (g.judged b m).unlitDark b :=
  Gantry.unlitDark_of (g.judged_shown b m) (g.judged_output b m) dark

theorem Gantry.sampled_unlitDark (m : List Nat) (failed : List (Fin 8)) :
    (((g.judged b m).switchAlternates b failed).judgeConflicts b m).unlitDark b :=
  Gantry.relight_unlitDark _ _ _ _ _ (Gantry.judged_unlitDark dark m)

/-- CLEAR_LAMP_FAULT clears judgements, not outputs, before the alternates go dark. -/
theorem Gantry.clearFaults_unlitDark (x : Nat) : (g.clearFaults b x).unlitDark b := by
  refine Gantry.relight_unlitDark _ _ _ _ _ (Gantry.unlitDark_channels dark (fun c => ?_) _)
  simp only [Fin.getElem_fin, Vector.getElem_ofFn]
  split <;> rfl

theorem Gantry.relearn_unlitDark (x : Nat) : (g.relearn x).unlitDark b := by
  unfold Gantry.relearn
  refine Gantry.unlitDark_channels dark (fun c => ?_) _
  simp only [Fin.getElem_fin, Vector.getElem_ofFn]
  split <;> rfl

theorem Gantry.darken_unlitDark : (g.darken b).unlitDark b := Gantry.relight_unlitDark _ _ _ _ _ dark

theorem Gantry.enter_unlitDark (now : Nat) : (g.enter b now).unlitDark b := Gantry.relight_unlitDark _ _ _ _ _ dark

/-- A commit relights the gantry for the new bank. -/
theorem Gantry.commit_unlitDark (new : Bank) : (g.commit b new).unlitDark new :=
  Gantry.relight_unlitDark _ _ _ _ _ dark

end

/-! ## The gantry replaced -/

theorem State.unlitDark_gantry (s : State) {g : Gantry} (dark : g.unlitDark s.store.active) :
    { s with gantry := g }.unlitDark := dark

/-! ## Outputs off: held in reset and locked out (R51, R52) -/

theorem State.unlitDark_holdInReset (s : State) : s.holdInReset.unlitDark :=
  Gantry.outputsOff_unlitDark (s.gantry.darken s.store.active) _

theorem State.unlitDark_lockout (s : State) : s.lockout.unlitDark :=
  Gantry.outputsOff_unlitDark (s.gantry.darken s.store.active) _

/-! ## The sequencer and the takes -/

section
variable {s : State} (dark : s.unlitDark)
include dark

/-- Nothing counts but the gantry and the model in force. -/
theorem State.unlitDark_of_eq {t : State} (gantry : t.gantry = s.gantry := by simp)
    (active : t.store.active = s.store.active := by simp) : t.unlitDark := by
  unfold State.unlitDark
  rw [gantry, active]
  exact dark

theorem State.unlitDark_sweep (w : SweepUnit) : { s with sweep := w }.unlitDark := dark

theorem State.unlitDark_lamp (u : LampDrive) : { s with lamp := u }.unlitDark := dark

theorem State.unlitDark_postAll (ks : List EventKind) : (s.postAll ks).unlitDark := State.unlitDark_of_eq dark

theorem State.unlitDark_seq {f : Env → Gantry → Gantry} (walk : Env.Walk f) : (s.seq f).unlitDark :=
  walk s.env _ s.env.unlitDark_walks s.gantry dark

theorem State.unlitDark_retests (hs : Env → List (Fin 8)) : (s.seq fun e => e.retestAll (hs e)).unlitDark :=
  State.unlitDark_seq dark (Env.walk_retestAll hs)

theorem State.unlitDark_refresh (k : Byte) : (s.refreshNeighbours k).unlitDark := by
  unfold State.refreshNeighbours
  exact State.unlitDark_retests (State.unlitDark_sweep dark _) _

theorem State.unlitDark_goStale (n : Neighbour) : (s.goStale n).unlitDark := by
  unfold State.goStale
  exact State.unlitDark_retests (State.unlitDark_sweep dark _) _

/-- The timers that have reached their intervals complete. -/
theorem State.unlitDark_completed (dwells : Bool) (lanes : Fin 4 → Bool) (stalls : Bool) :
    (s.env.completed dwells lanes stalls s.take.clock s.gantry s.events).1.unlitDark s.store.active :=
  s.env.unlitDark_walks.completed (fun h _ hg => Gantry.stall_unlitDark hg h) dark

theorem State.unlitDark_dueSequencer : s.dueSequencer.unlitDark := by
  rw [s.dueSequencer_completed]
  exact State.unlitDark_completed dark _ _ _

theorem State.unlitDark_dueLowered (old : Bank) : (s.dueLowered old).unlitDark := by
  rw [s.dueLowered_completed]
  exact State.unlitDark_completed dark _ _ _

theorem State.unlitDark_releaseHold : s.releaseHold.unlitDark := by
  unfold State.releaseHold
  split
  · exact State.unlitDark_seq (State.unlitDark_dueSequencer (s := s.setHold false) dark) Env.walk_retestExisting
  · exact dark

theorem State.unlitDark_takeTargets (p : Nat) (returned : Bool) : (s.takeTargets p returned).unlitDark := by
  have given := State.unlitDark_seq dark (Env.walk_takeTargets p)
  simp only [State.takeTargets]
  split
  · exact State.unlitDark_seq given Env.walk_retestExisting
  · exact given

theorem State.unlitDark_takePlan (p : Nat) : (s.takePlan p).unlitDark :=
  State.unlitDark_takeTargets (State.unlitDark_of_eq dark) p _

/-- The entries fire without touching the gantry; the last take made gives the targets. -/
theorem State.unlitDark_dueTest : s.dueTest.unlitDark := by
  have fired : (s.dueEntries.foldl fireEntry (s.unscheduled, none)).1.unlitDark :=
    State.unlitDark_of_eq dark (fireEntries_gantry _ _) (by rw [fireEntries_store]; rfl)
  rw [State.dueTest_eq]
  dsimp only
  split
  · exact fired
  · exact State.unlitDark_takeTargets fired _ _

/-! ## Fallback (R126, R128) -/

theorem State.unlitDark_fallbackEntry : s.fallbackEntry.unlitDark := by
  rw [s.fallbackEntry_eq]
  exact (Env.unlitDark_walks { s.env with mode := .fallback, hold := false }).fallenBack dark

theorem State.unlitDark_watchdogExpire : s.watchdogExpire.unlitDark := by
  unfold State.watchdogExpire
  split
  · exact State.unlitDark_fallbackEntry dark
  all_goals exact dark

theorem State.unlitDark_dueWatchdog : s.dueWatchdog.unlitDark := by
  unfold State.dueWatchdog
  split
  · exact State.unlitDark_watchdogExpire dark
  · exact dark

/-! ## Lamps -/

theorem State.unlitDark_retarget : s.retarget.unlitDark := Gantry.retarget_unlitDark dark _ _

theorem State.unlitDark_slewTick : s.slewTick.unlitDark := Gantry.slewTick_unlitDark dark

theorem State.unlitDark_dueSlew : s.dueSlew.unlitDark := by
  unfold State.dueSlew
  split
  · exact State.unlitDark_slewTick dark
  · exact dark

theorem State.unlitDark_takeLevel (level : Nat) : (s.takeLevel level).unlitDark := by
  unfold State.takeLevel
  split
  · exact dark
  · exact State.unlitDark_retarget (State.unlitDark_lamp dark _)

theorem State.unlitDark_readTemperature (reading : Int) : (s.readTemperature reading).unlitDark := by
  have derated : ∀ (u : LampDrive) (k : EventKind), ({ s with lamp := u }.post k).retarget.unlitDark :=
    fun u _ => State.unlitDark_retarget (State.unlitDark_of_eq (State.unlitDark_lamp dark u))
  simp only [State.readTemperature]
  split_ifs
  exacts [dark, derated _ _, derated _ _, dark]

/-- Time moves no output. -/
theorem State.unlitDark_elapse (n : Nat) : (s.elapse n).unlitDark := by
  refine Gantry.unlitDark_of (g := s.gantry) (b := s.store.active) (fun h => ?_) (fun c => ?_) dark
  · rw [s.elapse_heads]
    rfl
  · simp only [State.elapse, Gantry.elapse]

/-- A sample without a trip re-tests heads; one with a trip turns every output off (R148, R160). -/
theorem State.unlitDark_sample (m : List Nat) : (s.sample m).unlitDark := by
  have posted := fun failed ks ls => State.unlitDark_postAll (State.unlitDark_postAll
    (State.unlitDark_gantry s (Gantry.sampled_unlitDark dark m failed)) ks) ls
  unfold State.sample
  split
  · exact dark
  · simp only
    split
    · exact State.unlitDark_seq (posted _ _ _) (Env.walk_retestOpposites _)
    · exact State.unlitDark_lockout _

theorem State.unlitDark_clearFault (x : Nat) : (({ s with gantry := s.gantry.clearFaults s.store.active x }).seq
    fun e g => e.retestOpposites s.gantry g).unlitDark :=
  State.unlitDark_seq (s.unlitDark_gantry (Gantry.clearFaults_unlitDark dark x)) (Env.walk_retestOpposites _)

theorem State.unlitDark_setHead (h : Fin 8) (hd : Head) (forced : Bool) : (s.setHead h hd forced).unlitDark :=
  Gantry.relight_unlitDark _ _ _ _ _ dark

/-! ## The commit (R63, R64) -/

/-- The new bank is in force: the lit set has followed it, and re-tests and recomputation keep to it. -/
theorem State.unlitDark_committed : s.committed.unlitDark := by
  have tested : s.commitTested.unlitDark s.store.shadow :=
    Env.walk_retestExisting s.commitEnv _ s.commitEnv.unlitDark_walks _
      (Gantry.commit_unlitDark dark s.store.shadow)
  exact Gantry.retarget_unlitDark tested _ _

theorem State.unlitDark_dueAtCommit (old : Bank) : (s.dueAtCommit old).unlitDark := by
  have timers : (if s.node.hold then s.dueLowered old else s.dueSequencer).unlitDark := by
    split
    · exact State.unlitDark_dueLowered dark old
    · exact State.unlitDark_dueSequencer dark
  exact State.unlitDark_dueSlew (State.unlitDark_dueWatchdog timers)

theorem State.unlitDark_commitComplete : s.commitComplete.unlitDark := by
  cases passes : s.commitFailure with
  | none =>
    rw [State.commitComplete_passes passes, s.commitOk_eq]
    exact State.unlitDark_dueAtCommit (State.unlitDark_committed dark) _
  | some f =>
    rw [State.commitComplete_fails passes]
    exact dark

end

/-! ## Resets (R50, R51) -/

theorem State.unlitDark_powerUp (s : State) (cause : Cause) (p : ResetInputs) : (s.powerUp cause p).unlitDark :=
  Gantry.unlitDark_of_off (fun c => congrArg Channel.output (State.reset_channel c)) _

theorem State.unlitDark_keepRestart (s : State) (p : ResetInputs) : (s.keepRestart p).unlitDark := by
  obtain ⟨-, -, kept⟩ := s.keepRestart_drive p
  exact Gantry.unlitDark_of_off (fun c => congrArg Channel.output (kept.channels c)) _

/-! ## Every step -/

/-- Every event keeps R139. -/
theorem kept_unlitDark : Kept State.unlitDark where
  queue _ _ dark := dark
  line _ _ _ dark := dark
  key _ _ dark := dark
  capture _ _ dark := dark
  post _ _ _ _ dark := dark
  heartbeat _ _ dark := dark
  refresh _ k _ dark := State.unlitDark_refresh dark k
  level _ l _ dark := State.unlitDark_takeLevel dark l
  sync s c dark := State.unlitDark_dueTest (s := { s with take := { s.take with clock := c } }) dark
  dueTest _ dark := State.unlitDark_dueTest dark
  elapse _ n _ _ dark := State.unlitDark_elapse dark n
  expire _ dark := State.unlitDark_watchdogExpire dark
  dwell _ h _ dark := State.unlitDark_seq dark (Env.walk_dwellComplete h)
  clearance s k due dark := s.env.unlitDark_walks.clearanceComplete k s.gantry due dark
  stall _ h dark := Gantry.stall_unlitDark dark h
  sequencer _ dark := State.unlitDark_dueSequencer dark
  stale _ n dark := State.unlitDark_goStale dark n
  slew _ dark := State.unlitDark_slewTick dark
  atReading _ dark := dark
  temperature _ r dark := State.unlitDark_readTemperature dark r
  atSample _ dark := dark
  sample _ m dark := State.unlitDark_sample dark m
  nextRead _ dark := dark
  commit _ _ dark := State.unlitDark_commitComplete dark
  restartDue _ _ dark := dark
  powerUp s cause p _ := s.unlitDark_powerUp cause p
  keepRestart s p _ := s.unlitDark_keepRestart p
  supplyLoss s _ := s.unlitDark_holdInReset
  resetLow s _ := s.unlitDark_holdInReset
  supplyBack _ _ dark := dark
  resetBack _ _ dark := dark
  readEvents _ dark := dark
  write _ _ _ _ _ _ dark := dark
  revert _ dark := dark
  validating _ dark := dark
  discard _ dark := dark
  stage _ _ _ _ dark := dark
  unstage _ dark := dark
  take _ p _ _ dark := State.unlitDark_takePlan dark p
  schedule _ _ _ _ _ _ dark := dark
  scheduleFull _ _ dark := dark
  cancel _ _ _ _ dark := dark
  enter s _ dark := Gantry.enter_unlitDark dark s.now
  leave _ _ dark := Gantry.darken_unlitDark dark
  hold _ _ dark := dark
  stepHeads _ _ dark := State.unlitDark_seq dark Env.walk_stepExisting
  release _ _ dark := State.unlitDark_releaseHold dark
  lampTest _ h _ _ _ _ _ _ dark := State.unlitDark_setHead dark h _ true
  lampOff _ h _ dark := State.unlitDark_setHead dark h _ false
  clearFault _ x dark := State.unlitDark_clearFault dark x
  relearn _ x dark := Gantry.relearn_unlitDark dark x
  restart _ _ dark := dark

/-- Settles O59: each event of `Kept` keeps R139. -/
theorem unlitChannelsStayDark : Obligations.UnlitChannelsStayDark := by
  unfold Obligations.UnlitChannelsStayDark
  exact fun s t dark next => kept_unlitDark.step dark next

end Sys2Proof.Machine
end

section
/-! SUPPORT. A temperature reading at its second: what it makes of the derate state and the target codes (R138, R144,
R145). -/

namespace Sys2Proof.Machine

/-! ## The judgement of a reading (R145) -/

/-- Without valid tables a reading is taken and not judged. -/
theorem State.readTemperature_unjudged {s : State} (invalid : s.node.tablesValid = false) (r : Int) :
    s.readTemperature r = { s with lamp := { s.lamp with temperature := clampInt r (-40) 125 } } :=
  if_pos (by rw [invalid]; rfl)

/-- Where the derate state is set, a reading 10 °C below the threshold or lower clears it, posts and recomputes. -/
theorem State.readTemperature_derated {s : State} (derated : s.lamp.derate = true) (r : Int) {cool : Bool}
    (judged : (s.node.tablesValid && decide (clampInt r (-40) 125 ≤ s.store.active.threshold - 10)) = cool) :
    s.readTemperature r = bif cool then
        ({ s with lamp := { s.lamp with temperature := clampInt r (-40) 125, derate := false } }.post
          .temperatureNormal).retarget
      else { s with lamp := { s.lamp with temperature := clampInt r (-40) 125 } } := by
  subst judged
  simp only [State.readTemperature]
  cases valid : s.node.tablesValid
  · simp
  · by_cases cool : clampInt r (-40) 125 ≤ s.store.active.threshold - 10
    · simp [derated, cool]
    · simp [derated, cool]

/-- The recomputation of the codes moves no head. -/
@[simp] theorem Gantry.retarget_heads (g : Gantry) (b : Bank) (code : Fin 32 → Nat) :
    (g.retarget b code).heads = g.heads := by
  unfold Gantry.retarget
  rfl

/-! ## The reading at its moment (logs 2 and 21) -/

/-- A reading with no timer due before it: time passes, the reading is judged, and the schedule is tested. -/
theorem exec_temperatureSample_quiet {s : State} (works : s.works = true)
    (next : 1000 - s.lamp.sinceReading ≤ s.untilNext) (reading : Int) : exec (.temperatureSample reading) s
      = .next ((s.elapse (1000 - s.lamp.sinceReading)).atReading.readTemperature reading).dueTest := by
  have late : 1000 ≤ (s.elapse (1000 - s.lamp.sinceReading)).lamp.sinceReading := le_add_tsub
  rw [exec_temperatureSample_running works, State.timed_of_le next, State.takeReading, if_pos late]

/-- Settles O49: the reading comes at its moment by `exec_temperatureSample_quiet`; it is judged by
`State.readTemperature_underated` and `State.readTemperature_derated`, by the derate state that it finds. -/
theorem derateFollowsTheTemperature : Obligations.DerateFollowsTheTemperature := by
  unfold Obligations.DerateFollowsTheTemperature
  intro s reading works next v u taken threshold withDerate stands turns
  have run : exec (.temperatureSample reading) s = .next (u.readTemperature reading).dueTest :=
    exec_temperatureSample_quiet works next reading
  have stood : u.readTemperature reading = withDerate s.lamp.derate → stands := fun judged => by
    rw [judged] at run
    exact run
  have turned : ∀ on k, s.node.tablesValid = true →
      u.readTemperature reading = ((withDerate on).post k).retarget → turns on k := by
    intro on k valid judged
    rw [judged] at run
    refine ⟨_, run, rfl, Gantry.retarget_heads _ _ _, Gantry.retarget_lanes _ _ _, fun c => ?_⟩
    rw [← valid]
    exact Gantry.retarget_channel _ _ _ c
  refine ⟨fun invalid => stood (State.readTemperature_unjudged (s := u) invalid reading), fun valid =>
    ⟨fun clear hot => turned true _ valid ?_, fun clear below => stood ?_,
      fun derated cool => turned false _ valid ?_, fun derated above => stood ?_⟩⟩
  · exact State.readTemperature_underated (s := u) clear reading (hot := true)
      (Bool.and_eq_true_iff.2 ⟨valid, decide_eq_true hot⟩)
  · exact State.readTemperature_underated (s := u) clear reading (hot := false)
      (Bool.and_eq_false_iff.2 (.inr (decide_eq_false (not_le.2 below))))
  · exact State.readTemperature_derated (s := u) derated reading (cool := true)
      (Bool.and_eq_true_iff.2 ⟨valid, decide_eq_true cool⟩)
  · exact State.readTemperature_derated (s := u) derated reading (cool := false)
      (Bool.and_eq_false_iff.2 (.inr (decide_eq_false (not_le.2 above))))

end Sys2Proof.Machine
end

section
/-! SUPPORT. The drive arithmetic from intensity and calibration to target code (R136, R137). -/

namespace Sys2Proof.Machine

/-- The clamp of a target code: 0 for any negative sum, 4095 for any sum above 4095 (R136). -/
theorem clampInt_code (x : Int) :
    (clampInt x 0 4095).toNat = if x < 0 then 0 else if 4095 < x then 4095 else x.toNat := by
  unfold clampInt
  split_ifs <;> omega

/-- An intensity within the range of its table gives a base code in 205..4095. -/
theorem baseCode_range {intensity : Nat} (low : 50 ≤ intensity) (high : intensity ≤ 1000) :
    205 ≤ (intensity * 4095 + 500) / 1000 ∧ (intensity * 4095 + 500) / 1000 ≤ 4095 := by omega

theorem Bank.targetCode_valid (b : Bank) (level : Nat) (derate : Bool) (c : Fin 32) :
    b.targetCode true level derate c = driveCode (b.baseCode level derate) (b.gain c) (b.offset c) := rfl

theorem Bank.targetCode_invalid (b : Bank) (level : Nat) (derate : Bool) (c : Fin 32) :
    b.targetCode false level derate c = 0 := rfl

/-- Settles O47: the sum by the model's definitions, its clamp by `clampInt_code`, the base code by
`baseCode_range`. -/
theorem driveCodeArithmetic : Obligations.DriveCodeArithmetic := by
  unfold Obligations.DriveCodeArithmetic
  intro b level derate c full effective base sum
  refine ⟨?_, b.targetCode_invalid level derate c, baseCode_range⟩
  rw [b.targetCode_valid, driveCode]
  exact clampInt_code sum

end Sys2Proof.Machine
end

section
/-! SUPPORT. The records of the channels that READ_LAMPS returns (R157). -/

namespace Sys2Proof.Machine

/-! ## The channels asked for -/

theorem allChannels_eq : allChannels = (List.range 32).map (Fin.ofNat 32) := by decide

/-- Channels from the first asked for, to the count or to channel 31. -/
theorem channels_from (first n : Nat) : (allChannels.drop first).take n
    = (List.range (min n (32 - first))).map fun i => Fin.ofNat 32 (first + i) := by
  rw [allChannels_eq]
  refine List.ext_getElem (by simp) fun i _ _ => ?_
  simp

/-! ## The record of a channel -/

theorem Channel.stateCode_byte (ch : Channel) : byteOf ch.stateCode =
    if ch.state = .ok then 0#8 else if ch.state = .drift then 1#8
    else if ch.kind = .stuckOn then 3#8 else 2#8 := by
  unfold Channel.stateCode
  cases ch.state with
  | ok => rfl
  | drift => rfl
  | failed => cases ch.kind <;> rfl

theorem bit_scaled (n : Nat) (x : Bool) : n * bit x = if x then n else 0 := by
  cases x <;> simp [bit]

/-- The lighting and settling bits of an ownership byte. -/
def State.presentBits (s : State) (c : Fin 32) : Nat :=
  (if c ∈ s.store.active.litChannels s.gantry.heads then 64 else 0)
    + if s.gantry.channels[c].settle < 2 then 128 else 0

theorem State.presentBits_eq (s : State) (c : Fin 32) : s.presentBits c
    = 64 * bit ((s.store.active.litChannels s.gantry.heads).contains c)
      + 128 * bit (s.gantry.channels[c].settle < 2) := by
  simp only [State.presentBits, bit_scaled, List.contains_iff_mem, decide_eq_true_eq]

theorem State.ownerByte_unowned {s : State} {c : Fin 32} (unowned : ∀ h, c ∉ s.store.active.headChannels h) :
    s.ownerByte c = 0 + s.presentBits c := by
  have none : (s.store.active.existing.find? fun h => (s.store.active.headChannels h).contains c) = none := by
    simpa using fun h _ => unowned h
  rw [s.presentBits_eq, State.ownerByte]
  simp only [none]
  omega

theorem Bank.find_owner {b : Bank} {c : Fin 32} {h : Fin 8} (owned : c ∈ b.headChannels h)
    (only : ∀ h', c ∈ b.headChannels h' → h' = h) :
    (b.existing.find? fun h => (b.headChannels h).contains c) = some h := by
  cases found : b.existing.find? fun h => (b.headChannels h).contains c with
  | none =>
    have unowned := List.find?_eq_none.1 found h ((b.mem_existing h).2 (Bank.exists_of_mem_headChannels owned))
    exact absurd (List.contains_iff_mem.2 owned) unowned
  | some h' =>
    have owns : (b.headChannels h').contains c = true :=
      List.find?_some (p := fun h => (b.headChannels h).contains c) found
    rw [only h' (List.contains_iff_mem.1 owns)]

theorem State.ownerByte_owned {s : State} {c : Fin 32} {h : Fin 8} (owned : c ∈ s.store.active.headChannels h)
    (only : ∀ h', c ∈ s.store.active.headChannels h' → h' = h) : s.ownerByte c
      = h.val + 8 + 16 * bit (s.store.active.inPatterns h .primary c)
        + 32 * bit (s.store.active.inPatterns h .alternate c) + s.presentBits c := by
  rw [s.presentBits_eq, State.ownerByte]
  simp only [Bank.find_owner owned only]
  omega

theorem Bank.inPatterns_iff (b : Bank) (h : Fin 8) (p : PatternKind) (c : Fin 32) : b.inPatterns h p c = true ↔
    ∃ a ∈ litAspects, b.fitted h a = true ∧ c ∈ (b.pattern h a p).map PatternEntry.channel := by
  simp only [Bank.inPatterns, List.any_eq_true, List.mem_filter, beq_iff_eq, List.mem_map, and_assoc]

/-- Settles O23: the channels asked for by `channels_from`; the record of a channel by its state byte and its
ownership byte. -/
theorem readLampsReturnsChannelRecords : Obligations.ReadLampsReturnsChannelRecords := by
  unfold Obligations.ReadLampsReturnsChannelRecords
  refine ⟨fun o s addressed body => ?_, fun s c => ?_⟩
  · intro t first n
    have read : exec (.readLamps o) s = .next ((actReadLamps o t).state.replied 0x02#8 o
        (actReadLamps o t).status (actReadLamps o t).content) :=
      exec_addressedOrder (c := .readLamps o) rfl addressed ((lengthIs_iff 2 _).2 body) (.inl rfl) rfl
    rw [read]
    refine ⟨fun inside => ?_, fun past => ?_⟩
    · have asked : (allChannels.drop first).take (min (natAt o.body 1) 29)
          = (List.range n).map fun i => Fin.ofNat 32 (first + i) := by
        rw [channels_from, min_right_comm]
      have act : actReadLamps o t = .done t
          (byteOf n :: (List.range n).flatMap fun i => t.channelRecord (Fin.ofNat 32 (first + i))) := by
        unfold actReadLamps
        rw [if_neg (Nat.not_lt.2 inside)]
        simp only [first] at asked
        simp only [asked, List.length_map, List.length_range, List.flatMap_map]
        rfl
      rw [act]
      rfl
    · have act : actReadLamps o t = .refuse t .outOfRange := if_pos past
      rw [act]
      rfl
  · intro b ch now record
    have recorded : ∀ {owner}, s.ownerByte c = owner + now → s.channelRecord c = record owner := by
      intro owner byte
      simp only [State.channelRecord, byte, Channel.stateCode_byte]
      rfl
    refine ⟨fun unowned => recorded (State.ownerByte_unowned unowned), fun h owned only =>
      ⟨b.inPatterns h .primary c, b.inPatterns h .alternate c, b.inPatterns_iff h _ c, b.inPatterns_iff h _ c,
        recorded ?_⟩⟩
    rw [State.ownerByte_owned owned only, bit_scaled, bit_scaled]
    rfl

end Sys2Proof.Machine
end

section
/-! SUPPORT. A channel judged at a sample, lit and unlit (R149 to R152). -/

namespace Sys2Proof.Machine

section
variable {ch : Channel} {b : Bank} {c : Fin 32}

/-! ## A lit channel (R149 to R151) -/

theorem Channel.judgeLit_settling (settling : ch.settle < 2) :
    ch.judgeLit b c = ⟨{ ch with settle := ch.settle + 1 }, none⟩ := if_pos settling

theorem Channel.judgeLit_unmeasured (settled : ch.settle = 2) (unmeasured : ch.state = .failed ∨ ch.output < 64) :
    ch.judgeLit b c = ⟨ch, none⟩ := by
  rw [Channel.judgeLit, if_neg (by omega)]
  exact if_pos unmeasured

theorem Channel.judgeLit_measured (measured : ch.settle = 2 ∧ ch.state ≠ .failed ∧ 64 ≤ ch.output) :
    ch.judgeLit b c = ch.measure b c := by
  obtain ⟨settled, sound, bright⟩ := measured
  rw [Channel.judgeLit, if_neg (by omega)]
  exact if_neg (not_or.2 ⟨sound, Nat.not_lt.2 bright⟩)

/-- The bounds of a reference, 512 and 1536 (R150). -/
theorem clampInt_reference (x : Int) :
    clampInt x 512 1536 = if x < 512 then 512 else if 1536 < x then 1536 else x := by
  unfold clampInt
  split_ifs <;> omega

/-- The deviation of the measured ratio from the reference (R150). -/
def Channel.refDeviation (ch : Channel) : Nat := deviation (ratio ch.lastM ch.output) ch.ref

theorem Channel.measure_tracks (near : ch.refDeviation ≤ b.trackBand) : ch.measure b c = ⟨{ ch with
    ref := trackReference ch.ref (ratio ch.lastM ch.output), fault := 0, state := .ok }, none⟩ := if_pos near

section
variable (stray : b.trackBand < ch.refDeviation)
include stray

theorem Channel.measure_drifts (near : ch.refDeviation ≤ b.faultBand) : ch.measure b c =
    ⟨{ ch with fault := 0, state := .drift }, if ch.state = .ok then some (.lampDrift c) else none⟩ :=
  (if_neg (Nat.not_le.2 stray)).trans (if_pos near)

variable (far : b.faultBand < ch.refDeviation)
include far

theorem Channel.measure_counts (early : ch.fault + 1 < b.faultDelay) :
    ch.measure b c = ⟨{ ch with fault := ch.fault + 1 }, none⟩ :=
  (if_neg (Nat.not_le.2 stray)).trans ((if_neg (Nat.not_le.2 far)).trans (if_neg (Nat.not_le.2 early)))

theorem Channel.measure_fails (delayed : b.faultDelay ≤ ch.fault + 1) : ch.measure b c =
    ⟨{ ch with state := .failed, kind := .current, fault := 0 }, some (.lampFailed c)⟩ :=
  (if_neg (Nat.not_le.2 stray)).trans ((if_neg (Nat.not_le.2 far)).trans (if_pos delayed))

end

/-! ## An unlit channel (R152) -/

theorem Channel.judgeUnlit_failed (failed : ch.state = .failed) : ch.judgeUnlit b c = ⟨ch, none⟩ := if_pos failed

section
variable (sound : ch.state ≠ .failed)
include sound

theorem Channel.judgeUnlit_dark (dark : ch.lastM < 64) : ch.judgeUnlit b c = ⟨{ ch with stuck := 0 }, none⟩ :=
  (if_neg sound).trans (if_pos dark)

variable (current : 64 ≤ ch.lastM)
include current

theorem Channel.judgeUnlit_counts (early : ch.stuck + 1 < b.faultDelay) :
    ch.judgeUnlit b c = ⟨{ ch with stuck := ch.stuck + 1 }, none⟩ :=
  (if_neg sound).trans ((if_neg (Nat.not_lt.2 current)).trans (if_neg (Nat.not_le.2 early)))

theorem Channel.judgeUnlit_stuckOn (delayed : b.faultDelay ≤ ch.stuck + 1) : ch.judgeUnlit b c =
    ⟨{ ch with state := .failed, kind := .stuckOn, stuck := 0 }, some (.lampStuckOn c)⟩ :=
  (if_neg sound).trans ((if_neg (Nat.not_lt.2 current)).trans (if_pos delayed))

end
end

/-- Settles O50: each clause is the branch of `Channel.judgeLit`, of `Channel.measure` below it, or of
`Channel.judgeUnlit` that its conditions select. -/
theorem channelsAreJudged : Obligations.ChannelsAreJudged := by
  unfold Obligations.ChannelsAreJudged
  intro ch b c lit unlit q dev moved measured
  refine ⟨Channel.judgeLit_settling, Channel.judgeLit_unmeasured, fun h near => ?_,
    fun h stray near => (Channel.judgeLit_measured h).trans (Channel.measure_drifts stray near),
    fun h stray far early => (Channel.judgeLit_measured h).trans (Channel.measure_counts stray far early),
    fun h stray far delayed => (Channel.judgeLit_measured h).trans (Channel.measure_fails stray far delayed),
    Channel.judgeUnlit_failed, Channel.judgeUnlit_dark, Channel.judgeUnlit_counts, Channel.judgeUnlit_stuckOn⟩
  rw [← clampInt_reference]
  exact (Channel.judgeLit_measured h).trans (Channel.measure_tracks near)

end Sys2Proof.Machine
end

section
/-! SUPPORT. What the lamp orders and the sample keep of channels, heads and lanes through relighting and re-tests, and
what a head record put in place makes of the gantry (R11, R139, R149, R153). -/

namespace Sys2Proof.Machine

/-! ## What a change of the lit set and the sequencer's acts keep -/

section
variable {P : Fin 32 → Channel → Prop} (keeps : ∀ c ch was is restart, P c ch → P c (ch.relight was is restart))
include keeps

/-- What a change of a channel's lighting keeps of each channel, a relighting of the gantry keeps. -/
theorem Gantry.relight_keeps {g : Gantry} (old new : Bank) (forced : Fin 8 → Bool) (heads : Vector Head 8)
    (each : ∀ c : Fin 32, P c g.channels[c]) (c : Fin 32) :
    P c (g.relight old new forced heads).channels[c] := by
  obtain ⟨restart, lit⟩ := g.relight_channel old new forced heads c
  rw [lit]
  exact keeps c _ _ _ _ (each c)

/-- It keeps it through the sequencer. -/
theorem Env.channels_walks (e : Env) : e.Walks fun g => ∀ c : Fin 32, P c g.channels[c] where
  close _ _ each := Gantry.relight_keeps keeps _ _ _ _ each
  merge _ _ _ _ _ _ _ each := Gantry.relight_keeps keeps _ _ _ _ each
  opening _ _ _ _ _ _ each := Gantry.relight_keeps keeps _ _ _ _ each
  stand _ _ _ _ each := each
  wait _ _ _ _ each := each
  target _ _ _ each := each
  clear _ _ _ each := each

end

/-- What a change of a channel's lighting leaves: the target code, the last M, the reference and the judgement. -/
def Channel.measured (ch : Channel) : Nat × Nat × Nat × ChannelState × FailureKind :=
  (ch.target, ch.lastM, ch.ref, ch.state, ch.kind)

theorem Channel.relight_measured (ch : Channel) (was is restart : Bool) :
    (ch.relight was is restart).measured = ch.measured := by
  unfold Channel.relight
  split
  case h_3 => split <;> rfl
  all_goals rfl

/-- Lamp tests and alternate flags stand through the sequencer. -/
theorem Env.lampItems_walks (e : Env) (g₀ : Gantry) :
    e.Walks fun g => ∀ i : Fin 8, g.heads[i].lampItems = g₀.heads[i].lampItems where
  close h g each i := (e.change_lampItems h _ _ g i).trans (each i)
  merge h a st g _ _ _ each i := (e.change_lampItems h a st g i).trans (each i)
  opening h t g _ _ _ each i := (e.change_lampItems h t _ g i).trans (each i)
  stand h _ _ _ each i := by
    rw [← each i]
    exact heads_set_of Head.lampItems _ h i _ rfl
  wait h _ _ _ each i := by
    rw [← each i]
    exact heads_set_of Head.lampItems _ h i _ rfl
  target h _ _ each i := by
    rw [← each i]
    exact heads_set_of Head.lampItems _ h i _ rfl
  clear _ _ _ each := each

/-- A change of a displayed aspect leaves the conflict counts. -/
theorem Env.change_conflictCount (e : Env) (h : Fin 8) (a : Aspect) (st : Stage) (g : Gantry) (k : Fin 4) :
    (e.change h a st g).lanes[k].conflictCount = g.lanes[k].conflictCount := by
  have set : ∀ (j : Fin 4) (x : Lane), x.conflictCount = g.lanes[j].conflictCount →
      (g.lanes.set j x)[k].conflictCount = g.lanes[k].conflictCount := fun j x same => by
    rw [lanes_set_get]
    split
    · rename_i here
      rw [same, here]
    · rfl
  rw [e.change_lanes, Env.lanesAfter]
  split
  · rfl
  · split_ifs
    exacts [set _ _ rfl, set _ _ rfl, rfl, rfl]

/-- The conflict counts stand through the sequencer. -/
theorem Env.conflictCount_walks (e : Env) (g₀ : Gantry) :
    e.Walks fun g => ∀ k : Fin 4, g.lanes[k].conflictCount = g₀.lanes[k].conflictCount where
  close h g each k := (e.change_conflictCount h _ _ g k).trans (each k)
  merge h a st g _ _ _ each k := (e.change_conflictCount h a st g k).trans (each k)
  opening h t g _ _ _ each k := (e.change_conflictCount h t _ g k).trans (each k)
  stand _ _ _ _ each := each
  wait _ _ _ _ each := each
  target _ _ _ each := each
  clear j g _ each k := by
    rw [← each k, lanes_set_get]
    split
    · rename_i here
      rw [here]
    · rfl

/-- The heads that re-test after changes of proving states, as the statements list them (R99, log 18). -/
theorem Env.retestOpposites_eq (e : Env) (before g : Gantry) : e.retestOpposites before g =
    e.retestAll ((e.bank.existing.filter fun h => g.heads[h].proving ≠ before.heads[h].proving).filterMap
      e.bank.oppositeHead) g := by
  have same : ∀ h : Fin 8, (g.heads[h].proving != before.heads[h].proving)
      = decide (g.heads[h].proving ≠ before.heads[h].proving) := fun h => by
    rw [Bool.eq_iff_iff, bne_iff_ne, decide_eq_true_eq]
  simp only [Env.retestOpposites, same]

/-! ## A head record put in place -/

section
variable (g : Gantry) (b : Bank) (h : Fin 8) (hd : Head) (forced : Bool)

/-- The gantry with a head record put in place, its pattern settling anew where forced. -/
def Gantry.putHead : Gantry := g.relight b b (fun i => forced && i == h) (g.heads.set h hd)

theorem State.setHead_eq (s : State) : s.setHead h hd forced
    = { s with gantry := s.gantry.putHead s.store.active h hd forced } := rfl

/-- Another head shows the channel. -/
def Gantry.litElsewhere (c : Fin 32) : Prop :=
  ∃ i : Fin 8, i ≠ h ∧ ∃ e ∈ b.shownPattern i g.heads[i], e.channel = c

theorem Gantry.mem_lit_set (c : Fin 32) : c ∈ b.litChannels (g.heads.set h hd) ↔
    (∃ e ∈ b.shownPattern h hd, e.channel = c) ∨ g.litElsewhere b h c := by
  rw [b.mem_litChannels]
  constructor
  · rintro ⟨i, e, shown, named⟩
    by_cases here : i = h
    · subst here
      rw [heads_set_self] at shown
      exact .inl ⟨e, shown, named⟩
    · rw [heads_set_ne _ _ _ _ here] at shown
      exact .inr ⟨i, here, e, shown, named⟩
  · rintro (⟨e, shown, named⟩ | ⟨i, other, e, shown, named⟩)
    · exact ⟨h, e, by rwa [heads_set_self], named⟩
    · exact ⟨i, e, by rwa [heads_set_ne _ _ _ _ other], named⟩

theorem Gantry.putHead_relit : g.relit (g.putHead b h hd forced) (fun c => c ∈ b.litChannels g.heads)
    (fun c => (∃ e ∈ b.shownPattern h hd, e.channel = c) ∨ g.litElsewhere b h c)
    (fun c => (forced = true ∨ hd.shown ≠ g.heads[h].shown) ∧ ∃ e ∈ b.shownPattern h hd, e.channel = c) := by
  refine (g.relit_relight b b _ _).congr (fun _ => Iff.rfl) (g.mem_lit_set b h hd) fun c _ _ => ?_
  constructor
  · rintro ⟨i, moved, shown⟩
    by_cases here : i = h
    · subst here
      rw [heads_set_self] at moved shown
      simpa using And.intro moved shown
    · rw [heads_set_ne _ _ _ _ here] at moved
      simp [here] at moved
  · rintro ⟨moved, shown⟩
    refine ⟨h, ?_⟩
    rw [heads_set_self]
    simpa using And.intro moved shown

theorem Gantry.putHead_other {i : Fin 8} (other : i ≠ h) : (g.putHead b h hd forced).heads[i] = g.heads[i] :=
  g.relight_other b b _ _ i (by simp [other]) (heads_set_ne _ _ _ _ other)

theorem Gantry.putHead_lanes : (g.putHead b h hd forced).lanes = g.lanes := Gantry.relight_lanes _ _ _ _ _

/-- A head put in place that shows nothing. -/
theorem Gantry.putHead_dark (dark : hd.shown = none) : (g.putHead b h hd false).heads[h] = { hd with
    proving := if g.heads[h].shown = none then hd.proving else .unproven } := by
  rw [Gantry.putHead, g.relight_head_dark b b rfl (by rwa [heads_set_self]), heads_set_self]

/-- A head put in place settling anew is UNPROVEN. -/
theorem Gantry.putHead_forced : (g.putHead b h hd true).heads[h] = { hd with proving := .unproven } := by
  have settling : provingOf (b.shownPattern h hd) (g.putHead b h hd true).channels = .unproven :=
    provingOf_settling fun e he => ((g.putHead_relit b h hd true).settled (.inl ⟨e, he, rfl⟩)
      ⟨.inl rfl, e, he, rfl⟩).1
  rw [Gantry.putHead, Gantry.relight_head_eq, if_pos (.inl (by simp)), ← Gantry.putHead, heads_set_self, settling]

end

end Sys2Proof.Machine
end

section
/-! SUPPORT. LAMP_TEST (R158), CLEAR_LAMP_FAULT (R155) and RELEARN (R156). -/

namespace Sys2Proof.Machine

/-! ## The head a lamp order names -/

theorem headOf_val {x : Byte} (small : x.toNat ≤ 7) : (headOf x).val = x.toNat :=
  Nat.mod_eq_of_lt (Nat.lt_succ_of_le small)

theorem headOf_of_val {x : Byte} {h : Fin 8} (names : x.toNat = h.val) : headOf x = h :=
  Fin.ext ((headOf_val (by omega)).trans names)

/-! ## LAMP_TEST (R158) -/

/-- The pattern that the last byte of a LAMP_TEST names. -/
def testPattern (o : Order) : PatternKind := if natAt o.body 2 = 0 then .primary else .alternate

theorem State.oppositeTestPermissive_iff (s : State) (h : Fin 8) : s.oppositeTestPermissive h = true ↔
    ∃ (k : Fin 4) (f : Face) (x : LampTest), s.store.active.servedFace h = some (k, f)
      ∧ s.store.active.tidal k = true ∧ s.gantry.heads[s.store.active.faceHead k f.other].test = some x
      ∧ x.aspect.permissive = true := by
  have tested : s.oppositeTestPermissive h = true ↔ ∃ o, s.store.active.oppositeHead h = some o
      ∧ ∃ x, s.gantry.heads[o].test = some x ∧ x.aspect.permissive = true := by
    unfold State.oppositeTestPermissive
    cases s.store.active.oppositeHead h with
    | none => simp
    | some o =>
      simp only [Option.some.injEq, exists_eq_left']
      cases s.gantry.heads[o].test with
      | none => simp
      | some x => simp
  rw [tested]
  constructor
  · rintro ⟨o, opposite, x, test, permissive⟩
    obtain ⟨k, f, served, tidal, rfl⟩ := (s.store.active.oppositeHead_iff h o).1 opposite
    exact ⟨k, f, x, served, tidal, test, permissive⟩
  · rintro ⟨k, f, x, served, tidal, test, permissive⟩
    exact ⟨_, (s.store.active.oppositeHead_iff h _).2 ⟨k, f, served, tidal, rfl⟩, x, test, permissive⟩

/-- The checks of a LAMP_TEST that come before its aspect is looked at (log 29). -/
def Bank.testInRange (b : Bank) (o : Order) (h : Fin 8) : Prop :=
  natAt o.body 0 = h.val ∧ b.headExists h = true ∧ natAt o.body 1 ≤ 4 ∧ natAt o.body 2 ≤ 1

theorem actLampTest_outOfRange {o : Order} {s : State} (out : ∀ h, ¬s.store.active.testInRange o h) :
    actLampTest o s = .refuse s .outOfRange := by
  refine if_pos ?_
  by_contra inside
  simp only [not_or, Bool.not_eq_false, Nat.not_lt] at inside
  obtain ⟨small, present, code, pattern⟩ := inside
  exact out _ ⟨(headOf_val small).symm, present, code, pattern⟩

section
variable {o : Order} {s : State} {h : Fin 8} (inRange : s.store.active.testInRange o h)
include inRange

theorem Bank.testInRange.checks : headOf (byteAt o.body 0) = h
    ∧ ¬(7 < natAt o.body 0 ∨ s.store.active.headExists h = false ∨ 4 < natAt o.body 1 ∨ 1 < natAt o.body 2) := by
  obtain ⟨names, present, code, pattern⟩ := inRange
  refine ⟨headOf_of_val names, ?_⟩
  rw [present]
  simp only [Bool.true_eq_false, false_or]
  omega

theorem actLampTest_ends (dark : natAt o.body 1 = 0) :
    actLampTest o s = .done { s with
      gantry := s.gantry.putHead s.store.active h s.gantry.heads[h].darken false } [] := by
  obtain ⟨names, passes⟩ := inRange.checks
  have ends : Aspect.ofCode (natAt o.body 1) = none := by rw [dark]; rfl
  simp only [actLampTest, names, if_neg passes, ends, State.setHead_eq]

variable {a : Aspect} (coded : Aspect.ofCode (natAt o.body 1) = some a)
include coded

theorem actLampTest_notFitted
    (bare : s.store.active.pattern h a .primary = [] ∨ s.store.active.pattern h a (testPattern o) = []) :
    actLampTest o s = .refuse s .notFitted := by
  obtain ⟨names, passes⟩ := inRange.checks
  simp only [actLampTest, names, if_neg passes, coded]
  refine if_pos ?_
  simpa [testPattern] using bare

variable (primary : s.store.active.pattern h a .primary ≠ [])
  (fitted : s.store.active.pattern h a (testPattern o) ≠ [])
include primary fitted

theorem actLampTest_fitted : actLampTest o s =
    if a.permissive && s.oppositeTestPermissive h then .refuse s .conflict
    else .done { s with
      gantry := s.gantry.putHead s.store.active h (s.gantry.heads[h].testing a (testPattern o)) true } [] := by
  obtain ⟨names, passes⟩ := inRange.checks
  simp only [actLampTest, names, if_neg passes, coded, State.setHead_eq]
  refine if_neg ?_
  simpa [testPattern] using And.intro primary fitted

end

/-- A head under test shows the pattern named. -/
theorem Bank.shownPattern_testing {b : Bank} {h : Fin 8} (present : b.headExists h = true) (hd : Head) (a : Aspect)
    (p : PatternKind) : b.shownPattern h (hd.testing a p) = b.pattern h a p := by
  simp only [Bank.shownPattern, present, Head.shown_test (hd := hd.testing a p) rfl, if_true]

/-- The end of a lamp test: the head shows nothing, and the channels of no other head are unlit. -/
theorem Gantry.putHead_darken_relit (g : Gantry) (b : Bank) (h : Fin 8) :
    g.relit (g.putHead b h g.heads[h].darken false) (fun c => c ∈ b.litChannels g.heads) (g.litElsewhere b h)
      (fun _ => False) := by
  have nothing := b.shownPattern_none h g.heads[h].shown_darken
  refine (g.putHead_relit b h g.heads[h].darken false).congr (fun _ => Iff.rfl) (fun c => ?_) fun c _ _ => ?_
  · rw [nothing]
    simp
  · rw [nothing]
    simp

/-- A lamp test: the head shows the pattern named, which settles. -/
theorem Gantry.putHead_testing_relit (g : Gantry) {b : Bank} {h : Fin 8} (present : b.headExists h = true)
    (a : Aspect) (p : PatternKind) : g.relit (g.putHead b h (g.heads[h].testing a p) true)
      (fun c => c ∈ b.litChannels g.heads)
      (fun c => (∃ e ∈ b.pattern h a p, e.channel = c) ∨ g.litElsewhere b h c)
      (fun c => ∃ e ∈ b.pattern h a p, e.channel = c) := by
  have shown := Bank.shownPattern_testing present g.heads[h] a p
  refine (g.putHead_relit b h (g.heads[h].testing a p) true).congr (fun _ => Iff.rfl) (fun c => ?_) fun c _ _ => ?_
  · rw [shown]
  · rw [shown]
    exact and_iff_right (.inl rfl)

/-- Settles O37: the checks of `actLampTest` in order; the head put in place by `Gantry.putHead`. -/
theorem lampTestShowsThePattern : Obligations.LampTestShowsThePattern := by
  unfold Obligations.LampTestShowsThePattern
  intro o s addressed body authority key mode u b code p inRange refused opposed others
  have answered : exec (.lampTest o) s = .next ((actLampTest o u).state.replied 0x40#8 o
      (actLampTest o u).status (actLampTest o u).content) :=
    exec_addressedOrder (c := .lampTest o) rfl addressed ((lengthIs_iff 3 _).2 body) (.inr ⟨authority, key⟩)
      (beq_iff_eq.2 mode)
  refine ⟨fun out => ?_, fun h within => ⟨fun dark => ?_, fun a coded => ⟨fun bare => ?_, fun primary fitted =>
    ⟨fun permissive opposite => ?_, fun unopposed => ?_⟩⟩⟩⟩
  · rw [actLampTest_outOfRange (s := u) out] at answered
    exact answered
  · rw [actLampTest_ends (s := u) within dark] at answered
    exact ⟨_, answered, s.gantry.putHead_dark b h _ s.gantry.heads[h].shown_darken,
      s.gantry.putHead_darken_relit b h, fun i other => s.gantry.putHead_other b h _ _ other,
      s.gantry.putHead_lanes b h _ _, rfl⟩
  · rw [actLampTest_notFitted (s := u) within coded bare] at answered
    exact answered
  · have conflict : (a.permissive && u.oppositeTestPermissive h) = true :=
      Bool.and_eq_true_iff.2 ⟨permissive, (u.oppositeTestPermissive_iff h).2 opposite⟩
    rw [actLampTest_fitted (s := u) within coded primary fitted, if_pos conflict] at answered
    exact answered
  · have clear : ¬(a.permissive && u.oppositeTestPermissive h) = true := by
      rw [Bool.and_eq_true_iff, u.oppositeTestPermissive_iff h]
      exact unopposed
    obtain ⟨-, present, -⟩ := id within
    rw [actLampTest_fitted (s := u) within coded primary fitted, if_neg clear] at answered
    exact ⟨_, answered, s.gantry.putHead_forced b h _, s.gantry.putHead_testing_relit present a p,
      fun i other => s.gantry.putHead_other b h _ _ other, s.gantry.putHead_lanes b h _ _, rfl⟩

end Sys2Proof.Machine
end

section
/-! SUPPORT. CLEAR_LAMP_FAULT (R155) and RELEARN (R156). -/

namespace Sys2Proof.Machine

/-! ## The channels and heads that CLEAR_LAMP_FAULT names -/

/-- The channels that CLEAR_LAMP_FAULT clears, as R155 says it. -/
def Bank.clears (b : Bank) (x : Nat) (c : Fin 32) : Prop := x = 255 ∨ ∃ h : Fin 8, h.val = x ∧ c ∈ b.headChannels h

theorem mem_allChannels : ∀ c : Fin 32, c ∈ allChannels := by decide

theorem Bank.mem_clearedChannels (b : Bank) {x : Nat} (named : x ≤ 7 ∨ x = 255) (c : Fin 32) :
    c ∈ b.clearedChannels x ↔ b.clears x c := by
  unfold Bank.clearedChannels Bank.clears
  by_cases all : x = 255
  · simp [all, mem_allChannels]
  · have one : x < 8 := by omega
    have head : (Fin.ofNat 8 x).val = x := Nat.mod_eq_of_lt one
    rw [if_neg all, or_iff_right all]
    constructor
    · exact fun has => ⟨_, head, has⟩
    · rintro ⟨h, rfl, has⟩
      rwa [show Fin.ofNat 8 h.val = h from Fin.ext head]

theorem Bank.concerned_iff (b : Bank) (x : Nat) (h : Fin 8) : b.concerned x h = true ↔
    b.headExists h = true ∧ (x = 255 ∨ h.val = x) := by
  simp only [Bank.concerned, Bool.and_eq_true, Bool.or_eq_true, beq_iff_eq]

/-! ## The gantry cleared (R155) -/

section
variable (g : Gantry) (b : Bank) (x : Nat)

/-- The gantry with the channels cleared and nothing else done. -/
def Gantry.wiped : Gantry := { g with
  channels := Vector.ofFn fun c : Fin 32 =>
    if (b.clearedChannels x).contains c then g.channels[c].cleared else g.channels[c] }

/-- The heads with the alternate flags of those concerned cleared. -/
def Gantry.unflagged : Vector Head 8 :=
  Vector.ofFn fun h : Fin 8 => if b.concerned x h then g.heads[h].clearAlts else g.heads[h]

theorem Gantry.clearFaults_eq : g.clearFaults b x = (g.wiped b x).relight b b (b.concerned x) (g.unflagged b x) := rfl

theorem Gantry.wiped_heads : (g.wiped b x).heads = g.heads := by
  unfold Gantry.wiped
  rfl

theorem Gantry.wiped_cleared {c : Fin 32} (clears : c ∈ b.clearedChannels x) :
    (g.wiped b x).channels[c] = g.channels[c].cleared := by
  simp [Gantry.wiped, clears]

theorem Gantry.wiped_stands {c : Fin 32} (stands : c ∉ b.clearedChannels x) :
    (g.wiped b x).channels[c] = g.channels[c] := by
  simp [Gantry.wiped, stands]

theorem Gantry.unflagged_concerned {h : Fin 8} (concerned : b.concerned x h = true) :
    (g.unflagged b x)[h] = g.heads[h].clearAlts := by
  simp [Gantry.unflagged, concerned]

theorem Gantry.unflagged_stands {h : Fin 8} (stands : b.concerned x h = false) :
    (g.unflagged b x)[h] = g.heads[h] := by
  simp [Gantry.unflagged, stands]

/-- Channels and slew timer: the patterns of the heads concerned settle anew. -/
theorem Gantry.clearFaults_relit : (g.wiped b x).relit (g.clearFaults b x) (fun c => c ∈ b.litChannels g.heads)
    (fun c => c ∈ b.litChannels (g.clearFaults b x).heads)
    (fun c => ∃ h : Fin 8, b.concerned x h = true
      ∧ ∃ e ∈ b.shownPattern h (g.clearFaults b x).heads[h], e.channel = c) := by
  have shown : ∀ h : Fin 8, b.shownPattern h (g.clearFaults b x).heads[h] = b.shownPattern h (g.unflagged b x)[h] :=
    fun h => b.shownPattern_congr h (Gantry.relight_heads _ _ _ _ _ h).shown
  have moved : ∀ h : Fin 8, (b.concerned x h = true ∨ (g.unflagged b x)[h].shown ≠ (g.wiped b x).heads[h].shown)
      ↔ b.concerned x h = true := fun h => by
    refine or_iff_left_of_imp fun differs => ?_
    by_contra stands
    rw [g.unflagged_stands b x (Bool.eq_false_iff.2 stands), g.wiped_heads] at differs
    exact differs rfl
  refine (Gantry.relit_relight (g.wiped b x) b b (b.concerned x) (g.unflagged b x)).congr
    (fun c => by rw [g.wiped_heads]) (fun c => ?_) fun c _ _ => ?_
  · rw [g.clearFaults_eq, Gantry.relight_lit]
  · simp only [moved, shown]

/-- A head concerned is on its primaries again, and UNPROVEN. -/
theorem Gantry.clearFaults_concerned {h : Fin 8} (concerned : b.concerned x h = true) :
    (g.clearFaults b x).heads[h] = { g.heads[h].clearAlts with proving := .unproven } := by
  have settling : provingOf (b.shownPattern h (g.unflagged b x)[h]) (g.clearFaults b x).channels = .unproven :=
    provingOf_settling fun e he =>
      Gantry.relight_settle (g.wiped b x) b (b.concerned x) (g.unflagged b x) h concerned e he
  rw [g.clearFaults_eq] at settling ⊢
  rw [Gantry.relight_head_eq, if_pos (.inl concerned), settling, g.unflagged_concerned b x concerned]

theorem Gantry.clearFaults_stands {h : Fin 8} (stands : b.concerned x h = false) :
    (g.clearFaults b x).heads[h] = g.heads[h] := by
  have same : (g.unflagged b x)[h] = (g.wiped b x).heads[h] := by
    rw [g.unflagged_stands b x stands, g.wiped_heads]
  rw [g.clearFaults_eq, Gantry.relight_other _ _ _ _ _ h stands same, g.wiped_heads]

theorem Gantry.clearFaults_lanes : (g.clearFaults b x).lanes = g.lanes := Gantry.relight_lanes _ _ _ _ _

end

/-! ## CLEAR_LAMP_FAULT carried out -/

/-- The channels cleared that were DRIFT or FAILED. -/
def State.faulty (s : State) (x : Nat) : List (Fin 32) :=
  allChannels.filter fun c => (s.store.active.clearedChannels x).contains c && s.gantry.channels[c].state != .ok

theorem State.faulty_nodup (s : State) (x : Nat) : (s.faulty x).Nodup := List.Nodup.filter _ (by decide)

theorem State.mem_faulty (s : State) (x : Nat) (c : Fin 32) :
    c ∈ s.faulty x ↔ c ∈ s.store.active.clearedChannels x ∧ s.gantry.channels[c].state ≠ .ok := by
  simp only [State.faulty, List.mem_filter, mem_allChannels, true_and, Bool.and_eq_true, List.contains_iff_mem,
    bne_iff_ne]

/-- The gantry after CLEAR_LAMP_FAULT: cleared, then the re-tests. -/
def State.faultsCleared (s : State) (x : Nat) : Gantry :=
  s.env.retestOpposites s.gantry (s.gantry.clearFaults s.store.active x)

section
variable (s : State) (x : Nat)

theorem State.faultsCleared_keeps {P : Fin 32 → Channel → Prop}
    (keeps : ∀ c ch was is restart, P c ch → P c (ch.relight was is restart))
    (each : ∀ c : Fin 32, P c (s.gantry.wiped s.store.active x).channels[c]) (c : Fin 32) :
    P c (s.faultsCleared x).channels[c] :=
  (Env.channels_walks keeps s.env).retestOpposites _ _ (Gantry.relight_keeps keeps _ _ _ _ each) c

/-- A channel cleared stays so at whatever becomes of its lighting. -/
theorem State.faultsCleared_ok {c : Fin 32} (clears : c ∈ s.store.active.clearedChannels x) :
    let ch := (s.faultsCleared x).channels[c]
    ch.state = .ok ∧ ch.kind = .none ∧ ch.fault = 0 ∧ ch.stuck = 0 := by
  refine s.faultsCleared_keeps x (P := fun i ch => i = c →
    ch.state = .ok ∧ ch.kind = .none ∧ ch.fault = 0 ∧ ch.stuck = 0) (fun i ch was is restart sound here => ?_)
    (fun i here => ?_) c rfl
  · obtain ⟨state, kind, fault, stuck⟩ := sound here
    unfold Channel.relight
    split
    · exact ⟨state, kind, rfl, rfl⟩
    · exact ⟨state, kind, rfl, stuck⟩
    · split
      · exact ⟨state, kind, rfl, stuck⟩
      · exact ⟨state, kind, fault, stuck⟩
    · exact ⟨state, kind, fault, stuck⟩
  · subst here
    rw [s.gantry.wiped_cleared _ x clears]
    exact ⟨rfl, rfl, rfl, rfl⟩

theorem State.faultsCleared_ref (c : Fin 32) :
    let ch := (s.faultsCleared x).channels[c]
    ch.ref = s.gantry.channels[c].ref ∧ ch.lastM = s.gantry.channels[c].lastM
      ∧ ch.target = s.gantry.channels[c].target := by
  refine s.faultsCleared_keeps x (P := fun c ch => ch.ref = s.gantry.channels[c].ref
    ∧ ch.lastM = s.gantry.channels[c].lastM ∧ ch.target = s.gantry.channels[c].target)
    (fun i ch was is restart same => ?_) (fun i => ?_) c
  · have measured := ch.relight_measured was is restart
    simp only [Channel.measured, Prod.mk.injEq] at measured
    obtain ⟨target, lastM, ref, -, -⟩ := measured
    rw [target, lastM, ref]
    exact same
  · by_cases clears : i ∈ s.store.active.clearedChannels x
    · rw [s.gantry.wiped_cleared _ x clears]
      exact ⟨rfl, rfl, rfl⟩
    · rw [s.gantry.wiped_stands _ x clears]
      exact ⟨rfl, rfl, rfl⟩

theorem State.faultsCleared_altFlag {h : Fin 8} (concerned : s.store.active.concerned x h = true) (a : Aspect) :
    (s.faultsCleared x).heads[h].altFlag a = false := by
  have items : (s.faultsCleared x).heads[h].lampItems = (s.gantry.clearFaults s.store.active x).heads[h].lampItems :=
    (s.env.lampItems_walks _).retestOpposites _ _ (fun _ => rfl) h
  have flags : (s.faultsCleared x).heads[h].altFlag = (s.gantry.clearFaults s.store.active x).heads[h].altFlag :=
    congrArg Prod.snd items
  rw [flags, s.gantry.clearFaults_concerned _ x concerned]
  cases a <;> rfl

end

theorem actClearLampFault_outOfRange {o : Order} {s : State} (past : 7 < natAt o.body 0)
    (one : natAt o.body 0 ≠ 255) : actClearLampFault o s = .refuse s .outOfRange := if_pos ⟨past, one⟩

theorem actClearLampFault_done {o : Order} {s : State} (named : natAt o.body 0 ≤ 7 ∨ natAt o.body 0 = 255) :
    actClearLampFault o s = .done { s with gantry := s.faultsCleared (natAt o.body 0) }
      [byteOf (s.faulty (natAt o.body 0)).length] := if_neg (by omega)

/-- CLEAR_LAMP_FAULT as the statement has it. -/
theorem exec_clearLampFault {o : Order} {s : State} (addressed : s.Addressed o) (body : o.body.length = 1)
    (mode : s.node.mode ≠ .unconfigured) : exec (.clearLampFault o) s
      = .next ((actClearLampFault o (s.received o)).state.replied 0x41#8 o
        (actClearLampFault o (s.received o)).status (actClearLampFault o (s.received o)).content) :=
  exec_addressedOrder (c := .clearLampFault o) rfl addressed ((lengthIs_iff 1 _).2 body) (.inl rfl)
    ((configured_iff _).2 mode)

/-! ## RELEARN (R156) -/

theorem Gantry.relearn_channel (g : Gantry) (x : Nat) (c : Fin 32) : (g.relearn x).channels[c] =
    if x = 255 ∨ c.val = x then { g.channels[c] with ref := 1024 } else g.channels[c] := by
  simp [Gantry.relearn]

/-- Settles O38: CLEAR_LAMP_FAULT by the gantry cleared, `Gantry.clearFaults`, and what the re-tests after it keep;
RELEARN channel by channel. -/
theorem clearLampFaultAndRelearn : Obligations.ClearLampFaultAndRelearn := by
  unfold Obligations.ClearLampFaultAndRelearn
  refine ⟨fun o s addressed body mode => ?_, fun o s addressed body authority key mode => ?_⟩
  · intro u x cleared b concerned
    have answered := exec_clearLampFault addressed body mode
    refine ⟨fun past one => ?_, fun named => ?_⟩
    · rw [actClearLampFault_outOfRange past one] at answered
      exact answered
    · rw [actClearLampFault_done named] at answered
      have clears := b.mem_clearedChannels named
      have concerns : ∀ {h}, concerned h ↔ b.concerned x h = true := fun {h} => (b.concerned_iff x h).symm
      refine ⟨_, _, s.gantry.clearFaults b x, answered, u.faulty_nodup x,
        fun c => (u.mem_faulty x c).trans (and_congr_left' (clears c)),
        fun c cleared => u.faultsCleared_ok x ((clears c).2 cleared), u.faultsCleared_ref x,
        fun h a here => u.faultsCleared_altFlag x (concerns.1 here) a,
        ⟨s.gantry.wiped b x, fun c => ⟨fun cleared => s.gantry.wiped_cleared b x ((clears c).2 cleared),
          fun stands => s.gantry.wiped_stands b x fun has => stands ((clears c).1 has)⟩, rfl, ?_⟩,
        fun h here => s.gantry.clearFaults_concerned b x (concerns.1 here),
        fun h stands => s.gantry.clearFaults_stands b x (Bool.eq_false_iff.2 fun here => stands (concerns.2 here)),
        s.gantry.clearFaults_lanes b x, u.env.retestOpposites_eq _ _, rfl⟩
      simp only [concerns]
      exact s.gantry.clearFaults_relit b x
  · intro u x
    have answered : exec (.relearn o) s = .next ((actRelearn o u).state.replied 0x42#8 o
        (actRelearn o u).status (actRelearn o u).content) :=
      exec_addressedOrder (c := .relearn o) rfl addressed ((lengthIs_iff 1 _).2 body) (.inr ⟨authority, key⟩)
        ((configured_iff _).2 mode)
    refine ⟨fun past one => ?_, fun named => ?_⟩
    · have act : actRelearn o u = .refuse u .outOfRange := if_pos ⟨past, one⟩
      rw [act] at answered
      exact answered
    · have act : actRelearn o u = .done { u with gantry := u.gantry.relearn x } [] := if_neg (by omega)
      rw [act] at answered
      exact ⟨_, answered, s.gantry.relearn_channel x, rfl⟩

end Sys2Proof.Machine
end

section
/-! SUPPORT. The sample event: heads judged and switched to their alternates, the Conflict Monitor, the posts
(R148, R153, R154, R160). -/

namespace Sys2Proof.Machine

/-! ## A head judged over its displayed pattern (R153) -/

section
variable {p : List PatternEntry} {channels : Vector Channel 32}

theorem provingOf_unsettled (unsettled : p = [] ∨ ∃ x ∈ p, channels[x.channel].settle < 2) :
    provingOf p channels = .unproven := by
  unfold provingOf
  rcases unsettled with rfl | ⟨x, hx, settling⟩
  · rfl
  · have any : (p.any fun e => channels[e.channel].settle < 2) = true :=
      List.any_eq_true.2 ⟨x, hx, decide_eq_true settling⟩
    rw [any, if_pos rfl, ite_self]

section
variable (shown : p ≠ []) (settled : ¬∃ x ∈ p, channels[x.channel].settle < 2)
include shown settled

theorem provingOf_settled : provingOf p channels =
    if p.any fun e => e.essential && channels[e.channel].state == .failed then .failed
    else if p.any fun e => channels[e.channel].state == .failed then .degraded
    else .proven := by
  have none : ¬(p.any fun e => channels[e.channel].settle < 2) = true := by
    simpa using settled
  rw [provingOf, if_neg (by simpa using shown), if_neg none]

theorem provingOf_failed (failed : ∃ x ∈ p, x.essential = true ∧ channels[x.channel].state = .failed) :
    provingOf p channels = .failed := by
  rw [provingOf_settled shown settled]
  exact if_pos (by simpa using failed)

theorem provingOf_degraded (essentials : ∀ x ∈ p, x.essential = true → ¬channels[x.channel].state = .failed)
    (failed : ∃ x ∈ p, channels[x.channel].state = .failed) : provingOf p channels = .degraded := by
  rw [provingOf_settled shown settled, if_neg (by simpa using essentials)]
  exact if_pos (by simpa using failed)

theorem provingOf_proven (sound : ∀ x ∈ p, ¬channels[x.channel].state = .failed) :
    provingOf p channels = .proven := by
  rw [provingOf_settled shown settled, if_neg (by simpa using fun x hx _ => sound x hx)]
  exact if_neg (by simpa using sound)

end
end

/-! ## Steps 1 to 3: channels and heads judged -/

/-- What a sample makes of a channel is what `Gantry.judge` says, in the words of the statements. -/
theorem Gantry.judge_eq (g : Gantry) (b : Bank) (m : List Nat) (c : Fin 32) : g.judge b m c =
    if c ∈ b.litChannels g.heads then { g.channels[c] with lastM := sense m c }.judgeLit b c
    else { g.channels[c] with lastM := sense m c }.judgeUnlit b c := by
  simp only [Gantry.judge, List.contains_iff_mem]

theorem Channel.measure_lastM (ch : Channel) (b : Bank) (c : Fin 32) :
    (ch.measure b c).channel.lastM = ch.lastM := by
  simp only [Channel.measure]
  split_ifs <;> rfl

theorem Channel.judgeLit_lastM (ch : Channel) (b : Bank) (c : Fin 32) :
    (ch.judgeLit b c).channel.lastM = ch.lastM := by
  unfold Channel.judgeLit
  split_ifs
  · rfl
  · rfl
  · exact ch.measure_lastM b c

theorem Channel.judgeUnlit_lastM (ch : Channel) (b : Bank) (c : Fin 32) :
    (ch.judgeUnlit b c).channel.lastM = ch.lastM := by
  unfold Channel.judgeUnlit
  split_ifs <;> rfl

theorem Gantry.judge_lastM (g : Gantry) (b : Bank) (m : List Nat) (c : Fin 32) :
    (g.judge b m c).channel.lastM = sense m c := by
  rw [g.judge_eq]
  split
  · exact Channel.judgeLit_lastM _ b c
  · exact Channel.judgeUnlit_lastM _ b c

section
variable (g : Gantry) (b : Bank) (m : List Nat)

theorem Gantry.judged_channel (c : Fin 32) : (g.judged b m).channels[c] = (g.judge b m c).channel := by
  simp [Gantry.judged]

theorem Gantry.judged_channels : (g.judged b m).channels = Vector.ofFn fun c => (g.judge b m c).channel := by
  unfold Gantry.judged
  rfl

theorem Gantry.judged_lanes : (g.judged b m).lanes = g.lanes := by
  unfold Gantry.judged
  rfl

theorem Gantry.judged_slew : (g.judged b m).slew = g.slew := by
  unfold Gantry.judged
  rfl

/-- What a head is judged to be at a sample. -/
def Gantry.proves (h : Fin 8) : Proving := provingOf (b.shownPattern h g.heads[h]) (g.judged b m).channels

theorem Gantry.judged_present {h : Fin 8} (present : b.headExists h = true) :
    (g.judged b m).heads[h] = { g.heads[h] with proving := g.proves b m h } := by
  simp [Gantry.judged, Gantry.proves, present]

theorem Gantry.judged_absent {h : Fin 8} (absent : b.headExists h = false) :
    (g.judged b m).heads[h] = g.heads[h] := by
  simp [Gantry.judged, absent]

theorem Gantry.judged_test (h : Fin 8) : (g.judged b m).heads[h].test = g.heads[h].test := by
  cases present : b.headExists h
  · rw [g.judged_absent b m present]
  · rw [g.judged_present b m present]

/-- The lit set stands while heads are judged. -/
theorem Gantry.judged_lit : b.litChannels (g.judged b m).heads = b.litChannels g.heads :=
  b.litChannels_congr (g.judged_shown b m)

/-- A head that becomes FAILED at a sample. -/
def Gantry.Fails (h : Fin 8) : Prop :=
  b.headExists h = true ∧ g.proves b m h = .failed ∧ g.heads[h].proving ≠ .failed

theorem Gantry.mem_newlyFailed (h : Fin 8) : h ∈ newlyFailed b g (g.judged b m) ↔ g.Fails b m h := by
  simp only [newlyFailed, List.mem_filter, b.mem_existing, Bool.and_eq_true, beq_iff_eq, bne_iff_ne, Gantry.Fails]
  refine and_congr_right fun present => ?_
  rw [g.judged_present b m present]

theorem newlyFailed_sorted (after : Gantry) : (newlyFailed b g after).Pairwise (· < ·) :=
  b.existing_sorted.filter _

/-! ## Step 4: the switch to an alternate (R154) -/

theorem Bank.switchAspect_iff (h : Fin 8) (hd : Head) (a : Aspect) : b.switchAspect h hd = some a ↔
    hd.test = none ∧ hd.shown = some (a, .primary) ∧ b.pattern h a .alternate ≠ [] := by
  unfold Bank.switchAspect
  split
  · rename_i x test shown
    simp only [Option.ite_none_left_eq_some, List.isEmpty_iff, Option.some.injEq, test, shown, Prod.mk.injEq,
      and_true, true_and]
    constructor
    · rintro ⟨fitted, rfl⟩
      exact ⟨rfl, fitted⟩
    · rintro ⟨rfl, fitted⟩
      exact ⟨fitted, rfl⟩
  · rename_i other
    simp only [reduceCtorEq, false_iff]
    rintro ⟨test, shown, -⟩
    exact other a test shown

/-- A head that becomes FAILED on the primary pattern of aspect `a` and goes to its alternate. -/
def Gantry.Switches (h : Fin 8) (a : Aspect) : Prop :=
  g.Fails b m h ∧ g.heads[h].test = none ∧ g.heads[h].shown = some (a, .primary) ∧ b.pattern h a .alternate ≠ []

theorem Gantry.switchAspect_judged (h : Fin 8) (a : Aspect) : b.switchAspect h (g.judged b m).heads[h] = some a ↔
    g.heads[h].test = none ∧ g.heads[h].shown = some (a, .primary) ∧ b.pattern h a .alternate ≠ [] := by
  rw [b.switchAspect_iff, g.judged_test, g.judged_shown]

end

/-- A head on its primary pattern that goes to its alternate. -/
theorem Head.shown_setAlt {hd : Head} {a : Aspect} (test : hd.test = none) (shown : hd.shown = some (a, .primary)) :
    (hd.setAlt a).shown = some (a, .alternate) := by
  by_cases dark : hd.displayed = .dark
  · rw [Head.shown_dark test dark] at shown
    cases shown
  · rw [Head.shown_displayed test dark, Option.some.injEq, Prod.mk.injEq] at shown
    obtain ⟨here, -⟩ := shown
    have kept : (hd.setAlt a).displayed = a ∧ (hd.setAlt a).test = none := by
      cases a <;> exact ⟨here, test⟩
    obtain ⟨displayed, untested⟩ := kept
    rw [Head.shown_displayed untested (by rwa [displayed, ← here]), displayed]
    cases a with
    | dark => exact absurd here dark
    | open_ => rfl
    | mergeL => rfl
    | mergeR => rfl
    | closed => rfl

theorem Head.altFlag_setAlt {hd : Head} {a : Aspect} (lit : a ≠ .dark) : (hd.setAlt a).altFlag a = true := by
  cases a with
  | dark => exact absurd rfl lit
  | open_ => rfl
  | mergeL => rfl
  | mergeR => rfl
  | closed => rfl

theorem Head.setAlt_proving (hd : Head) (a : Aspect) (p q : Proving) :
    { { hd with proving := p }.setAlt a with proving := q } = { hd.setAlt a with proving := q } := by
  cases a <;> rfl

section
variable (g : Gantry) (b : Bank) (failed : List (Fin 8))

/-- The head records of step 4. -/
def Gantry.switched : Vector Head 8 :=
  Vector.ofFn fun h : Fin 8 =>
    match b.switchAspect h g.heads[h] with
    | some a => if failed.contains h then g.heads[h].setAlt a else g.heads[h]
    | none => g.heads[h]

theorem Gantry.switched_self {h : Fin 8} {a : Aspect} (here : h ∈ failed)
    (aspect : b.switchAspect h g.heads[h] = some a) : (g.switched b failed)[h] = g.heads[h].setAlt a := by
  simp only [Fin.getElem_fin] at aspect
  simp [Gantry.switched, here, aspect]

theorem Gantry.switched_other {h : Fin 8} (stays : ∀ a, ¬(h ∈ failed ∧ b.switchAspect h g.heads[h] = some a)) :
    (g.switched b failed)[h] = g.heads[h] := by
  simp only [Gantry.switched, Fin.getElem_fin, Vector.getElem_ofFn]
  split
  · rename_i a aspect
    exact if_neg fun here => stays a ⟨List.contains_iff_mem.1 here, aspect⟩
  · rfl

end

end Sys2Proof.Machine
end

section
/-! SUPPORT. The gantry after a sample, the Conflict Monitor, the posts, and the sample event (R148, R154, R160,
R52). -/

namespace Sys2Proof.Machine

/-! ## The gantry after step 4 (R154) -/

section
variable (g : Gantry) (b : Bank) (m : List Nat)

/-- The head records of a sample after its switches. -/
def Gantry.alternates : Vector Head 8 := (g.judged b m).switched b (newlyFailed b g (g.judged b m))

/-- The gantry of a sample after its switches. -/
def Gantry.onAlternates : Gantry := (g.judged b m).relight b b (fun _ => false) (g.alternates b m)

theorem Gantry.switches_iff (h : Fin 8) (a : Aspect) : (h ∈ newlyFailed b g (g.judged b m)
    ∧ b.switchAspect h (g.judged b m).heads[h] = some a) ↔ g.Switches b m h a := by
  rw [g.mem_newlyFailed, g.switchAspect_judged]
  rfl

variable {h : Fin 8} {a : Aspect}

theorem Gantry.alternates_switched (switches : g.Switches b m h a) :
    (g.alternates b m)[h] = (g.judged b m).heads[h].setAlt a := by
  obtain ⟨failed, aspect⟩ := (g.switches_iff b m h a).2 switches
  exact (g.judged b m).switched_self b _ failed aspect

theorem Gantry.alternates_stays (stays : ∀ a, ¬g.Switches b m h a) :
    (g.alternates b m)[h] = (g.judged b m).heads[h] :=
  (g.judged b m).switched_other b _ fun a switched => stays a ((g.switches_iff b m h a).1 switched)

/-- A head that switches shows its alternate. -/
theorem Gantry.alternates_shown (switches : g.Switches b m h a) :
    (g.alternates b m)[h].shown = some (a, .alternate) := by
  obtain ⟨-, test, shown, -⟩ := id switches
  rw [g.alternates_switched b m switches]
  exact Head.shown_setAlt (by rwa [g.judged_test]) (by rwa [g.judged_shown])

/-- The heads whose pattern changes are those that switch. -/
theorem Gantry.alternates_moved :
    (g.alternates b m)[h].shown ≠ (g.judged b m).heads[h].shown ↔ ∃ a, g.Switches b m h a := by
  constructor
  · intro moved
    by_contra stays
    exact moved (congrArg Head.shown (g.alternates_stays b m (not_exists.1 stays)))
  · rintro ⟨a, switches⟩
    obtain ⟨-, -, shown, -⟩ := id switches
    rw [g.alternates_shown b m switches, g.judged_shown, shown]
    simp

theorem Gantry.alternates_pattern (switches : g.Switches b m h a) :
    b.shownPattern h (g.alternates b m)[h] = b.pattern h a .alternate := by
  obtain ⟨⟨present, -⟩, -⟩ := id switches
  simp only [Bank.shownPattern, present, g.alternates_shown b m switches, if_true]

/-- Channels and slew timer of a sample: the alternates of the heads that switch settle. -/
theorem Gantry.onAlternates_relit : (g.judged b m).relit (g.onAlternates b m) (fun c => c ∈ b.litChannels g.heads)
    (fun c => c ∈ b.litChannels (g.onAlternates b m).heads)
    (fun c => ∃ h a, g.Switches b m h a ∧ ∃ x ∈ b.pattern h a .alternate, x.channel = c) := by
  refine ((g.judged b m).relit_relight b b (fun _ => false) (g.alternates b m)).congr
    (fun c => by rw [g.judged_lit]) (fun c => ?_) fun c _ _ => ?_
  · rw [Gantry.onAlternates, Gantry.relight_lit]
  · simp only [Bool.false_eq_true, false_or, g.alternates_moved]
    constructor
    · rintro ⟨h, ⟨a, switches⟩, settles⟩
      rw [g.alternates_pattern b m switches] at settles
      exact ⟨h, a, switches, settles⟩
    · rintro ⟨h, a, switches, settles⟩
      rw [← g.alternates_pattern b m switches] at settles
      exact ⟨h, ⟨a, switches⟩, settles⟩

/-- A head that switches is UNPROVEN on its alternate. -/
theorem Gantry.onAlternates_switched (switches : g.Switches b m h a) :
    (g.onAlternates b m).heads[h] = { g.heads[h].setAlt a with proving := .unproven } := by
  obtain ⟨⟨present, -⟩, -⟩ := id switches
  have settling : provingOf (b.shownPattern h (g.alternates b m)[h]) (g.onAlternates b m).channels = .unproven := by
    rw [g.alternates_pattern b m switches]
    refine provingOf_settling fun e he => ((g.onAlternates_relit b m).settled ?_ ⟨h, a, switches, e, he, rfl⟩).1
    rw [Gantry.onAlternates, Gantry.relight_lit]
    exact (b.mem_litChannels _ _).2 ⟨h, e, by rwa [g.alternates_pattern b m switches], rfl⟩
  rw [Gantry.onAlternates] at settling ⊢
  rw [Gantry.relight_head_eq, if_pos (.inr ((g.alternates_moved b m).2 ⟨a, switches⟩)), settling,
    g.alternates_switched b m switches, g.judged_present b m present, Head.setAlt_proving]

/-- Every other head stands as judged. -/
theorem Gantry.onAlternates_stays (stays : ∀ a, ¬g.Switches b m h a) :
    (g.onAlternates b m).heads[h] = (g.judged b m).heads[h] :=
  Gantry.relight_other _ _ _ _ _ h rfl (g.alternates_stays b m stays)

theorem Gantry.onAlternates_absent (absent : b.headExists h = false) :
    (g.onAlternates b m).heads[h] = g.heads[h] := by
  refine (g.onAlternates_stays b m fun a switches => ?_).trans (g.judged_absent b m absent)
  obtain ⟨⟨present, -⟩, -⟩ := switches
  exact Bool.false_ne_true (absent.symm.trans present)

/-- Its alternate flag is set. -/
theorem Gantry.onAlternates_altFlag (switches : g.Switches b m h a) :
    (g.onAlternates b m).heads[h].altFlag a = true := by
  obtain ⟨-, -, -, fitted⟩ := id switches
  have lit : a ≠ .dark := by
    rintro rfl
    exact fitted (if_pos rfl)
  rw [g.onAlternates_switched b m switches, ← Head.altFlag_setAlt (hd := g.heads[h]) lit]
  cases a <;> rfl

theorem Gantry.onAlternates_measured (c : Fin 32) :
    (g.onAlternates b m).channels[c].measured = (g.judge b m c).channel.measured :=
  Gantry.relight_keeps (P := fun c ch => ch.measured = (g.judge b m c).channel.measured)
    (fun _ ch was is restart same => (ch.relight_measured was is restart).trans same) _ _ _ _
    (fun c => congrArg Channel.measured (g.judged_channel b m c)) c

/-! ## Step 5: the Conflict Monitor (R160) -/

/-- The gantry after the five steps of a sample. -/
def Gantry.sampled : Gantry := (g.onAlternates b m).judgeConflicts b m

theorem Gantry.sampled_heads : (g.sampled b m).heads = (g.onAlternates b m).heads := by
  unfold Gantry.sampled Gantry.judgeConflicts
  rfl

theorem Gantry.sampled_channels : (g.sampled b m).channels = (g.onAlternates b m).channels := by
  unfold Gantry.sampled Gantry.judgeConflicts
  rfl

theorem Gantry.sampled_slew : (g.sampled b m).slew = (g.onAlternates b m).slew := by
  unfold Gantry.sampled Gantry.judgeConflicts
  rfl

/-- Both faces of a TIDAL lane show permissive current. -/
def Bank.Conflicts (k : Fin 4) : Prop :=
  b.tidal k = true ∧ ∀ f : Face, ∃ c ∈ b.permissiveChannels (b.faceHead k f), 64 ≤ sense m c

variable (k : Fin 4)

theorem Bank.conflicts_iff :
    (b.tidal k && b.litPermissive m k .asc && b.litPermissive m k .desc) = true ↔ b.Conflicts m k := by
  have lit : ∀ f, b.litPermissive m k f = true ↔ ∃ c ∈ b.permissiveChannels (b.faceHead k f), 64 ≤ sense m c :=
    fun f => by
      simp only [Bank.litPermissive, List.any_eq_true, decide_eq_true_eq]
      rfl
  rw [Bool.and_eq_true, Bool.and_eq_true, lit, lit, and_assoc]
  refine and_congr_right fun _ => ⟨fun ⟨asc, desc⟩ f => ?_, fun both => ⟨both .asc, both .desc⟩⟩
  cases f
  · exact asc
  · exact desc

variable {k}

theorem Bank.conflictCount_conflict (conflict : b.Conflicts m k) (n : Nat) :
    b.conflictCount m k n = min 2 (n + 1) := if_pos ((b.conflicts_iff m k).2 conflict)

theorem Bank.conflictCount_none (none : ¬b.Conflicts m k) (n : Nat) : b.conflictCount m k n = 0 :=
  if_neg fun conflict => none ((b.conflicts_iff m k).1 conflict)

theorem Gantry.sampled_lane (k : Fin 4) : (g.sampled b m).lanes[k]
    = { g.lanes[k] with conflictCount := b.conflictCount m k g.lanes[k].conflictCount } := by
  have lanes : (g.onAlternates b m).lanes = g.lanes := by
    rw [Gantry.onAlternates, Gantry.relight_lanes, g.judged_lanes]
  simp [Gantry.sampled, Gantry.judgeConflicts, lanes]

/-- The lanes that trip have a conflict for the second sample running. -/
theorem Gantry.mem_tripped (k : Fin 4) :
    k ∈ (g.sampled b m).tripped ↔ b.Conflicts m k ∧ 1 ≤ g.lanes[k].conflictCount := by
  simp only [Gantry.tripped, List.mem_filter, mem_allLanes, true_and, decide_eq_true_eq, g.sampled_lane]
  by_cases conflict : b.Conflicts m k
  · rw [b.conflictCount_conflict m conflict, and_iff_right conflict]
    omega
  · rw [b.conflictCount_none m conflict]
    simp [conflict]

theorem Gantry.tripped_sorted : g.tripped.Pairwise (· < ·) := by
  unfold Gantry.tripped
  exact List.Pairwise.filter _ (by decide)

/-- Without a trip the count is 1 at a conflict, else 0. -/
theorem Gantry.sampled_count (untripped : (g.sampled b m).tripped = []) (k : Fin 4) :
    (b.Conflicts m k → (g.sampled b m).lanes[k] = { g.lanes[k] with conflictCount := 1 })
    ∧ (¬b.Conflicts m k → (g.sampled b m).lanes[k] = { g.lanes[k] with conflictCount := 0 }) := by
  rw [g.sampled_lane]
  refine ⟨fun conflict => ?_, fun none => by rw [b.conflictCount_none m none]⟩
  have first : ¬1 ≤ g.lanes[k].conflictCount := fun again => by
    have trips := (g.mem_tripped b m k).2 ⟨conflict, again⟩
    rw [untripped] at trips
    exact List.not_mem_nil trips
  rw [b.conflictCount_conflict m conflict, show min 2 (g.lanes[k].conflictCount + 1) = 1 by omega]

/-! ## Step 6: the posts -/

/-- The event of a head that becomes FAILED: its switch, or the failure. -/
theorem Gantry.failedEvent_eq {e : EventKind} (switch : ∀ a, g.Switches b m h a → e = .alternateInUse h a)
    (stay : (∀ a, ¬g.Switches b m h a) → e = .headFailed h) (fails : g.Fails b m h) :
    b.failedEvent (g.judged b m) h = e := by
  have switches : ∀ a, g.Switches b m h a ↔ b.switchAspect h (g.judged b m).heads[h] = some a := fun a => by
    rw [g.switchAspect_judged]
    exact and_iff_right fails
  simp only [switches] at switch stay
  unfold Bank.failedEvent
  cases aspect : b.switchAspect h (g.judged b m).heads[h] with
  | none => exact (stay fun a => by rw [aspect]; simp).symm
  | some a => exact (switch a aspect).symm

/-- The posts of channels and heads, over the one sorted list of the heads that become FAILED. -/
theorem Gantry.sampleEvents_eq {hs : List (Fin 8)} {posts : Fin 8 → EventKind}
    (all : ∀ h, h ∈ hs ↔ g.Fails b m h) (sorted : hs.Pairwise (· < ·))
    (posted : ∀ h ∈ hs, (∀ a, g.Switches b m h a → posts h = .alternateInUse h a)
      ∧ ((∀ a, ¬g.Switches b m h a) → posts h = .headFailed h)) : sampleEvents b m g (g.judged b m)
        = (allChannels.filterMap fun c => (g.judge b m c).event) ++ hs.map posts := by
  have same : newlyFailed b g (g.judged b m) = hs :=
    (newlyFailed_sorted g b _).eq_of_mem_iff sorted fun h => (g.mem_newlyFailed b m h).trans (all h).symm
  rw [sampleEvents, same]
  refine congrArg _ (List.map_congr_left fun h here => ?_)
  obtain ⟨switch, stay⟩ := posted h here
  exact g.failedEvent_eq b m switch stay ((all h).1 here)

end

/-- Several posts at one moment. -/
def EventUnit.postAll (q : EventUnit) (clock : Clock) (ks : List EventKind) : EventUnit :=
  ks.foldl (fun q k => q.post ⟨k, 0, 0, clock⟩) q

theorem State.postAll_eq (s : State) (ks : List EventKind) :
    s.postAll ks = { s with events := s.events.postAll s.take.clock ks } := by
  unfold State.postAll EventUnit.postAll
  induction ks generalizing s with
  | nil => rfl
  | cons k ks ih => exact ih (s.post k)

theorem EventUnit.postAll_reports {q : EventUnit} {k : EventKind} (clock : Clock) (ks : List EventKind)
    (reported : k ∈ ks ∨ q.reports k) : (q.postAll clock ks).reports k := by
  unfold EventUnit.postAll
  induction ks generalizing q with
  | nil => exact reported.resolve_left List.not_mem_nil
  | cons i ks ih =>
    refine ih ?_
    rcases reported with here | before
    · rcases List.mem_cons.1 here with rfl | later
      · exact .inr (q.post_reports ⟨k, 0, 0, clock⟩)
      · exact .inl later
    · exact .inr (EventUnit.reports_post before _)

/-! ## The sample event (R148) -/

section
variable (s : State) (m : List Nat)

/-- The events of a sample in the order of step 6. -/
def State.samplePosts : List EventKind :=
  sampleEvents s.store.active m s.gantry (s.gantry.judged s.store.active m)
    ++ (s.gantry.sampled s.store.active m).tripped.map EventKind.conflictLockout

/-- The node after the steps of a sample, before re-tests or a trip. -/
def State.sampled : State :=
  { s with
    gantry := s.gantry.sampled s.store.active m
    events := s.events.postAll s.take.clock (s.samplePosts m) }

theorem State.sampled_gantry : (s.sampled m).gantry = s.gantry.sampled s.store.active m := rfl

theorem State.sample_off (off : s.node.mode = .unconfigured ∨ s.node.mode = .lockout) : s.sample m = s := by
  unfold State.sample
  rcases off with mode | mode
  · rw [mode]
    rfl
  · rw [mode]
    rfl

variable {s}

theorem Mode.samples_iff (mode : Mode) :
    mode.samples = true ↔ mode = .outOfService ∨ mode = .inService ∨ mode = .fallback := by
  cases mode <;> simp [Mode.samples]

variable (samples : s.node.mode.samples = true)
include samples

theorem State.sample_eq : s.sample m = if (s.gantry.sampled s.store.active m).tripped.isEmpty
    then (s.sampled m).seq fun e g => e.retestOpposites s.gantry g else (s.sampled m).lockout := by
  have posted : ({ s with gantry := s.gantry.sampled s.store.active m }.postAll
      (sampleEvents s.store.active m s.gantry (s.gantry.judged s.store.active m))).postAll
        ((s.gantry.sampled s.store.active m).tripped.map EventKind.conflictLockout) = s.sampled m := by
    simp only [State.postAll_eq, State.sampled, State.samplePosts, EventUnit.postAll, List.foldl_append]
  rw [← posted, State.sample, samples]
  rfl

theorem State.sample_stays (untripped : (s.gantry.sampled s.store.active m).tripped = []) : s.sample m =
    { s.sampled m with
      gantry := s.env.retestOpposites s.gantry (s.gantry.sampled s.store.active m) } := by
  rw [State.sample_eq m samples, untripped]
  rfl

theorem State.sample_trips (trips : (s.gantry.sampled s.store.active m).tripped ≠ []) :
    s.sample m = (s.sampled m).lockout := by
  rw [State.sample_eq m samples, if_neg (by simpa using trips)]

theorem State.sample_events : (s.sample m).events = s.events.postAll s.take.clock (s.samplePosts m) := by
  rw [State.sample_eq m samples]
  split
  · rfl
  · rfl

end

/-! ## A trip (R52) -/

section
variable (s : State)

theorem State.lockout_channel (c : Fin 32) : s.lockout.gantry.channels[c].output = 0
    ∧ s.lockout.gantry.channels[c].measured = s.gantry.channels[c].measured := by
  have off : s.lockout.gantry.channels[c] = { (s.gantry.darken s.store.active).channels[c] with output := 0 } := by
    simp [State.lockout, Gantry.outputsOff, Gantry.conflictsOff]
  rw [off, Gantry.darken_channels]
  refine ⟨rfl, ?_⟩
  split
  · rfl
  · rfl

theorem State.lockout_head (h : Fin 8) : s.lockout.gantry.heads[h] = { s.gantry.heads[h].darken with
    proving := if s.gantry.heads[h].shown = none then s.gantry.heads[h].proving else .unproven } :=
  s.gantry.darken_heads s.store.active h

theorem State.lockout_count (k : Fin 4) : s.lockout.gantry.lanes[k].conflictCount = 0 := by
  simp [State.lockout, Gantry.conflictsOff]

end

/-! ## What a sample leaves, trip or none -/

section
variable {s : State} (m : List Nat) (samples : s.node.mode.samples = true)
include samples

theorem State.sample_measured (c : Fin 32) : (s.sample m).gantry.channels[c].measured
    = (s.gantry.judge s.store.active m c).channel.measured := by
  have judged : ∀ c : Fin 32, (s.sampled m).gantry.channels[c].measured
      = (s.gantry.judge s.store.active m c).channel.measured := fun c => by
    rw [State.sampled_gantry, Gantry.sampled_channels]
    exact s.gantry.onAlternates_measured s.store.active m c
  by_cases untripped : (s.gantry.sampled s.store.active m).tripped = []
  · rw [State.sample_stays m samples untripped]
    exact (Env.channels_walks (P := fun c ch => ch.measured = (s.gantry.judge s.store.active m c).channel.measured)
      (fun _ ch was is restart same => (ch.relight_measured was is restart).trans same)
      s.env).retestOpposites _ _ judged c
  · rw [State.sample_trips m samples untripped, ← judged c]
    exact ((s.sampled m).lockout_channel c).2

/-- Every channel keeps its M and its judgement. -/
theorem State.sample_channel (c : Fin 32) :
    let ch := (s.sample m).gantry.channels[c]
    let judged := (s.gantry.judge s.store.active m c).channel
    ch.lastM = sense m c ∧ ch.state = judged.state ∧ ch.kind = judged.kind ∧ ch.ref = judged.ref := by
  have measured := State.sample_measured m samples c
  simp only [Channel.measured, Prod.mk.injEq, s.gantry.judge_lastM] at measured
  obtain ⟨-, lastM, ref, state, kind⟩ := measured
  exact ⟨lastM, state, kind, ref⟩

theorem State.sample_altFlag {h : Fin 8} {a : Aspect} (switches : s.gantry.Switches s.store.active m h a) :
    (s.sample m).gantry.heads[h].altFlag a = true := by
  have flagged : (s.sampled m).gantry.heads[h].altFlag a = true := by
    rw [State.sampled_gantry, Gantry.sampled_heads]
    exact s.gantry.onAlternates_altFlag s.store.active m switches
  by_cases untripped : (s.gantry.sampled s.store.active m).tripped = []
  · have items := (s.env.lampItems_walks (s.sampled m).gantry).retestOpposites s.gantry _ (fun _ => rfl) h
    rw [State.sample_stays m samples untripped]
    exact (congrFun (congrArg Prod.snd items) a).trans flagged
  · rw [State.sample_trips m samples untripped, State.lockout_head, ← flagged]
    cases a <;> rfl

end

end Sys2Proof.Machine
end

section
/-! SUPPORT. The sample event at its moment (R148, R153, R154, R160, R52, logs 2, 21, 22 and 33). -/

namespace Sys2Proof.Machine

/-! ## The gantry of a sample, in the words of the statement -/

section
variable (g : Gantry) (b : Bank) (m : List Nat)

theorem Gantry.sampled_head (h : Fin 8) : (b.headExists h = false → (g.sampled b m).heads[h] = g.heads[h])
    ∧ (∀ a, g.Switches b m h a → (g.sampled b m).heads[h] = { g.heads[h].setAlt a with proving := .unproven })
    ∧ (b.headExists h = true → (∀ a, ¬g.Switches b m h a) →
      (g.sampled b m).heads[h] = { g.heads[h] with proving := g.proves b m h }) := by
  rw [g.sampled_heads]
  exact ⟨g.onAlternates_absent b m, fun _ => g.onAlternates_switched b m, fun present stays =>
    (g.onAlternates_stays b m stays).trans (g.judged_present b m present)⟩

theorem Gantry.sampled_relit : (g.judged b m).relit (g.sampled b m) (fun c => c ∈ b.litChannels g.heads)
    (fun c => c ∈ b.litChannels (g.sampled b m).heads)
    (fun c => ∃ h a, g.Switches b m h a ∧ ∃ x ∈ b.pattern h a .alternate, x.channel = c) := by
  rw [g.sampled_heads]
  exact (g.onAlternates_relit b m).after_eq (g.sampled_channels b m).symm (g.sampled_slew b m).symm

end

/-! ## The sample at its moment (logs 2 and 21) -/

/-- A sample with no timer due before it: time passes, the sample is judged, and the schedule is tested. -/
theorem exec_sampleEvent_quiet {s : State} (works : s.works = true) (next : 100 - s.lamp.sinceSample ≤ s.untilNext)
    (m : List Nat) : exec (.sampleEvent m) s
      = .next ((s.elapse (100 - s.lamp.sinceSample)).atSample.sample m).dueTest := by
  have late : 100 ≤ (s.elapse (100 - s.lamp.sinceSample)).lamp.sinceSample := le_add_tsub
  rw [exec_sampleEvent_running works, State.timed_of_le next, State.takeSample, if_pos late]

/-! ## What a sample judges does not change as time passes up to it -/

section
variable (s : State) (n : Nat) (b : Bank) (m : List Nat)

/-- Time leaves what a head shows, its lamp test and its proving state. -/
theorem State.elapse_lampHead (h : Fin 8) : (s.elapse n).gantry.heads[h].shown = s.gantry.heads[h].shown
    ∧ (s.elapse n).gantry.heads[h].test = s.gantry.heads[h].test
    ∧ (s.elapse n).gantry.heads[h].proving = s.gantry.heads[h].proving := by
  rw [State.elapse_heads]
  exact ⟨rfl, rfl, rfl⟩

theorem State.elapse_conflictCount (k : Fin 4) :
    (s.elapse n).gantry.lanes[k].conflictCount = s.gantry.lanes[k].conflictCount := by
  rw [State.elapse_lanes]

theorem State.elapse_judge (c : Fin 32) : (s.elapse n).gantry.judge b m c = s.gantry.judge b m c := by
  rw [Gantry.judge_eq, Gantry.judge_eq, s.elapse_lit]
  rfl

end

/-! ## A sample without a trip, and one with a trip -/

section
variable {s : State} (m : List Nat) (samples : s.node.mode.samples = true)
include samples

/-- Without a trip the conflict counts stand through the re-tests: 1 at a conflict, else 0. -/
theorem State.sample_count (untripped : (s.gantry.sampled s.store.active m).tripped = []) (k : Fin 4) :
    (s.store.active.Conflicts m k → (s.sample m).gantry.lanes[k].conflictCount = 1)
      ∧ (¬s.store.active.Conflicts m k → (s.sample m).gantry.lanes[k].conflictCount = 0) := by
  obtain ⟨first, clear⟩ := s.gantry.sampled_count s.store.active m untripped k
  have stands : (s.sample m).gantry.lanes[k].conflictCount
      = (s.gantry.sampled s.store.active m).lanes[k].conflictCount := by
    rw [State.sample_stays m samples untripped]
    exact (s.env.conflictCount_walks _).retestOpposites _ _ (fun _ => rfl) k
  rw [stands]
  exact ⟨fun conflict => by rw [first conflict], fun none => by rw [clear none]⟩

theorem State.sample_untripped (untripped : (s.gantry.sampled s.store.active m).tripped = []) :
    (s.sample m).node = s.node ∧ (s.sample m).take = s.take ∧ (s.sample m).watchdog = s.watchdog
      ∧ (s.sample m).lamp = s.lamp := by
  rw [State.sample_stays m samples untripped]
  exact ⟨rfl, rfl, rfl, rfl⟩

/-- A trip locks the node out (R52). -/
theorem State.sample_tripped (trips : (s.gantry.sampled s.store.active m).tripped ≠ []) :
    (s.sample m).node = { s.node with mode := .lockout, hold := false }
      ∧ (s.sample m).lamp = { s.lamp with power := false }
      ∧ (s.sample m).watchdog = { armed := false, start := none, stream := false }
      ∧ (s.sample m).take = { s.take with
        pendingPlan := none, schedule := [], scheduleFull := false, currentPlan := 0 }
      ∧ (∀ c : Fin 32, (s.sample m).gantry.channels[c].output = 0)
      ∧ (∀ h : Fin 8, (s.sample m).gantry.heads[h].displayed = .dark ∧ (s.sample m).gantry.heads[h].target = none)
      ∧ (∀ k : Fin 4, (s.sample m).gantry.lanes[k].conflictCount = 0) := by
  rw [State.sample_trips m samples trips]
  refine ⟨rfl, rfl, rfl, rfl, fun c => ((s.sampled m).lockout_channel c).1, fun h => ?_,
    (s.sampled m).lockout_count⟩
  rw [State.lockout_head]
  exact ⟨rfl, rfl⟩

/-- A lane that trips is reported. -/
theorem State.sample_reports {k : Fin 4} (trips : k ∈ (s.gantry.sampled s.store.active m).tripped) :
    (s.sample m).events.reports (.conflictLockout k) := by
  rw [State.sample_events m samples]
  exact EventUnit.postAll_reports _ _ (.inl (List.mem_append_right _ (List.mem_map_of_mem trips)))

/-- The posts of a sample, over the sorted lists of heads that become FAILED and lanes that trip. -/
theorem State.sample_posts {hs : List (Fin 8)} {ks : List (Fin 4)} {posts : Fin 8 → EventKind}
    (heads : ∀ h, h ∈ hs ↔ s.gantry.Fails s.store.active m h) (sortedHeads : hs.Pairwise (· < ·))
    (lanes : ∀ k, k ∈ ks ↔ k ∈ (s.gantry.sampled s.store.active m).tripped) (sortedLanes : ks.Pairwise (· < ·))
    (posted : ∀ h ∈ hs, (∀ a, s.gantry.Switches s.store.active m h a → posts h = .alternateInUse h a)
      ∧ ((∀ a, ¬s.gantry.Switches s.store.active m h a) → posts h = .headFailed h)) :
    (s.sample m).events = s.events.postAll s.take.clock
      ((allChannels.filterMap fun c => (s.gantry.judge s.store.active m c).event) ++ hs.map posts
        ++ ks.map EventKind.conflictLockout) := by
  have tripped : (s.gantry.sampled s.store.active m).tripped = ks :=
    (Gantry.tripped_sorted _).eq_of_mem_iff sortedLanes fun k => (lanes k).symm
  rw [State.sample_events m samples, State.samplePosts, tripped,
    s.gantry.sampleEvents_eq s.store.active m heads sortedHeads posted]

end

/-- Settles O51: `provingOf` by its cases; the sample at its moment by `exec_sampleEvent_quiet`; without a trip the
gantry is `Gantry.sampled` and its re-tests, with one the node is `State.lockout`. -/
theorem sampleEventJudgesTheGantry : Obligations.SampleEventJudgesTheGantry := by
  unfold Obligations.SampleEventJudgesTheGantry
  refine ⟨fun p channels => ⟨provingOf_unsettled, fun shown settled => ⟨provingOf_failed shown settled,
    provingOf_degraded shown settled, provingOf_proven shown settled⟩⟩, fun s m works next => ?_⟩
  intro b v u lit sensed judged conflict trips trip proves fails switches
  have run : exec (.sampleEvent m) s = .next (u.sample m).dueTest := exec_sampleEvent_quiet works next m
  have judge : ∀ c, u.gantry.judge u.store.active m c = judged c := fun c =>
    (s.elapse_judge _ b m c).trans (s.gantry.judge_eq b m c)
  have channels : (u.gantry.judged u.store.active m).channels = Vector.ofFn fun c => (judged c).channel := by
    simp only [Gantry.judged_channels, judge]
  have proved : ∀ h, u.gantry.proves u.store.active m h = proves h := fun h => by
    obtain ⟨shown, -⟩ := s.elapse_lampHead (100 - s.lamp.sinceSample) h
    rw [Gantry.proves, channels]
    exact congrArg (provingOf · _) (b.shownPattern_congr h shown)
  have proving : ∀ h : Fin 8, u.gantry.heads[h].proving = s.gantry.heads[h].proving := fun h =>
    (s.elapse_lampHead _ h).2.2
  have failed : ∀ h, u.gantry.Fails u.store.active m h ↔ fails h := fun h => by
    rw [Gantry.Fails, proved, proving]
    exact Iff.rfl
  have switched : ∀ h a, u.gantry.Switches u.store.active m h a ↔ switches h a := fun h a => by
    obtain ⟨shown, test, -⟩ := s.elapse_lampHead (100 - s.lamp.sinceSample) h
    have shown : u.gantry.heads[h].shown = s.gantry.heads[h].shown := shown
    have test : u.gantry.heads[h].test = s.gantry.heads[h].test := test
    rw [Gantry.Switches, failed, shown, test]
    exact Iff.rfl
  have tripped : ∀ k, k ∈ (u.gantry.sampled u.store.active m).tripped ↔ trips k := fun k => by
    have count : u.gantry.lanes[k].conflictCount = s.gantry.lanes[k].conflictCount := s.elapse_conflictCount _ k
    rw [u.gantry.mem_tripped, count]
    exact Iff.rfl
  refine ⟨fun off => by rw [run, u.sample_off m off], fun on => ?_⟩
  have samples : u.node.mode.samples = true := (Mode.samples_iff _).2 on
  refine ⟨u.sample m, run, fun c => ?_, fun h a switch => u.sample_altFlag m samples ((switched h a).2 switch),
    fun hs ks posts heads sortedHeads lanes sortedLanes posted => ?_, fun quiet => ?_, fun locks => ?_,
    u.sample_line m, u.sample_store m, u.sample_sweep m⟩
  · have channel := u.sample_channel m samples c
    rw [judge] at channel
    exact channel
  · simp only [← failed] at heads
    simp only [← tripped] at lanes
    simp only [← switched] at posted
    rw [u.sample_posts m samples heads sortedHeads lanes sortedLanes posted]
    simp only [judge]
    rfl
  · have untripped : (u.gantry.sampled u.store.active m).tripped = [] :=
      List.eq_nil_iff_forall_not_mem.2 fun k trips => quiet ⟨k, (tripped k).1 trips⟩
    obtain ⟨node, take, watchdog, lamp⟩ := u.sample_untripped m samples untripped
    refine ⟨node, take, watchdog, lamp, u.sample_count m samples untripped, u.gantry.sampled u.store.active m,
      fun h => ?_, u.gantry.sampled_count u.store.active m untripped, ?_, ?_⟩
    · obtain ⟨absent, switch, stay⟩ := u.gantry.sampled_head u.store.active m h
      simp only [switched, proved] at switch stay
      exact ⟨absent, switch, stay⟩
    · have relit := (u.gantry.sampled_relit u.store.active m).of_eq (g₂ := { u.gantry with
        channels := Vector.ofFn fun c => (judged c).channel }) channels (u.gantry.judged_slew u.store.active m)
      simp only [switched] at relit
      have litSame : u.store.active.litChannels u.gantry.heads = b.litChannels s.gantry.heads := s.elapse_lit _ b
      rw [litSame] at relit
      exact relit
    · have retested := u.env.retestOpposites_eq u.gantry (u.gantry.sampled u.store.active m)
      simp only [proving] at retested
      rw [u.sample_stays m samples untripped]
      exact retested
  · obtain ⟨k, trips⟩ := locks
    have nonempty : (u.gantry.sampled u.store.active m).tripped ≠ [] :=
      List.ne_nil_of_mem ((tripped k).2 trips)
    obtain ⟨node, lamp, watchdog, take, outputs, heads, counts⟩ := u.sample_tripped m samples nonempty
    exact ⟨node, lamp, watchdog, take, outputs, heads, counts, fun k trips =>
      u.sample_reports m samples ((tripped k).2 trips)⟩

end Sys2Proof.Machine
end

section
/-! SUPPORT. What a post makes of the event queue, and that every step keeps the queue bounded and free of repeats
(R162). -/

namespace Sys2Proof.Machine

/-! ## A post (R162) -/

theorem EventUnit.post_coalesced {u : EventUnit} {e : Event} (old : ∃ x ∈ u.queue, x.kind = e.kind) :
    u.post e = u := if_pos (by simpa using old)

theorem EventUnit.post_of_new {u : EventUnit} {e : Event} (new : ∀ x ∈ u.queue, x.kind ≠ e.kind) :
    u.post e = if u.queue.length < 16 then { u with queue := u.queue ++ [e] } else { u with overflow := true } :=
  if_neg (by simpa using new)

theorem EventUnit.post_joined {u : EventUnit} {e : Event} (new : ∀ x ∈ u.queue, x.kind ≠ e.kind)
    (room : u.queue.length < 16) : u.post e = { u with queue := u.queue ++ [e] } :=
  (EventUnit.post_of_new new).trans (if_pos room)

theorem EventUnit.post_discarded {u : EventUnit} {e : Event} (new : ∀ x ∈ u.queue, x.kind ≠ e.kind)
    (full : 16 ≤ u.queue.length) : u.post e = { u with overflow := true } :=
  (EventUnit.post_of_new new).trans (if_neg (Nat.not_lt.2 full))

/-- Settles O52: the three outcomes of a post, one by one. -/
theorem postsCoalesceOrOverflow : Obligations.PostsCoalesceOrOverflow := by
  unfold Obligations.PostsCoalesceOrOverflow
  exact fun u e => ⟨EventUnit.post_coalesced, EventUnit.post_joined, EventUnit.post_discarded⟩

/-! ## A sound queue under posts and reads -/

/-- A post joins only a queue with room that has none of its kind and object. -/
theorem EventUnit.safe_post {u : EventUnit} (h : u.safe) (e : Event) : (u.post e).safe := by
  obtain ⟨bounded, nodup⟩ := id h
  by_cases old : ∃ x ∈ u.queue, x.kind = e.kind
  · rwa [EventUnit.post_coalesced old]
  have new : ∀ x ∈ u.queue, x.kind ≠ e.kind := fun x hx same => old ⟨x, hx, same⟩
  rcases Nat.lt_or_ge u.queue.length 16 with room | full
  · rw [EventUnit.post_joined new room]
    refine ⟨by simpa using room, ?_⟩
    simpa [List.nodup_append] using ⟨nodup, new⟩
  · rw [EventUnit.post_discarded new full]
    exact ⟨bounded, nodup⟩

theorem EventUnit.safe_postAll {u : EventUnit} (h : u.safe) (clock : Clock) (ks : List EventKind) :
    (u.postAll clock ks).safe :=
  List.foldlRecOn ks _ h fun _ safe k _ => EventUnit.safe_post safe ⟨k, 0, 0, clock⟩

/-- The entries left by a read of the oldest four (R164). -/
theorem EventUnit.safe_read {u : EventUnit} (h : u.safe) :
    ({ queue := u.queue.drop 4, overflow := false } : EventUnit).safe := by
  obtain ⟨bounded, nodup⟩ := h
  refine ⟨(List.drop_sublist 4 u.queue).length_le.trans bounded, ?_⟩
  rw [List.map_drop]
  exact nodup.sublist (List.drop_sublist 4 _)

theorem EventUnit.safe_restartedQueue (c : Cause) (stamp : Clock) : (restartedQueue c stamp).safe :=
  ⟨Nat.le_of_ble_eq_true rfl, List.nodup_singleton _⟩

/-! ## A sound queue through the operations that post -/

/-- What posts nothing keeps the queue. -/
theorem State.queueSafe_of_eq {s t : State} (h : s.queueSafe) (same : t.events = s.events := by simp) :
    t.queueSafe := by
  unfold State.queueSafe
  rwa [same]

section
variable {s : State} (h : s.queueSafe)
include h

theorem State.queueSafe_post (k : EventKind) : (s.post k).queueSafe := EventUnit.safe_post h _

theorem State.queueSafe_takeRecord (p : Nat) : (s.takeRecord p).queueSafe := by
  have taken := EventUnit.safe_post h ⟨.taken p, 0, 0, s.take.clock⟩
  by_cases mode : s.node.mode = .fallback
  · rw [State.takeRecord_returns mode]
    exact EventUnit.safe_post taken _
  · rw [State.takeRecord_inPlace mode]
    exact taken

theorem State.queueSafe_takePlan (p : Nat) : (s.takePlan p).queueSafe :=
  State.queueSafe_of_eq (State.queueSafe_takeRecord h p) (State.takeTargets_events _ _ _)

omit h in
theorem fireEntry_queueSafe {acc : State × Option Nat} (h : acc.1.queueSafe) (e : ScheduleEntry) :
    (fireEntry acc e).1.queueSafe := by
  simp only [fireEntry]
  split
  · exact State.queueSafe_post h _
  · split
    · exact State.queueSafe_takeRecord h _
    · split
      · exact State.queueSafe_takeRecord h _
      · exact State.queueSafe_post h _
    all_goals exact h

theorem State.queueSafe_dueTest : s.dueTest.queueSafe := by
  have fired : (s.dueEntries.foldl fireEntry (s.unscheduled, none)).1.queueSafe :=
    List.foldlRecOn (motive := fun acc => acc.1.queueSafe) s.dueEntries fireEntry h
      fun _ safe e _ => fireEntry_queueSafe safe e
  exact State.queueSafe_of_eq fired s.dueTest_events

theorem State.queueSafe_watchdogExpire : s.watchdogExpire.queueSafe := by
  obtain ⟨-, -, -, entered⟩ := s.fallbackEntry_rest
  unfold State.watchdogExpire
  split
  · unfold State.queueSafe
    rw [entered]
    exact EventUnit.safe_post h _
  all_goals exact h

theorem State.queueSafe_dueWatchdog : s.dueWatchdog.queueSafe := by
  unfold State.dueWatchdog
  split
  · exact State.queueSafe_watchdogExpire h
  · exact h

theorem State.queueSafe_stallHead (i : Fin 8) : (s.stallHead i).queueSafe := EventUnit.safe_post h _

theorem State.queueSafe_dueStalls : s.dueStalls.queueSafe := by
  refine List.foldlRecOn allHeads _ h fun u safe i _ => ?_
  split
  · exact State.queueSafe_stallHead safe i
  · exact safe

theorem State.queueSafe_dueSequencer : s.dueSequencer.queueSafe :=
  State.queueSafe_dueStalls (State.queueSafe_of_eq h)

theorem State.queueSafe_dueLowered (old : Bank) : (s.dueLowered old).queueSafe := by
  have dwelt : (if s.store.active.dwellMs < old.dwellMs then s.seq Env.dueDwells else s).queueSafe := by
    split
    · exact State.queueSafe_of_eq h
    · exact h
  unfold State.dueLowered
  simp only
  split
  · exact State.queueSafe_dueStalls (State.queueSafe_of_eq dwelt)
  · exact State.queueSafe_of_eq dwelt

theorem State.queueSafe_releaseHold : s.releaseHold.queueSafe := by
  unfold State.releaseHold
  split
  · exact State.queueSafe_of_eq (State.queueSafe_dueSequencer (s := s.setHold false) h)
  · exact h

theorem State.queueSafe_readTemperature (reading : Int) : (s.readTemperature reading).queueSafe := by
  simp only [State.readTemperature]
  repeat' split
  · exact h
  · exact EventUnit.safe_post h _
  · exact EventUnit.safe_post h _
  · exact h

theorem State.queueSafe_sample (m : List Nat) : (s.sample m).queueSafe := by
  cases samples : s.node.mode.samples
  · unfold State.sample
    rwa [samples]
  · exact State.queueSafe_of_eq (s := s.sampled m) (EventUnit.safe_postAll h _ _) (s.sample_events m samples)

theorem State.queueSafe_dueAtCommit (old : Bank) : (s.dueAtCommit old).queueSafe := by
  have timers : (if s.node.hold then s.dueLowered old else s.dueSequencer).queueSafe := by
    split
    · exact State.queueSafe_dueLowered h old
    · exact State.queueSafe_dueSequencer h
  exact State.queueSafe_of_eq (State.queueSafe_dueWatchdog timers) (State.dueSlew_events _)

theorem State.queueSafe_commitComplete : s.commitComplete.queueSafe := by
  unfold State.commitComplete
  split
  · rw [s.commitOk_eq]
    exact State.queueSafe_dueAtCommit (s := s.committed) (EventUnit.safe_post h _) _
  · exact EventUnit.safe_post h _

end

theorem State.queueSafe_keepRestart (s : State) (p : ResetInputs) : (s.keepRestart p).queueSafe := by
  obtain ⟨u, judged, -, -, -, -, events, -⟩ := s.keepRestart_judged p
  rw [judged]
  refine State.queueSafe_readTemperature ?_ _
  unfold State.queueSafe
  rw [events]
  exact EventUnit.safe_restartedQueue _ _

/-! ## Every step -/

/-- Every event keeps the queue sound. -/
theorem kept_queueSafe : Kept State.queueSafe where
  queue _ _ h := h
  line _ _ _ h := h
  key _ _ h := h
  capture _ _ h := h
  post _ _ _ _ h := EventUnit.safe_post h _
  heartbeat _ _ h := h
  refresh _ _ _ h := State.queueSafe_of_eq h
  level _ _ _ h := State.queueSafe_of_eq h
  sync s c h := State.queueSafe_dueTest (s := { s with take := { s.take with clock := c } }) h
  dueTest _ h := State.queueSafe_dueTest h
  elapse _ _ _ _ h := State.queueSafe_of_eq h
  expire _ h := State.queueSafe_watchdogExpire h
  dwell _ _ _ h := State.queueSafe_of_eq h
  clearance _ _ _ h := State.queueSafe_of_eq h
  stall _ i h := State.queueSafe_stallHead h i
  sequencer _ h := State.queueSafe_dueSequencer h
  stale _ _ h := State.queueSafe_of_eq h
  slew _ h := State.queueSafe_of_eq h
  atReading _ h := h
  temperature _ _ h := State.queueSafe_readTemperature h _
  atSample _ h := h
  sample _ m h := State.queueSafe_sample h m
  nextRead _ h := h
  commit _ _ h := State.queueSafe_commitComplete h
  restartDue _ _ h := h
  powerUp _ _ _ _ := EventUnit.safe_restartedQueue _ _
  keepRestart s p _ := State.queueSafe_keepRestart s p
  supplyLoss _ h := State.queueSafe_of_eq h
  resetLow _ h := State.queueSafe_of_eq h
  supplyBack _ _ h := h
  resetBack _ _ h := h
  readEvents _ h := EventUnit.safe_read h
  write _ _ _ _ _ _ h := State.queueSafe_of_eq h
  revert _ h := State.queueSafe_of_eq h
  validating _ h := h
  discard _ h := h
  stage _ _ _ _ h := State.queueSafe_of_eq h
  unstage _ h := State.queueSafe_of_eq h
  take _ p _ _ h := State.queueSafe_of_eq (State.queueSafe_takePlan h p)
  schedule _ _ _ _ _ _ h := State.queueSafe_of_eq h
  scheduleFull _ _ h := h
  cancel _ _ _ _ h := State.queueSafe_of_eq h
  enter _ _ h := State.queueSafe_of_eq h
  leave _ _ h := State.queueSafe_of_eq h
  hold _ _ h := State.queueSafe_of_eq h
  stepHeads _ _ h := State.queueSafe_of_eq h
  release _ _ h := State.queueSafe_releaseHold h
  lampTest _ _ _ _ _ _ _ _ h := State.queueSafe_of_eq h
  lampOff _ _ _ h := State.queueSafe_of_eq h
  clearFault _ _ h := State.queueSafe_of_eq h
  relearn _ _ h := State.queueSafe_of_eq h
  restart _ _ h := h

/-- Settles O55: each event of `Kept` posts, reads the oldest entries, or leaves the queue. -/
theorem eventQueueStaysSound : Obligations.EventQueueStaysSound := by
  unfold Obligations.EventQueueStaysSound
  exact fun s t safe next => kept_queueSafe.step safe next

end Sys2Proof.Machine
end

section
/-! SUPPORT. The reports of the node: alarm conditions, status byte, node record and events (R163 to R166). -/

namespace Sys2Proof.Machine

/-! ## READ_NODE (R166) -/

theorem State.nodeRecord_eq (s : State) : s.nodeRecord =
    [s.statusByte, byteOf s.store.lastResult.code, byteOf s.store.lastTable,
      byteOf s.store.lastIndex, byteOf s.node.restartCause.code,
      byteOf ((if s.node.tablesRetained then 1 else 0) + (if s.node.tablesValid then 2 else 0)
        + (if s.node.key then 4 else 0) + (if s.line.ring then 8 else 0)
        + (if s.watchdog.stream then 16 else 0) + (if s.lamp.derate then 32 else 0)),
      byteOf s.line.address] ++ be32 s.take.clock
    ++ [BitVec.ofInt 8 s.lamp.temperature, byteOf s.lamp.level, byteOf s.take.currentPlan,
      byteOf (s.take.pendingPlan.getD 0), byteOf s.take.schedule.length, s.alarmByte,
      byteOf (if s.alarmSummary then 1 else 0), byteOf s.line.lineErrors] := by
  simp only [State.nodeRecord, bit_scaled]
  rfl

section
variable {o : Order} {s : State}

theorem actReadNode_plain (flag : natAt o.body 0 = 0) : actReadNode o s = .done s s.nodeRecord := by
  simp [actReadNode, flag]

/-- The record is taken before the counter is cleared. -/
theorem actReadNode_clearing (flag : natAt o.body 0 = 1) :
    actReadNode o s = .done { s with line := { s.line with lineErrors := 0 } } s.nodeRecord := by
  simp [actReadNode, flag, State.onLine]

theorem actReadNode_refused (flag : 1 < natAt o.body 0) : actReadNode o s = .refuse s .outOfRange := if_pos flag

end

/-- Settles O22: the record by `State.nodeRecord_eq`; the clear flag selects the order's case. -/
theorem readNodeReturnsTheRecord : Obligations.ReadNodeReturnsTheRecord := by
  unfold Obligations.ReadNodeReturnsTheRecord
  refine ⟨rfl, rfl, fun o s addressed body => ?_⟩
  intro t record
  have read : exec (.readNode o) s = .next ((actReadNode o t).state.replied 0x01#8 o
      (actReadNode o t).status (actReadNode o t).content) :=
    exec_addressedOrder (c := .readNode o) rfl addressed ((lengthIs_iff 1 _).2 body) (.inl rfl) rfl
  have recorded : t.nodeRecord = record := t.nodeRecord_eq
  refine ⟨fun plain => ?_, fun clearing => ?_, fun refused => ?_⟩
  · rw [read, actReadNode_plain plain, recorded]
    rfl
  · rw [read, actReadNode_clearing clearing, recorded]
    rfl
  · rw [read, actReadNode_refused refused]
    rfl

/-! ## PEEK_EVENTS and READ_EVENTS (R163, R164) -/

theorem byteOf_bit (b : Bool) : byteOf (bit b) = if b then 1#8 else 0#8 := by cases b <;> rfl

theorem EventUnit.report_eq (u : EventUnit) : u.report =
    byteOf (u.queue.take 4).length :: (if u.overflow then 1#8 else 0#8) :: (u.queue.take 4).flatMap Event.bytes := by
  rw [EventUnit.report, byteOf_bit]
  rfl

/-- Settles O24: both orders return `EventUnit.report` of the queue as it stands, and differ in what they leave. -/
theorem eventsAreReadOldestFirst : Obligations.EventsAreReadOldestFirst := by
  unfold Obligations.EventsAreReadOldestFirst
  refine ⟨fun c h a p x k w => ?_, fun o s addressed body => ?_⟩
  · cases a <;> rfl
  · intro t oldest content
    have length : lengthIs 0 o.body = true := (lengthIs_iff 0 _).2 (by simp [body])
    have reported : t.events.report = content := t.events.report_eq
    have peeked : exec (.peekEvents o) s = .next (t.replied 0x04#8 o .done t.events.report) :=
      exec_addressedOrder (c := .peekEvents o) (act := actPeekEvents) rfl addressed length (.inl rfl) rfl
    have removed : exec (.readEvents o) s = .next ({ t with
        events := { queue := s.events.queue.drop 4, overflow := false } }.replied 0x03#8 o .done
          t.events.report) :=
      exec_addressedOrder (c := .readEvents o) (act := actReadEvents) rfl addressed length (.inl rfl) rfl
    rw [reported] at peeked removed
    exact ⟨peeked, removed⟩

/-! ## The alarm conditions (R165) -/

section
variable (s : State)

theorem State.any_existing (p : Head → Bool) : s.existing.any p = true ↔
    ∃ h : Fin 8, s.store.active.headExists h = true ∧ p s.gantry.heads[h] = true := by
  simp only [State.existing, List.any_map, List.any_eq_true, Bank.mem_existing, Function.comp_apply]

theorem State.alarm_failed : s.alarm 0 = true ↔
    ∃ h : Fin 8, s.store.active.headExists h = true ∧ s.gantry.heads[h].proving = .failed :=
  (s.any_existing _).trans (by simp only [beq_iff_eq])

theorem State.alarm_degraded : s.alarm 1 = true ↔ ∃ h : Fin 8, s.store.active.headExists h = true
    ∧ (s.gantry.heads[h].proving = .degraded ∨ ∃ a, s.gantry.heads[h].shown = some (a, .alternate)) :=
  (s.any_existing _).trans (by simp only [Bool.or_eq_true, beq_iff_eq, Head.onAlternate_iff])

theorem State.alarm_stalled : s.alarm 2 = true ↔ ∃ h : Fin 8, s.gantry.heads[h].stalled = true :=
  List.any_eq_true.trans (exists_congr fun h => and_iff_right (mem_allHeads h))

/-- A7 stands in the summary whatever the mask says. -/
theorem State.alarmSummary_iff : s.alarmSummary = true ↔ s.alarm 7 = true ∨ ∃ k : Fin 8, k.val < 7
    ∧ s.alarm k = true ∧ (byteAt (s.store.active.row .alarmMask 0) 0).getLsbD k = false := by
  have below : ∀ k : Fin 8, k ∈ ([0, 1, 2, 3, 4, 5, 6] : List (Fin 8)) ↔ k.val < 7 := by decide
  simp only [State.alarmSummary, Bool.or_eq_true, List.any_eq_true, below, Bool.and_eq_true,
    Bool.not_eq_true', Bank.masked]

/-- The eight conditions in bit order. -/
def State.alarms : List Bool :=
  [s.alarm 0, s.alarm 1, s.alarm 2, s.alarm 3, s.alarm 4, s.alarm 5, s.alarm 6, s.alarm 7]

theorem toNat_ofBoolListLE_nil : (BitVec.ofBoolListLE []).toNat = 0 := rfl

theorem toNat_ofBoolListLE_cons (b : Bool) (l : List Bool) :
    (BitVec.ofBoolListLE (b :: l)).toNat = bit b + 2 * (BitVec.ofBoolListLE l).toNat := by
  have value : b.toNat = bit b := by cases b <;> rfl
  rw [BitVec.ofBoolListLE, BitVec.toNat_concat, value]
  omega

theorem State.alarmByte_toNat : s.alarmByte.toNat = (BitVec.ofBoolListLE s.alarms).toNat := by
  have packed : bit (s.alarm 0) + 2 * bit (s.alarm 1) + 4 * bit (s.alarm 2) + 8 * bit (s.alarm 3)
      + 16 * bit (s.alarm 4) + 32 * bit (s.alarm 5) + 64 * bit (s.alarm 6) + 128 * bit (s.alarm 7)
      = (BitVec.ofBoolListLE s.alarms).toNat := by
    simp only [State.alarms, toNat_ofBoolListLE_cons, toNat_ofBoolListLE_nil]
    omega
  rw [State.alarmByte, byteOf, BitVec.toNat_ofNat, packed]
  exact Nat.mod_eq_of_lt (BitVec.ofBoolListLE s.alarms).isLt

theorem State.alarmByte_bit (k : Fin 8) : s.alarmByte.getLsbD k = s.alarm k := by
  have digit : s.alarmByte.getLsbD k = s.alarms.getD k false :=
    (congrArg (Nat.testBit · k) s.alarmByte_toNat).trans (BitVec.getLsbD_ofBoolListLE ..)
  rw [digit]
  fin_cases k <;> rfl

end

/-! ## The status byte -/

/-- The fields of a status byte stand where the slot has them. -/
theorem statusByte_fields : ∀ (mode : Fin 5) (hold validating summary queued full : Bool),
    let x := byteOf (mode.val + 8 * bit hold + 16 * bit validating + 32 * bit summary + 64 * bit queued
      + 128 * bit full)
    x.extractLsb' 0 3 = BitVec.ofNat 3 mode.val ∧ x.getLsbD 3 = hold ∧ x.getLsbD 4 = validating
      ∧ x.getLsbD 5 = summary ∧ x.getLsbD 6 = queued ∧ x.getLsbD 7 = full := by
  decide

theorem Mode.code_lt (m : Mode) : m.code < 5 := by cases m <;> decide

theorem State.statusByte_bits (s : State) : s.statusByte.extractLsb' 0 3 = BitVec.ofNat 3 s.node.mode.code
    ∧ s.statusByte.getLsbD 3 = s.node.hold ∧ s.statusByte.getLsbD 4 = s.store.validating
    ∧ s.statusByte.getLsbD 5 = s.alarmSummary ∧ s.statusByte.getLsbD 6 = !s.events.queue.isEmpty
    ∧ s.statusByte.getLsbD 7 = s.take.scheduleFull :=
  statusByte_fields ⟨_, s.node.mode.code_lt⟩ s.node.hold s.store.validating s.alarmSummary
    (!s.events.queue.isEmpty) s.take.scheduleFull

/-- Settles O53: the conditions one by one, the summary by `State.alarmSummary_iff`, both bytes bit by bit. -/
theorem alarmsAndStatus : Obligations.AlarmsAndStatus := by
  unfold Obligations.AlarmsAndStatus
  intro s b
  obtain ⟨mode, hold, validating, summary, queued, full⟩ := s.statusByte_bits
  refine ⟨s.alarm_failed, s.alarm_degraded, s.alarm_stalled, beq_iff_eq, Iff.rfl, decide_eq_true_iff, Iff.rfl,
    beq_iff_eq, s.alarmSummary_iff, rfl, s.alarmByte_bit, ?_, hold, validating, summary, queued, full, rfl,
    fun _ _ _ _ _ => rfl⟩
  rw [mode]
  cases s.node.mode <;> rfl

end Sys2Proof.Machine
end

section
/-! SUPPORT. One step of the node on a queue that holds a command. -/

namespace Sys2Proof.Machine

/-- The counterpart of `step_empty`: the front command leaves the queue and is carried out. -/
theorem step_front {c : Instr} {rest : List Instr} {s : State} (queue : s.pending = c :: rest) :
    step s = exec c { s with pending := rest } := by
  rw [step, queue]

/-- Settles O1: with a command at its front the queue selects the second branch of `step`. -/
theorem stepRunsTheFrontCommand : Obligations.StepRunsTheFrontCommand := by
  unfold Obligations.StepRunsTheFrontCommand
  intro c rest s queue
  exact step_front queue

end Sys2Proof.Machine
end
